-- ==== Sys2Proof/Word.lean ====
section
/-! DEFINITION. The words of the part and the fixed tables its state is made of. -/

namespace Sys2Proof

/-- One byte of a frame, a record or a receipt. -/
abbrev Byte := BitVec 8

/-- A table of `n` like entries: probes, lines, compartments, slots. -/
abbrev Table (α : Type) (n : Nat) := Vector α n

/-- The entry at index `i`. -/
def Table.read {α : Type} {n : Nat} (t : Table α n) (i : Fin n) : α := t[i.val]

/-- The table with the entry at index `i` replaced. -/
def Table.write {α : Type} {n : Nat} (t : Table α n) (i : Fin n) (a : α) : Table α n :=
  t.set i.val a i.isLt

/-- The table with `f` applied to the entry at index `i`. -/
def Table.modify {α : Type} {n : Nat} (t : Table α n) (i : Fin n) (f : α → α) : Table α n :=
  t.write i (f (t.read i))

/-- The table whose entry at `i` is `f i`. -/
def Table.ofIdx {α : Type} {n : Nat} (f : Fin n → α) : Table α n :=
  ⟨⟨(List.finRange n).map f⟩, by simp⟩

/-- Every entry replaced by a function of its index and itself. -/
def Table.mapIdx {α β : Type} {n : Nat} (t : Table α n) (f : Fin n → α → β) : Table β n :=
  Table.ofIdx (fun i => f i (t.read i))

/-- `n` entries, all equal. -/
def Table.const {α : Type} (n : Nat) (a : α) : Table α n := Table.ofIdx (fun _ => a)

/-- The first index, from 0 upward, whose entry satisfies `p`. -/
def Table.findIdx? {α : Type} {n : Nat} (t : Table α n) (p : α → Bool) : Option (Fin n) :=
  (List.finRange n).find? (fun i => p (t.read i))

/-- The indices, in ascending order, whose entry satisfies `p`. -/
def Table.indices {α : Type} {n : Nat} (t : Table α n) (p : Fin n → α → Bool) : List (Fin n) :=
  (List.finRange n).filter (fun i => p i (t.read i))

end Sys2Proof
end

