-- ==== Sys2Proof/Syntax.lean ====
section
/-! DEFINITION. The commands and events the part takes, one constructor for each row of opcode_table.json. -/

namespace Sys2Proof

/-- The three links (00_scope, R202). -/
inductive Port where
  | t
  | f
  | h
  deriving DecidableEq, Repr

/-- What every serial command carries besides its arguments: the port it arrives on and the partner's tag (R200). -/
structure Header where
  port : Port
  tag : Byte
  deriving DecidableEq, Repr

/-- The codes the converter delivers in one round: one for each probe and one for each reference (R4, R6).
A code that the round does not use is ignored. -/
structure Conversion where
  codes : Table (BitVec 16) 8
  refA : BitVec 16
  refB : BitVec 16
  deriving DecidableEq, Repr

/-- What START finds from outside: the reference codes of its check (R6) and whether the integrity check over
table memory verifies (R168). -/
structure StartInputs where
  refA : BitVec 16
  refB : BitVec 16
  integrity : Bool
  deriving DecidableEq, Repr

/-- The two forms of READ_CONSIGNMENT (R101). -/
inductive ConsignmentName where
  | byId (id : BitVec 32)
  | bySlot (slot : Byte)
  deriving DecidableEq, Repr

/-- The two forms of READ_CLAIM (R123). -/
inductive ClaimName where
  | byNumber (number : BitVec 32)
  | bySlot (slot : Byte)
  deriving DecidableEq, Repr

/-- One constructor for each row of opcode_table.json, in the table's order. Arguments of serial commands have the
widths of R201; an omitted optional argument is `none`. -/
inductive Instr where
  | setProbe (h : Header) (probe : Byte) (offset gain : BitVec 16)
  | readProbes (h : Header)
  | setLine (h : Header) (line kind level : Byte) (debounce : BitVec 16) (comp : Option Byte)
  | readDoors (h : Header)
  | readDoorLog (h : Header) (fromEpisode : BitVec 32) (count : Byte)
  | setCompartment (h : Header) (comp inUse : Byte) (zone primary secondary : Option Byte)
  | setZone (h : Header) (zone : Byte) (fields : List (Byte × BitVec 32))
  | reportDefrost (h : Header) (comp report : Byte)
  | reportUnit (h : Header) (comp report : Byte)
  | reportSetpoint (h : Header) (comp : Byte) (value : BitVec 16)
  | readAir (h : Header)
  | list (h : Header) (id : BitVec 32) (comp stop : Byte) (dose : Option (BitVec 32)) (shock : Option Byte)
      (source : Option (BitVec 32)) (estimate : Option (BitVec 16))
  | load (h : Header) (id : BitVec 32) (estimate : Option (BitVec 16))
  | move (h : Header) (id : BitVec 32) (comp : Byte)
  | unload (h : Header) (id : BitVec 32)
  | drop (h : Header) (id : BitVec 32)
  | readConsignment (h : Header) (which : ConsignmentName)
  | settleClaim (h : Header) (number : BitVec 32)
  | withdrawClaim (h : Header) (number : BitVec 32)
  | readClaim (h : Header) (which : ClaimName)
  | beginHandover (h : Header) (id : BitVec 32)
  | cancelHandover (h : Header) (id : BitVec 32)
  | getSummary (h : Header) (id : BitVec 32)
  | decide (h : Header) (id : BitVec 32) (outcome reason : Byte) (mark : Option (List Byte))
  | readReceipt (h : Header) (number : BitVec 32)
  | ackReceipt (h : Header) (through : BitVec 32)
  | readHistory (h : Header) (fromSequence : BitVec 32) (count : Byte)
  | ackHistory (h : Header) (through : BitVec 32)
  | setMarks (h : Header) (upper lower : BitVec 32)
  | setInterval (h : Header) (rounds : Byte)
  | enterService (h : Header)
  | leaveService (h : Header)
  | park (h : Header)
  | wake (h : Header)
  | setTime (h : Header) (wall : BitVec 32)
  | restart (h : Header)
  | commitSetup (h : Header)
  | factoryClear (h : Header)
  | setRights (h : Header) (readings handoverBegin receiptRead historyRead : Byte)
  | enableSet (h : Header) (kinds : BitVec 16)
  | enableClear (h : Header) (kinds : BitVec 16)
  | ackEvents (h : Header) (kinds : BitVec 16)
  | readEvents (h : Header)
  | readStatus (h : Header)
  | characterReceived (p : Port) (ninth : Bool) (value : Byte)
  | frameReceived (p : Port)
  | frameTimeout (p : Port)
  | responseSent (p : Port)
  | roundStart
  | readingsPublished (conv : Conversion)
  | converterFault (conv : Conversion)
  | probeLost (probe : Fin 8) (conv : Conversion)
  | probeRecovered (probe : Fin 8) (conv : Conversion)
  | rawLevelChange (line : Fin 8) (high : Bool) (instant : Nat)
  | lineEvent (line : Fin 8) (instant : Nat)
  | secondAdvance
  | doorOverstay (comp : Fin 4)
  | handoverExpiry (slot : Fin 32)
  | warmUpEnd
  | wakingComplete (refA refB : BitVec 16)
  | airExcursionEvaluation
  | excursionActive (comp : Fin 4)
  | recoveryEnd (comp : Fin 4)
  | defrostOverrun (comp : Fin 4)
  | episodePeakUpdate
  | exposureStep
  | claimRequest
  | lateAllocation
  | parkTest
  | quietCount
  | enterDormant
  | historyIntervalUpdate
  | sample
  | markRequest
  | historyProgramStart
  | historyProgramComplete
  | historyProgramFailure
  | beginNewSector
  | sectorEraseComplete
  | sectorEraseFailure
  | receiptWriteStart
  | receiptWriteCompletion
  | receiptProgramFailure
  | receiptBlockEraseStart
  | receiptBlockEraseComplete
  | receiptBlockEraseFailure
  | counterBlockRewriteStart
  | counterBlockRewriteEnd (ok : Bool)
  | commitStart
  | commitEnd (ok : Bool)
  | mainPowerFailure
  | resetInputAsserted
  | resetInputReleased (found : StartInputs)
  | mainPowerReturn (found : StartInputs)
  | startComplete
  | backupSupplyFall
  deriving DecidableEq, Repr

end Sys2Proof
end

