-- ==== Sys2Proof/Decode.lean ====
section
/-! DEFINITION. The command that a word of the opcode table spells. No row of opcode_table.json gives bits. -/

namespace Sys2Proof

/-- The opcode table gives no row any bits ("fields" is empty and no row has "fixed"), so no word spells a command.
The frames that do carry commands (R200, R201) are parsed in Machine/Operands.lean. -/
def decodeTableWord (_nbits _w : Nat) : Option Instr := none

end Sys2Proof
end

