-- ==== Sys2Proof/Config.lean ====
section
/-! DEFINITION. What an implementation fixes and what the manual leaves open: constants without a body. -/

namespace Sys2Proof

/-- What a flash slot reads as after an operation on it failed or was cut short: all 0xFF, bytes whose
check does not verify, or the whole record (or receipt) that was being written or stood there. -/
inductive Leaves where
  | erased
  | garbage
  | whole
  deriving DecidableEq, Repr, Inhabited

namespace Config

/-- The part's serial number, reported by READ_STATUS and the previous check of the first receipt (R138, R197). -/
opaque serialNumber : BitVec 32

/-- The vendor code of READ_STATUS (R197). Its width is the model's choice (log 14). -/
opaque vendorCode : BitVec 16

/-- The part code of READ_STATUS (R197). Its width is the model's choice (log 14). -/
opaque partCode : BitVec 16

/-- The revision of READ_STATUS (R197). Its width is the model's choice (log 14). -/
opaque revision : BitVec 8

/-- What the slot of a failed or interrupted program reads as: R147, R162 and R144 class it only later, by its
contents. A free value, read with the counter `freeCount` (log 12). -/
opaque programLeaves : Nat → Leaves

/-- What slot `i` of a sector or block reads as when its erase was interrupted or failed: a free value (log 13). -/
opaque eraseLeaves : Nat → Nat → Leaves

/-- What follows a 32-bit number that stands at 4,294,967,295: the spec states nothing there (log 11). -/
opaque numberPastMax : Nat → BitVec 32

end Config

end Sys2Proof
end

