-- ==== Sys2Proof/Machine/Types.lean ====
section
/-! DEFINITION. The data that State is made of, block by block (00_scope.md, "Blocks and how they work together"). -/

namespace Sys2Proof.Machine

/-! ## Names shared by several blocks -/

/-- The modes (R165), in the order of their codes (R202). -/
inductive Mode where
  | start | setup | service | parked | waking | dormant
  deriving DecidableEq, Repr

/-- The causes of a mode change (R165), in the order of their codes (R202). -/
inductive ModeCause where
  | start | enterService | leaveService | park | door | parkEnded | wake | load | quiet | wakingDone
  deriving DecidableEq, Repr

/-- The status codes (00_scope, "Status codes"; R202). -/
inductive Status where
  | ok | clamped | busy | denied | wrongMode | notFound | duplicate | full | badState | badArgument | expired
  | notReady | notUploaded | claimHeld | receiptsFull | storeFault | uncommitted | frameError
  deriving DecidableEq, Repr

/-- The twelve event kinds in priority order (section 10.4). -/
inductive EventKind where
  | backupLost | store | alarm | claim | sensor | handover | receipt | unit | door | upload | mode | time
  deriving DecidableEq, Repr

/-- The rights groups of R190. `readStatus` is the open group of READ_STATUS, `summary` the either-of-two group of GET_SUMMARY (R131). -/
inductive Group where
  | config | mode | manifest | claims | historyAck | receiptAck | unitReport | events | readings | handoverBegin
  | receiptRead | historyRead | handoverDecide | summary | readStatus
  deriving DecidableEq, Repr

/-- One value for each port. -/
structure PerPort (α : Type) where
  t : α
  f : α
  h : α
  deriving DecidableEq, Repr

/-- The value of port `p`. -/
def PerPort.at {α : Type} (x : PerPort α) : Port → α
  | .t => x.t
  | .f => x.f
  | .h => x.h

/-- The values with port `p`'s replaced. -/
def PerPort.put {α : Type} (x : PerPort α) (p : Port) (a : α) : PerPort α :=
  match p with
  | .t => { x with t := a }
  | .f => { x with f := a }
  | .h => { x with h := a }

/-- `g` applied to every port's value. -/
def PerPort.map {α β : Type} (x : PerPort α) (g : α → β) : PerPort β := ⟨g x.t, g x.f, g x.h⟩

/-! ## Settings (R182) -/

/-- What a line reports (section 2.1). -/
inductive LineKind where
  | door | defrost | unitFault | park | unused
  deriving DecidableEq, Repr

/-- One entry of the line table (section 2.1). -/
structure LineEntry where
  kind : LineKind
  activeHigh : Bool
  debounce : Nat
  comp : Option (Fin 4)
  deriving DecidableEq, Repr

/-- A probe's trims (R5). -/
structure Trim where
  offset : Int
  gain : Int
  deriving DecidableEq, Repr

/-- One compartment's configuration entry (section 3.1). -/
structure CompConfig where
  inUse : Bool
  zone : Option (Fin 4)
  primary : Option (Fin 8)
  secondary : Option (Fin 8)
  deriving DecidableEq, Repr

/-- The sixteen fields of a zone profile in the order of R43's table. -/
inductive ZoneField where
  | nominal | doorAllowance | doorOpenLimit | recovery | defrostAllowance | defrostMax | hysteresis | alarmDelay
  | k | theta | soften | weight | shockHysteresis | shockLimit | hardLimit | doseLimit
  deriving DecidableEq, Repr

/-- A zone profile (R43, R44). -/
structure Zone where
  nominal : Int
  doorAllowance : Int
  doorOpenLimit : Int
  recovery : Int
  defrostAllowance : Int
  defrostMax : Int
  hysteresis : Int
  alarmDelay : Int
  k : Int
  theta : Int
  soften : Int
  weight : Int
  shockHysteresis : Int
  shockLimit : Int
  hardLimit : Int
  doseLimit : Int
  deriving DecidableEq, Repr

/-- The four H-port grants (R190). -/
structure Grants where
  readings : Bool
  handoverBegin : Bool
  receiptRead : Bool
  historyRead : Bool
  deriving DecidableEq, Repr

/-- The settings, working or committed (R182). -/
structure Settings where
  lines : Table LineEntry 8
  trims : Table Trim 8
  comps : Table CompConfig 4
  zones : Table Zone 4
  interval : Nat
  upper : Nat
  lower : Nat
  grants : Grants
  deriving DecidableEq, Repr

/-! ## Measurement front end (file 01) -/

/-- A probe's status (section 1.4; R202). -/
inductive ProbeStatus where
  | unused | unknown | good | held | lost | recovering
  deriving DecidableEq, Repr

/-- One reading of a probe: a temperature with its flags, or FAULT (R4, R5, R8). -/
inductive Reading where
  | fault
  | valid (value : Int) (clamped suspect : Bool)
  deriving DecidableEq, Repr

/-- One entry of the probe table (section 1.4). Assignment and trims stand in the settings. -/
structure Probe where
  status : ProbeStatus
  run : Nat
  raw : Option (BitVec 16)
  reading : Option Reading
  held : Option Int
  deriving DecidableEq, Repr

/-- The reference-check record (section 1.3). -/
structure RefRecord where
  codeA : BitVec 16
  codeB : BitVec 16
  pass : Bool
  consecutive : Nat
  converterFault : Bool
  deriving DecidableEq, Repr

/-- A compartment's air record (section 1.5). -/
structure AirRecord where
  a : Option Int
  clamped : Bool
  suspect : Bool
  held : Bool
  lost : Bool
  contributors : List (Fin 8)
  deriving DecidableEq, Repr

/-- The round in flight (R1, R3). `converted` tells the probes that the round converts: those assigned at its start
and not reassigned since (R9). -/
structure Round where
  parked : Bool
  startedIn : Mode
  start : Nat
  trims : Table Trim 8
  check : Bool
  converted : Table Bool 8
  deriving DecidableEq, Repr

/-- What a readings-published event carries (R3). -/
structure Publication where
  parked : Bool
  startedIn : Mode
  start : Nat
  second : Nat
  check : Option Bool
  probes : Table (ProbeStatus × Option Reading) 8
  air : Table (Option AirRecord) 4
  deriving DecidableEq, Repr

/-- The front end's state (sections 1.1, 1.3, 1.4, 1.5). -/
structure FrontEnd where
  probes : Table Probe 8
  nextStart : Option Nat
  checkDue : Nat
  checkRequest : Bool
  ref : RefRecord
  round : Option Round
  air : Table AirRecord 4
  lastStart : Option Nat
  deriving DecidableEq, Repr

/-- Publications made and not yet taken, one list for each block that takes them (R3, 00_scope). -/
structure Publications where
  line : List Publication
  monitor : List Publication
  engine : List Publication
  claims : List Publication
  control : List Publication
  store : List Publication
  deriving DecidableEq, Repr

/-! ## Line unit (file 02) -/

/-- A candidate: the state the raw level indicates and the instant it was first seen, in milliseconds (R22, log 10). -/
structure Candidate where
  active : Bool
  instant : Nat
  deriving DecidableEq, Repr

/-- One line: its raw level (the pin), its debounced state and its candidate (section 2.2). -/
structure Line where
  high : Bool
  active : Bool
  candidate : Option Candidate
  deriving DecidableEq, Repr

/-- One entry of the door episode log (section 2.5). -/
structure Episode where
  number : Nat
  line : Fin 8
  comp : Fin 4
  start : Nat
  stop : Option Nat
  peak : Option Int
  overstay : Bool
  interrupted : Bool
  deriving DecidableEq, Repr

/-- The line unit's state (file 02). `flags` holds each port's door-change flags, bit l for line l (R34). -/
structure LineUnit where
  line : Table Line 8
  counters : Table (BitVec 32) 4
  log : List Episode
  nextEpisode : Nat
  flags : PerPort (BitVec 8)
  deriving DecidableEq, Repr

/-! ## Compartment monitor (file 03) -/

/-- Door phases (R46; R202). -/
inductive DoorPhase where
  | closed | allow | overstay | recovery
  deriving DecidableEq, Repr

/-- Defrost phases (R49; R202). -/
inductive DefrostPhase where
  | none | allow | overrun
  deriving DecidableEq, Repr

/-- Air excursion states (R56; R202). -/
inductive Excursion where
  | clear | pending | active
  deriving DecidableEq, Repr

/-- The monitor's state for one compartment (file 03, opening table). `overstayDue` stands while an advance of recorder
time past the door open limit has been handed on and not yet taken (R47, R179; the model's own field, log 7). -/
structure Compartment where
  door : DoorPhase
  openStart : Option Nat
  recovery : Option Nat
  defrostReport : Bool
  defrost : DefrostPhase
  elapsed : Nat
  unitReport : Bool
  setpoint : Option Int
  conflict : Bool
  excursion : Excursion
  pending : Nat
  estimate : Option Int
  startDue : Bool
  overstayDue : Bool
  deriving DecidableEq, Repr

/-! ## Consignments (sections 4.1 and 5.1) -/

/-- Consignment states (R202). -/
inductive ConsState where
  | listed | aboard | handingOver | delivered | returned | unloaded
  deriving DecidableEq, Repr

/-- The classes of a sub-step and so the four dose buckets (R71). -/
inductive DoseClass where
  | other | door | defrost | unit
  deriving DecidableEq, Repr

/-- The four dose buckets (section 4.1). -/
structure Buckets where
  other : Nat
  door : Nat
  defrost : Nat
  unit : Nat
  deriving DecidableEq, Repr

/-- The exposure fields of a slot (section 4.1). `triggered` is a set of causes, coded as R202's mask. -/
structure Exposure where
  e : Option Int
  armed : Bool
  shocks : Nat
  buckets : Buckets
  peak : Option Int
  lost : Nat
  triggered : BitVec 5
  saturated : Bool
  lostSeen : Bool
  deriving DecidableEq, Repr

/-- One occupied slot of the consignment table (section 5.1). `claimed` is a set of causes, coded as R202's mask. -/
structure Consignment where
  id : BitVec 32
  state : ConsState
  comp : Fin 4
  stop : Nat
  carriedDose : Option Nat
  carriedShocks : Option Nat
  source : Option Nat
  loadEstimate : Option Int
  custodyStart : Option Nat
  custodyEnd : Option Nat
  startSequence : Option Nat
  loadMarkOutstanding : Bool
  doorSeconds : Nat
  doorBase : Option (BitVec 32)
  episodes : Nat
  claimed : BitVec 5
  claim : Option Nat
  outageSeen : Bool
  conflictSeen : Bool
  claimOverflow : Bool
  lastContextExpired : Bool
  receipt : Option Nat
  exposure : Exposure
  deriving DecidableEq, Repr

/-! ## Claims (file 06) -/

/-- Claim states (R202). -/
inductive ClaimState where
  | gathering | opened | presented | orphaned
  deriving DecidableEq, Repr

/-- The freeze snapshot of a claim (section 6.1). -/
structure Snapshot where
  buckets : Buckets
  shocks : Nat
  peak : Option Int
  e : Option Int
  deriving DecidableEq, Repr

/-- One claim (section 6.1). -/
structure Claim where
  number : Nat
  cons : Option (Fin 32 × BitVec 32)
  comp : Fin 4
  causes : BitVec 5
  state : ClaimState
  first : Nat
  last : Option Nat
  frontCut : Bool
  endCut : Bool
  opened : Nat
  snapshot : Option Snapshot
  receipt : Option Nat
  reason : Option Nat
  deriving DecidableEq, Repr

/-- A claim request of the exposure engine (R79). -/
structure ClaimRequest where
  slot : Fin 32
  id : BitVec 32
  cause : BitVec 5
  comp : Fin 4
  second : Nat
  deriving DecidableEq, Repr

/-- The claims unit's state; `pins` has bit i set while sector Hi is pinned (R114). -/
structure ClaimsUnit where
  table : Table (Option Claim) 16
  counter : Nat
  pins : BitVec 16
  requests : List ClaimRequest
  deriving DecidableEq, Repr

/-! ## Hand-over unit (file 07) -/

/-- The outcomes of DECIDE (section 7.2). -/
inductive Verdict where
  | accept | acceptWithClaim | refuse
  deriving DecidableEq, Repr

/-- A receipt as stored (section 7.4, R208). `flags` is R202's mask; `mark` is empty when no customer mark was given. -/
structure Receipt where
  number : Nat
  time : Nat
  wall : Option Int
  id : BitVec 32
  source : Option Nat
  stop : Nat
  comp : Fin 4
  verdict : Verdict
  reason : Nat
  flags : BitVec 16
  shocks : Nat
  episodes : Nat
  carriedDose : Nat
  buckets : Buckets
  doorSeconds : Nat
  peak : Option Int
  e : Option Int
  custodySeconds : Nat
  startSequence : Option Nat
  claim : Nat
  mark : List Byte
  previous : BitVec 32
  check : BitVec 32
  deriving DecidableEq, Repr

/-- The decision values of a DECIDING context (section 7.1), with the tag its answer carries. -/
structure Decision where
  receipt : Receipt
  secondAttempt : Bool
  tag : Byte
  deriving DecidableEq, Repr

/-- A context is WAITING with its expiry second, or DECIDING with its remaining seconds and decision values (R127).
`due` stands while recorder time has been advanced to the expiry second and the expiry is not yet taken (R130, log 7). -/
inductive ContextState where
  | waiting (expiry : Nat) (due : Bool)
  | deciding (remaining : Nat) (decision : Decision)
  deriving DecidableEq, Repr

/-- A hand-over context (section 7.1). -/
structure Context where
  slot : Fin 32
  begunBy : Port
  begin : Nat
  previous : ConsState
  outOfOrder : Bool
  state : ContextState
  deriving DecidableEq, Repr

/-- What a VOID slot reads as: all 0xFF, bytes that do not verify, or a whole record or receipt (R144, R147, R162). -/
inductive Remains (α : Type) where
  | erased
  | garbage
  | whole (a : α)
  deriving DecidableEq, Repr

/-- One receipt slot (section 7.5). A VOID slot keeps what it reads as. -/
inductive ReceiptSlot where
  | empty
  | receipt (r : Receipt)
  | void (left : Remains Receipt)
  deriving DecidableEq, Repr

/-- The hand-over unit's state (sections 7.1 and 7.5). `written` lists the places programmed, block and slot, each once, in the
order in which each was last programmed: the model's own field, by which START knows the later written of two slots (R144, log
27). -/
structure HandOver where
  contexts : List Context
  blocks : Table (Table ReceiptSlot 16) 4
  block : Fin 4
  slot : Fin 16
  newest : Nat
  chain : BitVec 32
  acked : Nat
  erasing : Option (Fin 4)
  secondErase : Bool
  retired : BitVec 4
  written : List (Fin 4 × Fin 16)
  deriving DecidableEq, Repr

/-! ## History store (file 08) and its records (section 11.2) -/

/-- The cause of a RESET mark (R206). -/
inductive ResetCause where
  | resetInput | restart
  deriving DecidableEq, Repr

/-- How a hand-over ended (R202). -/
inductive EndCause where
  | receipt | cancelled | expired | power
  deriving DecidableEq, Repr

/-- The cause of a UNIT mark (R206). -/
inductive UnitCause where
  | doorOverstay | unitFault
  deriving DecidableEq, Repr

/-- The marks, with the payloads of R206. -/
inductive Mark where
  | mode (old new : Mode) (cause : ModeCause)
  | time (old : Option Int) (new : Int)
  | powerLoss (second : Nat) (held : Mode)
  | powerReturn (outage : Nat)
  | reset (cause : ResetCause) (second : Nat) (held : Mode)
  | backupLost (time readable receipt counter rebuilt notRebuilt lowest : Nat)
  | cleared (sectors unsent : Nat)
  | load (slot : Fin 32) (comp : Fin 4) (id : BitVec 32) (stop start : Nat) (estimate : Option Int)
  | unload (slot : Fin 32) (comp : Fin 4) (id : BitVec 32) (custody door episodes own total : Nat)
  | move (slot : Fin 32) (new old : Fin 4) (id : BitVec 32) (door : Nat)
  | handoverBegin (slot : Fin 32) (id : BitVec 32) (stop : Nat) (port : Port) (previous : ConsState)
      (outOfOrder : Bool) (expiry : Nat)
  | handoverEnd (slot : Fin 32) (id : BitVec 32) (cause : EndCause) (receipt : Nat)
  | receipt (number : Nat) (id : BitVec 32) (verdict : Verdict) (reason claim : Nat) (check : BitVec 32)
  | claimOpen (number : Nat) (slot : Fin 32) (id : BitVec 32) (comp : Fin 4) (causes : BitVec 5) (first : Nat)
      (frontCut endCut : Bool) (reason : Option Nat)
  | claimCause (number : Nat) (cause : BitVec 5) (reason : Option Nat)
  | claimFrozen (number : Nat) (state : ClaimState) (last : Nat) (frontCut endCut : Bool) (receipt : Nat)
  | claimCut (number last : Nat)
  | claimClosed (number : Nat) (settled : Bool)
  | defrost (comp : Fin 4) (phase : DefrostPhase) (elapsed : Nat)
  | unit (comp : Fin 4) (cause : UnitCause) (state : Bool) (openStart : Nat)
  | setpoint (comp : Fin 4) (setpoint : Option Int) (conflict : Bool)
  | probe (probe : Fin 8) (old new : ProbeStatus)
  | refcheck (codeA codeB : BitVec 16) (pass : Bool) (consecutive : Nat) (converterFault : Bool)
  | stall (usable pinned : Nat)
  deriving DecidableEq, Repr

/-- A SAMPLE (R153, R205). -/
structure Sample where
  comp : Fin 4
  a : Option Int
  clamped : Bool
  suspect : Bool
  held : Bool
  parked : Bool
  degraded : Bool
  highest : Option Int
  estimate : Option Int
  limit : Option Int
  setpoint : Option Int
  doorSeconds : Nat
  door : DoorPhase
  defrost : DefrostPhase
  excursion : Excursion
  unitFault : Bool
  lost : Bool
  probes : Table ProbeStatus 8
  custody : Nat
  equivalents : Nat
  excursionEquivalents : Nat
  deriving DecidableEq, Repr

/-- The body of a history record (R203). -/
inductive Body where
  | sample (s : Sample)
  | mark (m : Mark)
  | gap (samples marks : Nat)
  deriving DecidableEq, Repr

/-- A record created and not yet written: no sequence number yet (R147). -/
structure Queued where
  time : Nat
  body : Body
  deriving DecidableEq, Repr

/-- A record written (R203). -/
structure Record where
  sequence : Nat
  time : Nat
  body : Body
  deriving DecidableEq, Repr

/-- A history slot that is no longer blank. A VOID slot keeps what it reads as (R147, R162). -/
inductive Slot where
  | record (r : Record)
  | void (left : Remains Record)
  deriving DecidableEq, Repr

/-- Sector states (R146). -/
inductive SectorState where
  | ready | writing | full | erasing | retired
  deriving DecidableEq, Repr

/-- One history sector. `slots` lists the slots already programmed, from slot 0; those after it are blank. `touched`
tells that an erase was begun on it and not completed, so that its contents are unknown (the model's own field). -/
structure Sector where
  state : SectorState
  slots : List Slot
  voids : Nat
  touched : Bool
  deriving DecidableEq, Repr

/-- The program in flight in the history bank: a GAP with the counts it carries, the head of the queue, or a SAMPLE that was
the head and that a mark has displaced from the queue since (R147, R155, R156, log 22). -/
inductive Program where
  | gap (time samples marks : Nat)
  | head (q : Queued)
  | displaced (q : Queued)
  deriving DecidableEq, Repr

/-- The interval state of one compartment (R152). -/
structure Interval where
  base : BitVec 32
  highest : Option Int
  equivalents : Nat
  excursionEquivalents : Nat
  deriving DecidableEq, Repr

/-- The history store's state (file 08, opening table). `stretches` lists the runs of slots that the writer has filled one after
another, each by its sector and first slot, in the order in which they were begun: the model's own field, by which START knows
the later written of two slots (R162, log 27). -/
structure History where
  sectors : Table Sector 16
  current : Option (Fin 16)
  next : Option (Fin 16)
  eraseQueue : List (Fin 16)
  secondErase : Bool
  newest : Nat
  acked : Nat
  lostUnsent : Nat
  queue : List Queued
  queuedSamples : Nat
  queuedMarks : Nat
  droppedSamples : Nat
  droppedMarks : Nat
  stalled : Bool
  degraded : Bool
  uploadWanted : Bool
  intervalCount : Nat
  intervals : Table (Option Interval) 4
  program : Option Program
  gapDue : Bool
  stretches : List (Fin 16 × Nat)
  deriving DecidableEq, Repr

/-- A READ_HISTORY whose answer is held (R157). -/
structure HeldRead where
  port : Port
  tag : Byte
  fromSequence : Nat
  count : Nat
  deriving DecidableEq, Repr

/-! ## Settings bank (R139, R182, R185) -/

/-- The three values of the counter block (R185). -/
structure CounterBlock where
  counter : Nat
  sectors : BitVec 16
  blocks : BitVec 4
  deriving DecidableEq, Repr

/-- A copy area whose check verifies: its generation and its contents (R182, R185). -/
structure Image (α : Type) where
  generation : Nat
  contents : α
  deriving DecidableEq, Repr

/-- Two copy areas; an area that does not verify is `none`. -/
structure CopyPair (α : Type) where
  a : Option (Image α)
  b : Option (Image α)
  deriving DecidableEq, Repr

/-- The operations that share the settings bank (R139). -/
inductive BankOp where
  | receiptWrite
  | blockErase (block : Fin 4)
  | counterRewrite
  | commit
  deriving DecidableEq, Repr

/-- The settings bank: its copy areas, the operations requested, and the one in flight (R139). `rewrite` holds the
values a counter block rewrite in flight writes, and whether it is made a second time (R185). -/
structure SettingsBank where
  settings : CopyPair Settings
  counters : CopyPair CounterBlock
  queue : List BankOp
  busy : Option BankOp
  rewrite : CounterBlock
  secondRewrite : Bool
  deriving DecidableEq, Repr

/-- A commit in flight: the settings it writes and the tag of its answer, or none once RESTART has discarded it (R183). -/
structure Commit where
  contents : Settings
  tag : Option Byte
  deriving DecidableEq, Repr

/-! ## Mode and time controller (file 09) -/

/-- Start causes (R166). -/
inductive StartCause where
  | power | reset | backupLost
  deriving DecidableEq, Repr

/-- What START after backup loss hands the BACKUP_LOST mark (R169, R124). -/
structure LossReport where
  readable : Nat
  rebuilt : Nat
  notRebuilt : Nat
  lowest : Nat
  deriving DecidableEq, Repr

/-- The controller's state (file 09, opening table), with the supply and reset pins, the backup domain's own state
(R168) and the progress of START (R166). -/
structure Control where
  mode : Mode
  heldMode : Mode
  parkFlag : Bool
  serviceRound : Bool
  quiet : Nat
  warmUpEnd : Option Nat
  wakingCheck : Bool
  time : Nat
  wallOffset : Option Int
  lossSecond : Option Nat
  startCause : StartCause
  working : Settings
  commit : Option Commit
  mainPower : Bool
  resetInput : Bool
  domainValid : Bool
  supplyFell : Bool
  startRan : Bool
  startSecond : Nat
  lossReport : Option LossReport
  deriving DecidableEq, Repr

/-! ## Port unit (file 10) -/

/-- Framer states (R186). -/
inductive FramerState where
  | rest | receiving | discarding
  deriving DecidableEq, Repr

/-- A framer: its state, the expected body length, and the characters received after the start character. The
received count is their number (R186). -/
structure Framer where
  state : FramerState
  expected : Nat
  chars : List Byte
  deriving DecidableEq, Repr

/-- The three long commands (R189). -/
inductive LongCommand where
  | decide | commitSetup | readHistory
  deriving DecidableEq, Repr

/-- The command in flight on a port, with its tag (R188, R189). -/
structure InFlight where
  command : LongCommand
  tag : Byte
  deriving DecidableEq, Repr

/-- A response: the status, the tag of the frame it answers, and its data bytes (R188, R201). -/
structure Response where
  status : Status
  tag : Byte
  data : List Byte
  deriving DecidableEq, Repr

/-- One port's state (file 10, opening table). `received` holds frames whose check verified and that are not yet taken
(log 7); `sent` holds the characters of the last response whose sending finished (the model's own field). -/
structure PortUnit where
  framer : Framer
  received : List (List Byte)
  inFlight : Option InFlight
  responses : List Response
  timeouts : Nat
  breaks : Nat
  strays : Nat
  errors : Nat
  pending : BitVec 12
  enable : BitVec 12
  attention : Bool
  sent : List (Bool × Byte)
  deriving DecidableEq, Repr

end Sys2Proof.Machine
end

