-- ==== Sys2Proof/Machine/Defaults.lean ====
section
/-! DEFINITION. The default settings (R21, R40, R44, R160, R161, R190) and the default enable sets (R198). -/

namespace Sys2Proof.Machine

/-- The default line table (R21). -/
def defaultLines : Table LineEntry 8 :=
  Table.ofIdx fun l =>
    if l.val ≤ 1 then { kind := .door, activeHigh := true, debounce := 5, comp := some 0 }
    else if l.val = 7 then { kind := .park, activeHigh := true, debounce := 20, comp := none }
    else { kind := .unused, activeHigh := true, debounce := 5, comp := none }

/-- The default compartment configuration (R40). -/
def defaultComps : Table CompConfig 4 :=
  Table.ofIdx fun c =>
    if c.val = 0 then { inUse := true, zone := some 0, primary := some 0, secondary := some 1 }
    else { inUse := false, zone := none, primary := none, secondary := none }

/-- Z0 hard frozen (R44). -/
def zoneHardFrozen : Zone where
  nominal := -1500
  doorAllowance := 500
  doorOpenLimit := 180
  recovery := 12
  defrostAllowance := -500
  defrostMax := 270
  hysteresis := 200
  alarmDelay := 3
  k := 26
  theta := -1800
  soften := -1200
  weight := 24
  shockHysteresis := 300
  shockLimit := 2
  hardLimit := -1000
  doseLimit := 36000

/-- Z1 deep-frozen store (R44). -/
def zoneDeepFrozen : Zone where
  nominal := -2000
  doorAllowance := 500
  doorOpenLimit := 180
  recovery := 12
  defrostAllowance := -500
  defrostMax := 270
  hysteresis := 200
  alarmDelay := 3
  k := 20
  theta := -2200
  soften := -1500
  weight := 24
  shockHysteresis := 300
  shockLimit := 2
  hardLimit := -1200
  doseLimit := 24000

/-- Z2 chilled mix (R44). -/
def zoneChilled : Zone where
  nominal := 500
  doorAllowance := 1200
  doorOpenLimit := 180
  recovery := 12
  defrostAllowance := 900
  defrostMax := 270
  hysteresis := 200
  alarmDelay := 3
  k := 60
  theta := 400
  soften := 700
  weight := 16
  shockHysteresis := 300
  shockLimit := 2
  hardLimit := 800
  doseLimit := 60000

/-- The default zone profiles; Z3 is identical to Z0 (R44). -/
def defaultZones : Table Zone 4 :=
  Table.ofIdx fun z =>
    if z.val = 1 then zoneDeepFrozen else if z.val = 2 then zoneChilled else zoneHardFrozen

/-- The default H-port grants (R190). -/
def defaultGrants : Grants :=
  { readings := true, handoverBegin := true, receiptRead := true, historyRead := false }

/-- The default settings with the trims given: FACTORY_CLEAR keeps the trims (R20, R184). -/
def defaultsWith (trims : Table Trim 8) : Settings where
  lines := defaultLines
  trims := trims
  comps := defaultComps
  zones := defaultZones
  interval := 6
  upper := 4096
  lower := 1024
  grants := defaultGrants

/-- The default settings with every trim 0: the committed copy when no image verifies (R182). -/
def defaultSettings : Settings := defaultsWith (Table.const 8 { offset := 0, gain := 0 })

/-- The default enable sets (R198): T-port all twelve; F-port ALARM, SENSOR, UNIT, MODE; H-port HANDOVER, RECEIPT,
ALARM. Bit n is the kind of priority n + 1 (R202). -/
def defaultEnables : PerPort (BitVec 12) :=
  { t := 0b111111111111#12, f := 0b010010010100#12, h := 0b000001100100#12 }

/-- The largest recorder time, and the largest 32-bit number (R179). -/
def maxTime : Nat := 4294967295

end Sys2Proof.Machine
end

