-- ==== Sys2Proof/Machine/State.lean ====
section
/-! DEFINITION. The state of the part, the reasons a step can stop, and the state after reset. -/

namespace Sys2Proof.Machine

/-- The whole part. The fields follow the blocks of 00_scope.md; `pending` is the queue of commands and events waiting to be
taken, first in, first out; `marks` the mark requests not yet taken by the history store (R154); `heldReads` the
READ_HISTORY commands whose answers are held (R157); `freeCount` counts the uses of free values (log 12). -/
structure State where
  pending : List Instr
  fe : FrontEnd
  pubs : Publications
  lines : LineUnit
  mon : Table Compartment 4
  cons : Table (Option Consignment) 32
  claims : ClaimsUnit
  hand : HandOver
  hist : History
  bank : SettingsBank
  ctl : Control
  ports : PerPort PortUnit
  marks : List Mark
  heldReads : List HeldRead
  freeCount : Nat
  deriving DecidableEq, Repr

/-- Why a step faults: the part has no fault, and no meaning raises one. -/
inductive Fault where
  deriving DecidableEq, Repr

/-- Why a step is refused. -/
inductive Refusal where
  /-- Raised by an arm of `exec` whose command has no meaning yet; safe, since nothing is claimed of it. No arm raises it. -/
  | notModelled (mnemonic : String)
  deriving DecidableEq, Repr

namespace State

/-- A probe as R18 leaves it: UNKNOWN when assigned, UNUSED otherwise, with nothing read. That the run count of a probe that
becomes UNUSED is 0, as R9 and R18 say of UNKNOWN alone, is log 56's. -/
def freshProbe (assigned : Bool) : Probe :=
  { status := if assigned then .unknown else .unused, run := 0, raw := none, reading := none, held := none }

/-- The front end before the first START: the values R18 and R19 give at backup loss. -/
def resetFrontEnd : FrontEnd where
  probes := Table.ofIdx fun p => freshProbe (p.val ≤ 1)
  nextStart := none
  checkDue := 0
  checkRequest := false
  ref := { codeA := 12800#16, codeB := 51200#16, pass := true, consecutive := 0, converterFault := false }
  round := none
  air := Table.const 4 { a := none, clamped := false, suspect := false, held := false, lost := false, contributors := [] }
  lastStart := none

/-- The line unit before the first START (R39; levels and debounced states: log 2). -/
def resetLines : LineUnit where
  line := Table.const 8 { high := false, active := false, candidate := none }
  counters := Table.const 4 0#32
  log := []
  nextEpisode := 1
  flags := { t := 0#8, f := 0#8, h := 0#8 }

/-- The monitor's state of a compartment at backup loss (R61, R62). -/
def resetCompartment : Compartment where
  door := .closed
  openStart := none
  recovery := none
  defrostReport := false
  defrost := .none
  elapsed := 0
  unitReport := false
  setpoint := none
  conflict := false
  excursion := .clear
  pending := 0
  estimate := none
  startDue := true
  overstayDue := false

/-- The claims unit of a part that has issued no claim (R106, R124). -/
def resetClaims : ClaimsUnit where
  table := Table.const 16 none
  counter := 0
  pins := 0#16
  requests := []

/-- The hand-over unit of a part that has issued no receipt (R138, R144, R145). -/
def resetHand : HandOver where
  contexts := []
  blocks := Table.const 4 (Table.const 16 .empty)
  block := 0
  slot := 0
  newest := 0
  chain := Config.serialNumber
  acked := 0
  erasing := none
  secondErase := false
  retired := 0#4
  written := []

/-- The history store of a delivered part: every sector erased (log 2; R162 at START). -/
def resetHistory : History where
  sectors := Table.const 16 { state := .ready, slots := [], voids := 0, touched := false }
  current := none
  next := none
  eraseQueue := []
  secondErase := false
  newest := 0
  acked := 0
  lostUnsent := 0
  queue := []
  queuedSamples := 0
  queuedMarks := 0
  droppedSamples := 0
  droppedMarks := 0
  stalled := false
  degraded := false
  uploadWanted := false
  intervalCount := 0
  intervals := Table.const 4 none
  program := none
  gapDue := false
  stretches := []

/-- The settings bank of a part that has never committed (R182, R185). -/
def resetBank : SettingsBank where
  settings := { a := none, b := none }
  counters := { a := none, b := none }
  queue := []
  busy := none
  rewrite := { counter := 0, sectors := 0#16, blocks := 0#4 }
  secondRewrite := false

/-- The controller before the first START: the backup domain has never been valid (R168), main power is not yet there
(log 1). -/
def resetControl : Control where
  mode := .start
  heldMode := .setup
  parkFlag := false
  serviceRound := false
  quiet := 0
  warmUpEnd := none
  wakingCheck := false
  time := 0
  wallOffset := none
  lossSecond := none
  startCause := .backupLost
  working := defaultSettings
  commit := none
  mainPower := false
  resetInput := false
  domainValid := false
  supplyFell := false
  startRan := false
  startSecond := 0
  lossReport := none

/-- A port at rest with the enable set given (R198). -/
def resetPort (enable : BitVec 12) : PortUnit where
  framer := { state := .rest, expected := 0, chars := [] }
  received := []
  inFlight := none
  responses := []
  timeouts := 0
  breaks := 0
  strays := 0
  errors := 0
  pending := 0#12
  enable := enable
  attention := false
  sent := []

/-- No publication waits at any block. -/
def noPublications : Publications :=
  { line := [], monitor := [], engine := [], claims := [], control := [], store := [] }

/-- The delivered part before its first power-on: START has not begun, and its first step will find the backup domain
lost (R166, R168, log 1). -/
def reset : State where
  pending := []
  fe := resetFrontEnd
  pubs := noPublications
  lines := resetLines
  mon := Table.const 4 resetCompartment
  cons := Table.const 32 none
  claims := resetClaims
  hand := resetHand
  hist := resetHistory
  bank := resetBank
  ctl := resetControl
  ports := defaultEnables.map resetPort
  marks := []
  heldReads := []
  freeCount := 0

end State

end Sys2Proof.Machine
end

