-- ==== Sys2Proof/Machine/Bytes.lean ====
section
/-! DEFINITION. Bytes: the codes of R202, the fields of R200 and R201, the two checks of R210, and the layouts of frames,
history records and receipts (file 11). -/

namespace Sys2Proof.Machine

/-! ## Codes (R202) -/

/-- The code of a status (R202). -/
def Status.code : Status → Nat
  | .ok => 0
  | .clamped => 1
  | .busy => 2
  | .denied => 3
  | .wrongMode => 4
  | .notFound => 5
  | .duplicate => 6
  | .full => 7
  | .badState => 8
  | .badArgument => 9
  | .expired => 10
  | .notReady => 11
  | .notUploaded => 12
  | .claimHeld => 13
  | .receiptsFull => 14
  | .storeFault => 15
  | .uncommitted => 16
  | .frameError => 17

/-- The code of a mode (R202). -/
def Mode.code : Mode → Nat
  | .start => 0
  | .setup => 1
  | .service => 2
  | .parked => 3
  | .waking => 4
  | .dormant => 5

/-- The code of a mode cause (R202). -/
def ModeCause.code : ModeCause → Nat
  | .start => 0
  | .enterService => 1
  | .leaveService => 2
  | .park => 3
  | .door => 4
  | .parkEnded => 5
  | .wake => 6
  | .load => 7
  | .quiet => 8
  | .wakingDone => 9

/-- The code of a probe status (R202). -/
def ProbeStatus.code : ProbeStatus → Nat
  | .unused => 0
  | .unknown => 1
  | .good => 2
  | .held => 3
  | .lost => 4
  | .recovering => 5

/-- The code of a door phase (R202). -/
def DoorPhase.code : DoorPhase → Nat
  | .closed => 0
  | .allow => 1
  | .overstay => 2
  | .recovery => 3

/-- The code of a defrost phase (R202). -/
def DefrostPhase.code : DefrostPhase → Nat
  | .none => 0
  | .allow => 1
  | .overrun => 2

/-- The code of an excursion state (R202). -/
def Excursion.code : Excursion → Nat
  | .clear => 0
  | .pending => 1
  | .active => 2

/-- The code of a port (R202). -/
def portCode : Port → Nat
  | .t => 0
  | .f => 1
  | .h => 2

/-- The code of a consignment state (R202). -/
def ConsState.code : ConsState → Nat
  | .listed => 0
  | .aboard => 1
  | .handingOver => 2
  | .delivered => 3
  | .returned => 4
  | .unloaded => 5

/-- The code of a claim state (R202). -/
def ClaimState.code : ClaimState → Nat
  | .gathering => 0
  | .opened => 1
  | .presented => 2
  | .orphaned => 3

/-- The code of a hand-over end cause (R202). -/
def EndCause.code : EndCause → Nat
  | .receipt => 0
  | .cancelled => 1
  | .expired => 2
  | .power => 3

/-- The code of an outcome (R202). -/
def Verdict.code : Verdict → Nat
  | .accept => 1
  | .acceptWithClaim => 2
  | .refuse => 3

/-- The code of a line kind, in the order of section 2.1 (R201). -/
def LineKind.code : LineKind → Nat
  | .door => 0
  | .defrost => 1
  | .unitFault => 2
  | .park => 3
  | .unused => 4

/-- The bit of an event kind in a mask: bit 0 is BACKUP_LOST, bit 11 TIME (R202). -/
def EventKind.bit : EventKind → Nat
  | .backupLost => 0
  | .store => 1
  | .alarm => 2
  | .claim => 3
  | .sensor => 4
  | .handover => 5
  | .receipt => 6
  | .unit => 7
  | .door => 8
  | .upload => 9
  | .mode => 10
  | .time => 11

/-! ## Fields (R200, R201) -/

/-- A one-byte field. -/
def u8 (n : Nat) : List Byte := [BitVec.ofNat 8 n]

/-- A two-byte field, most significant byte first. -/
def u16 (n : Nat) : List Byte := u8 (n / 256) ++ u8 n

/-- A four-byte field, most significant byte first. -/
def u32 (n : Nat) : List Byte := u16 (n / 65536) ++ u16 n

/-- A flag, yes or no. -/
def flag (b : Bool) : List Byte := u8 (if b then 1 else 0)

/-- A signed two-byte field: a temperature, an offset or a gain. -/
def i16 (t : Int) : List Byte := u16 (BitVec.ofInt 16 t).toNat

/-- A signed four-byte field. -/
def i32 (t : Int) : List Byte := u32 (BitVec.ofInt 32 t).toNat

/-- A temperature that may be absent: 0x8000 stands for its absence (R200). -/
def temp (t : Option Int) : List Byte := (t.map i16).getD (u16 0x8000)

/-- A 32-bit identity or check. -/
def word32 (w : BitVec 32) : List Byte := u32 w.toNat

/-- A number whose absence is 0: a sequence, receipt or claim number (R200). -/
def optNumber (n : Option Nat) : List Byte := u32 (n.getD 0)

/-- A field that may be absent and has no absent value: a presence byte, then the field, 0 when absent (R201). -/
def present {α : Type} (x : Option α) (width : Nat) (enc : α → List Byte) : List Byte :=
  match x with
  | some a => u8 1 ++ enc a
  | none => u8 0 ++ List.replicate width 0#8

/-- A list: its count, then its members (R201). -/
def members {α : Type} (xs : List α) (enc : α → List Byte) : List Byte :=
  u8 xs.length ++ xs.flatMap enc

/-- The unsigned number that bytes spell, most significant first (R200). -/
def unsignedOf (bs : List Byte) : Nat := bs.foldl (fun acc b => acc * 256 + b.toNat) 0

/-! ## The two checks (R210) -/

/-- One bit step of the CRC-16: polynomial 0x1021, most significant bit first. -/
def crc16Bit (r : BitVec 16) : BitVec 16 :=
  if r.getLsbD 15 then (r <<< 1) ^^^ 0x1021#16 else r <<< 1

/-- The CRC-16 register after one byte. -/
def crc16Byte (r : BitVec 16) (b : Byte) : BitVec 16 :=
  Nat.iterate crc16Bit 8 (r ^^^ (b.setWidth 16 <<< 8))

/-- The CRC-16 of R210: register 0xFFFF, neither reflected nor inverted. -/
def crc16 (bs : List Byte) : BitVec 16 := bs.foldl crc16Byte 0xFFFF#16

/-- One bit step of the CRC-32, on the bit-reversed register: the reversed polynomial of 0x04C11DB7 is 0xEDB88320. -/
def crc32Bit (r : BitVec 32) : BitVec 32 :=
  if r.getLsbD 0 then (r >>> 1) ^^^ 0xEDB88320#32 else r >>> 1

/-- The CRC-32 register, bit-reversed, after one byte, least significant bit first. -/
def crc32Byte (r : BitVec 32) (b : Byte) : BitVec 32 :=
  Nat.iterate crc32Bit 8 (r ^^^ b.setWidth 32)

/-- The CRC-32 of R210: each byte enters least significant bit first and the final register is bit-reversed and
inverted. Keeping the register bit-reversed throughout leaves only the inversion for the end. -/
def crc32 (bs : List Byte) : BitVec 32 := ~~~ (bs.foldl crc32Byte 0xFFFFFFFF#32)

/-! ## Frames (R200) -/

/-- A response's body: the status, the tag, the data (R200). -/
def Response.body (r : Response) : List Byte := u8 r.status.code ++ [r.tag] ++ r.data

/-- The characters of a frame with the body given: the start character with its ninth bit set, the body, the CRC-16 over
the length and the body (R186, R200). -/
def frameOf (body : List Byte) : List (Bool × Byte) :=
  let n := BitVec.ofNat 8 body.length
  (true, n) :: (body ++ u16 (crc16 (n :: body)).toNat).map (fun b => (false, b))

/-! ## History records (R203 to R207) -/

/-- The slot-compartment byte of R202. -/
def slotComp (slot : Fin 32) (comp : Fin 4) : List Byte := u8 (slot.val + 32 * comp.val)

/-- The claim window flags (R202). -/
def windowFlags (frontCut endCut : Bool) : List Byte :=
  u8 ((if frontCut then 1 else 0) + (if endCut then 2 else 0))

/-- A set of claim causes (R202). -/
def causes (c : BitVec 5) : List Byte := u8 c.toNat

/-- The kind code of a mark (R206). -/
def Mark.code : Mark → Nat
  | .mode .. => 1
  | .time .. => 2
  | .powerLoss .. => 3
  | .powerReturn .. => 4
  | .reset .. => 5
  | .backupLost .. => 6
  | .cleared .. => 7
  | .load .. => 8
  | .unload .. => 9
  | .move .. => 10
  | .handoverBegin .. => 11
  | .handoverEnd .. => 12
  | .receipt .. => 13
  | .claimOpen .. => 14
  | .claimCause .. => 15
  | .claimFrozen .. => 16
  | .claimCut .. => 17
  | .claimClosed .. => 18
  | .defrost .. => 19
  | .unit .. => 20
  | .setpoint .. => 21
  | .probe .. => 22
  | .refcheck .. => 23
  | .stall .. => 24

/-- The payload of a mark, without its filling zeros (R206). A count of claims not rebuilt past 255, for which R206 has one
byte, is sent modulo 256 (log 68). -/
def Mark.payload : Mark → List Byte
  | .mode old new cause => u8 old.code ++ u8 new.code ++ u8 cause.code
  | .time old new => i32 (old.getD 0) ++ i32 new ++ flag old.isNone
  | .powerLoss second held => u32 second ++ u8 held.code
  | .powerReturn outage => u32 outage
  | .reset cause second held => u8 (match cause with | .resetInput => 1 | .restart => 2) ++ u32 second ++ u8 held.code
  | .backupLost now readable newest counter rebuilt notRebuilt lowest =>
      u32 now ++ u16 readable ++ u32 newest ++ u32 counter ++ u8 rebuilt ++ u8 notRebuilt ++ u32 lowest
  | .cleared sectors unsent => u8 sectors ++ u32 unsent
  | .load slot comp id stop start estimate => slotComp slot comp ++ word32 id ++ u8 stop ++ u32 start ++ temp estimate
  | .unload slot comp id custody door episodes own total =>
      slotComp slot comp ++ word32 id ++ u32 custody ++ u16 (min door 65535) ++ u8 episodes ++ u32 own ++ u32 total
  | .move slot new old id door => slotComp slot new ++ u8 old.val ++ word32 id ++ u32 door
  | .handoverBegin slot id stop port previous outOfOrder expiry =>
      u8 slot.val ++ word32 id ++ u8 stop ++ u8 (portCode port) ++ u8 previous.code ++ flag outOfOrder ++ u32 expiry
  | .handoverEnd slot id cause n => u8 slot.val ++ word32 id ++ u8 cause.code ++ u32 n
  | .receipt n id verdict reason claim check =>
      u32 n ++ word32 id ++ u8 verdict.code ++ u8 reason ++ u32 claim ++ word32 check
  | .claimOpen n slot id comp cs first frontCut endCut reason =>
      u32 n ++ u8 slot.val ++ word32 id ++ u8 comp.val ++ causes cs ++ u32 first ++ windowFlags frontCut endCut ++
        u8 (reason.getD 0)
  | .claimCause n cause reason => u32 n ++ causes cause ++ u8 (reason.getD 0)
  | .claimFrozen n state last frontCut endCut issued =>
      u32 n ++ u8 state.code ++ u32 last ++ windowFlags frontCut endCut ++ u32 issued
  | .claimCut n last => u32 n ++ u32 last
  | .claimClosed n settled => u32 n ++ u8 (if settled then 1 else 2)
  | .defrost comp phase elapsed => u8 comp.val ++ u8 phase.code ++ u16 elapsed
  | .unit comp cause state openStart =>
      u8 comp.val ++ u8 (match cause with | .doorOverstay => 1 | .unitFault => 2) ++ flag state ++ u32 openStart
  | .setpoint comp sp conflict => u8 comp.val ++ temp sp ++ flag conflict
  | .probe p old new => u8 p.val ++ u8 old.code ++ u8 new.code
  | .refcheck a b pass consecutive fault =>
      u16 a.toNat ++ u16 b.toNat ++ u8 (if pass then 0 else 1) ++ u8 consecutive ++ flag fault
  | .stall usable pinned => u8 usable ++ u8 pinned

/-- A number from flags, bit 0 first. -/
def bitsOf (fs : List Bool) : Nat := fs.foldr (fun b acc => (if b then 1 else 0) + 2 * acc) 0

/-- The 24-bit field of the eight probe statuses, P0 in bits 0 to 2 (R205). -/
def statusField (ps : Table ProbeStatus 8) : Nat := ps.toList.foldr (fun p acc => p.code + 8 * acc) 0

/-- The payload of a SAMPLE (R205). -/
def Sample.payload (s : Sample) : List Byte :=
  temp s.a ++ u8 (bitsOf [s.clamped, s.suspect, s.held, s.parked, s.degraded]) ++ temp s.highest ++ temp s.estimate ++
  temp s.limit ++ temp s.setpoint ++ u16 (min s.doorSeconds 65535) ++
  u8 (s.door.code + 4 * s.defrost.code + 16 * s.excursion.code + 64 * (if s.unitFault then 1 else 0) +
      128 * (if s.lost then 1 else 0)) ++
  (u8 (statusField s.probes / 65536) ++ u16 (statusField s.probes)) ++
  u8 s.custody ++ u8 s.equivalents ++ u8 s.excursionEquivalents

/-- Bytes 8 and 9 of a record: the record kind, then the compartment or the mark kind code (R203). -/
def Body.kind : Body → List Byte
  | .sample s => u8 1 ++ u8 s.comp.val
  | .mark m => u8 2 ++ u8 m.code
  | .gap _ _ => u8 3 ++ u8 0

/-- The payload of a record, without its filling zeros (R205 to R207). -/
def Body.payload : Body → List Byte
  | .sample s => s.payload
  | .mark m => m.payload
  | .gap samples marks => u16 samples ++ u16 marks

/-- Bytes with zeros after them up to the length given: the part fills every byte it does not use with 0 (R200). -/
def padTo (n : Nat) (bs : List Byte) : List Byte := bs ++ List.replicate (n - bs.length) 0#8

/-- Bytes 0 to 29 of a record (R203). -/
def Record.head (r : Record) : List Byte :=
  u32 r.sequence ++ u32 r.time ++ r.body.kind ++ padTo 20 r.body.payload

/-- The 32 stored bytes of a record, with its check (R203, R204). -/
def Record.bytes (r : Record) : List Byte := r.head ++ u16 (crc16 r.head).toNat

/-! ## Receipts (R208, R209) -/

/-- Bytes 0 to 85 of a receipt (R208). -/
def Receipt.head (r : Receipt) : List Byte :=
  [u32 r.number, u32 r.time, i32 (r.wall.getD 0), word32 r.id, u32 (r.source.getD 0), u8 r.stop, u8 r.comp.val,
    u8 r.verdict.code, u8 r.reason, u16 r.flags.toNat, u8 r.shocks, u8 r.episodes, u32 r.carriedDose,
    u32 r.buckets.other, u32 r.buckets.door, u32 r.buckets.defrost, u32 r.buckets.unit, u16 (min r.doorSeconds 65535),
    temp r.peak, temp r.e, u32 r.custodySeconds, optNumber r.startSequence, u32 r.claim, padTo 16 r.mark,
    word32 r.previous].flatten

/-- The check a receipt must carry: the CRC-32 of bytes 0 to 85 (R138, R209). -/
def Receipt.rightCheck (r : Receipt) : BitVec 32 := crc32 r.head

/-- The 90 stored bytes of a receipt (R208). -/
def Receipt.bytes (r : Receipt) : List Byte := r.head ++ word32 r.check

end Sys2Proof.Machine
end

