-- ==== Sys2Proof/Machine/Flags.lean ====
section
/-! DEFINITION. Event kinds and attention (section 10.4), claim causes, and counts that hold at their maximum. -/

namespace Sys2Proof.Machine

/-- The mask with the bit of one event kind (R202). -/
def EventKind.mask (k : EventKind) : BitVec 12 := 1#12 <<< k.bit

/-- All twelve kinds, in priority order (section 10.4). -/
def EventKind.all : List EventKind :=
  [.backupLost, .store, .alarm, .claim, .sensor, .handover, .receipt, .unit, .door, .upload, .mode, .time]

/-- Whether a set of kinds holds a kind. -/
def hasKind (set : BitVec 12) (k : EventKind) : Bool := set.getLsbD k.bit

/-- The attention output follows the two sets: asserted exactly while some kind is both pending and enabled (R195). -/
def PortUnit.sync (u : PortUnit) : PortUnit := { u with attention := u.pending &&& u.enable != 0#12 }

/-- The port with a kind added to its pending set (R192, R195). -/
def PortUnit.setPending (k : EventKind) (u : PortUnit) : PortUnit :=
  PortUnit.sync { u with pending := u.pending ||| k.mask }

/-- A block raises an event of a kind other than DOOR: the kind becomes pending on all three ports (R192). -/
def State.raise (s : State) (k : EventKind) : State := { s with ports := s.ports.map (PortUnit.setPending k) }

/-- The event raised when a condition holds. -/
def State.raiseIf (s : State) (b : Bool) (k : EventKind) : State := if b then s.raise k else s

/-- The top reason: the highest-priority kind in a set (R196). -/
def topReason (set : BitVec 12) : Option EventKind := EventKind.all.find? (hasKind set)

/-- A line's door-change flag set on every port, and DOOR pending on each port that has DOOR enabled (R34). -/
def State.setDoorFlag (s : State) (l : Fin 8) : State :=
  { s with
    lines := { s.lines with flags := s.lines.flags.map (fun f => f ||| (1#8 <<< l.val)) }
    ports := s.ports.map (fun u => if hasKind u.enable .door then u.setPending .door else u) }

/-- A link count grown by one, holding at 65,535 (R186, R187). -/
def bump (n : Nat) : Nat := min (n + 1) 65535

/-! ## Claim causes (R202) -/

/-- The mask of DOSE. -/
def causeDose : BitVec 5 := 0b00001#5
/-- The mask of HARD. -/
def causeHard : BitVec 5 := 0b00010#5
/-- The mask of SHOCK. -/
def causeShock : BitVec 5 := 0b00100#5
/-- The mask of SENSOR. -/
def causeSensor : BitVec 5 := 0b01000#5
/-- The mask of CUSTOMER. -/
def causeCustomer : BitVec 5 := 0b10000#5

/-- The members of `a` that are not in `b`. -/
def without {n : Nat} (a b : BitVec n) : BitVec n := a &&& ~~~ b

/-- The indices of the members of a set, ascending. -/
def membersOf {n : Nat} (set : BitVec n) : List (Fin n) := (List.finRange n).filter (fun i => set.getLsbD i.val)

/-- The number of members of a set. -/
def setSize {n : Nat} (set : BitVec n) : Nat := (membersOf set).length

/-- The set with one member. -/
def single {n : Nat} (i : Fin n) : BitVec n := 1#n <<< i.val

/-- The set of the members listed. -/
def setOf {n : Nat} (is : List (Fin n)) : BitVec n := is.foldl (fun acc i => acc ||| single i) 0#n

end Sys2Proof.Machine
end

