-- ==== Sys2Proof/Machine/Operands.lean ====
section
/-! DEFINITION. The forms of arguments: clamps, index fields, optional fields, and the parsing of a frame's body into a
command (R200, R201). -/

namespace Sys2Proof.Machine

/-! ## Clamps and index fields -/

/-- A value brought to the nearest end of its range (00_scope, "Clamp"). -/
def clampInt (lo hi v : Int) : Int := max lo (min hi v)

/-- A count brought to the nearest end of its range. -/
def clampNat (lo hi v : Nat) : Nat := max lo (min hi v)

/-- A temperature clamped to the recorder's range (R5, R53, R88). -/
def clampTemp (v : Int) : Int := clampInt (-5500) 8500 v

/-- The index a one-byte field names, when it lies below `n`. -/
def index (n : Nat) (b : Byte) : Option (Fin n) := if h : b.toNat < n then some ⟨b.toNat, h⟩ else none

/-- An optional index field: omitted, named, or outside its range (none). -/
def optIndex (n : Nat) : Option Byte → Option (Option (Fin n))
  | none => some none
  | some b => (index n b).map some

/-- A yes or no, 1 or 0 (R201). -/
def yesNo (b : Byte) : Option Bool := if b = 0#8 then some false else if b = 1#8 then some true else none

/-- A line kind, in the order of section 2.1 (R201). -/
def lineKind (b : Byte) : Option LineKind :=
  match b.toNat with
  | 0 => some .door
  | 1 => some .defrost
  | 2 => some .unitFault
  | 3 => some .park
  | 4 => some .unused
  | _ => none

/-- A level: high is 0, low is 1 (R201). The result tells whether the line is active high. -/
def level (b : Byte) : Option Bool := if b = 0#8 then some true else if b = 1#8 then some false else none

/-- An optional temperature: 0x8000 is taken as omitted (R200). -/
def optTemp : Option (BitVec 16) → Option Int
  | none => none
  | some w => if w = 0x8000#16 then none else some w.toInt

/-- The sixteen SET_ZONE fields in the order of R43's table (R201). -/
def zoneField (b : Byte) : Option ZoneField :=
  match b.toNat with
  | 0 => some .nominal
  | 1 => some .doorAllowance
  | 2 => some .doorOpenLimit
  | 3 => some .recovery
  | 4 => some .defrostAllowance
  | 5 => some .defrostMax
  | 6 => some .hysteresis
  | 7 => some .alarmDelay
  | 8 => some .k
  | 9 => some .theta
  | 10 => some .soften
  | 11 => some .weight
  | 12 => some .shockHysteresis
  | 13 => some .shockLimit
  | 14 => some .hardLimit
  | 15 => some .doseLimit
  | _ => none

/-- An outcome of DECIDE (R202). -/
def verdict (b : Byte) : Option Verdict :=
  match b.toNat with
  | 1 => some .accept
  | 2 => some .acceptWithClaim
  | 3 => some .refuse
  | _ => none

/-- Whether every presence bit set names one of the `n` optional arguments (R200, R201). -/
def presenceOk (n : Nat) (b : Byte) : Bool := b.toNat < 2 ^ n

/-! ## The body of a command frame -/

/-- The first byte of the arguments and the rest. -/
def take8 : List Byte → Option (Byte × List Byte)
  | b :: rest => some (b, rest)
  | _ => none

/-- A two-byte field and the rest. -/
def take16 : List Byte → Option (BitVec 16 × List Byte)
  | a :: b :: rest => some (BitVec.ofNat 16 (unsignedOf [a, b]), rest)
  | _ => none

/-- A four-byte field and the rest. -/
def take32 : List Byte → Option (BitVec 32 × List Byte)
  | a :: b :: c :: d :: rest => some (BitVec.ofNat 32 (unsignedOf [a, b, c, d]), rest)
  | _ => none

/-- The pairs of a SET_ZONE body (R201). -/
def takePairs : Nat → List Byte → Option (List (Byte × BitVec 32))
  | _, [] => some []
  | 0, _ => none
  | n + 1, bs => do
      let (f, bs) ← take8 bs
      let (v, bs) ← take32 bs
      let more ← takePairs n bs
      return (f, v) :: more

/-- The argument, when its presence bit is set. The bytes of an omitted one, which R201 has stand as 0, are not looked at
(log 28). -/
def given {α : Type} (mask : Byte) (bit : Nat) (a : α) : Option α := if mask.getLsbD bit then some a else none

/-- A command without arguments. -/
def noArgs (args : List Byte) (i : Instr) : Option Instr := if args = [] then some i else none

/-- A command whose one argument is four bytes. -/
def oneWord (args : List Byte) (f : BitVec 32 → Instr) : Option Instr := do
  let (w, []) ← take32 args | none
  return f w

/-- The command that a code and its argument bytes spell, or none when the number or size of the bytes, or a value
without meaning in the form itself, does not fit (R188, R200, R201). Codes follow the command summary (R199). -/
def parseCommand (h : Header) (code : Nat) (args : List Byte) : Option Instr :=
  match code with
  | 1 => do
      let (p, a) ← take8 args
      let (o, a) ← take16 a
      let (g, []) ← take16 a | none
      return .setProbe h p o g
  | 2 => noArgs args (.readProbes h)
  | 3 => do
      let (l, a) ← take8 args
      let (k, a) ← take8 a
      let (v, a) ← take8 a
      let (d, a) ← take16 a
      let (m, a) ← take8 a
      let (c, []) ← take8 a | none
      if presenceOk 1 m then return .setLine h l k v d (given m 0 c) else none
  | 4 => noArgs args (.readDoors h)
  | 5 => do
      let (f, a) ← take32 args
      let (c, []) ← take8 a | none
      return .readDoorLog h f c
  | 6 => do
      let (c, a) ← take8 args
      let (u, a) ← take8 a
      let (m, a) ← take8 a
      let (z, a) ← take8 a
      let (p, a) ← take8 a
      let (q, []) ← take8 a | none
      if presenceOk 3 m then return .setCompartment h c u (given m 0 z) (given m 1 p) (given m 2 q) else none
  | 7 => do
      let (z, a) ← take8 args
      let fields ← takePairs a.length a
      return .setZone h z fields
  | 8 => do
      let (c, a) ← take8 args
      let (r, []) ← take8 a | none
      return .reportDefrost h c r
  | 9 => do
      let (c, a) ← take8 args
      let (r, []) ← take8 a | none
      return .reportUnit h c r
  | 10 => do
      let (c, a) ← take8 args
      let (v, []) ← take16 a | none
      return .reportSetpoint h c v
  | 11 => noArgs args (.readAir h)
  | 12 => do
      let (i, a) ← take32 args
      let (c, a) ← take8 a
      let (p, a) ← take8 a
      let (m, a) ← take8 a
      let (d, a) ← take32 a
      let (k, a) ← take8 a
      let (r, a) ← take32 a
      let (e, []) ← take16 a | none
      if presenceOk 4 m then return .list h i c p (given m 0 d) (given m 1 k) (given m 2 r) (given m 3 e) else none
  | 13 => do
      let (i, a) ← take32 args
      let (m, a) ← take8 a
      let (e, []) ← take16 a | none
      if presenceOk 1 m then return .load h i (given m 0 e) else none
  | 14 => do
      let (i, a) ← take32 args
      let (c, []) ← take8 a | none
      return .move h i c
  | 15 => oneWord args (.unload h)
  | 16 => oneWord args (.drop h)
  | 17 => do
      let (form, a) ← take8 args
      if form = 0#8 then oneWord a (fun w => .readConsignment h (.byId w))
      else if form = 1#8 then do
        let (n, []) ← take8 a | none
        return .readConsignment h (.bySlot n)
      else none
  | 18 => oneWord args (.settleClaim h)
  | 19 => oneWord args (.withdrawClaim h)
  | 20 => do
      let (form, a) ← take8 args
      if form = 0#8 then oneWord a (fun w => .readClaim h (.byNumber w))
      else if form = 1#8 then do
        let (n, []) ← take8 a | none
        return .readClaim h (.bySlot n)
      else none
  | 21 => oneWord args (.beginHandover h)
  | 22 => oneWord args (.cancelHandover h)
  | 23 => oneWord args (.getSummary h)
  | 24 => do
      let (i, a) ← take32 args
      let (o, a) ← take8 a
      let (r, a) ← take8 a
      let (m, a) ← take8 a
      if a.length = 16 ∧ presenceOk 1 m then return .decide h i o r (given m 0 a) else none
  | 25 => oneWord args (.readReceipt h)
  | 26 => oneWord args (.ackReceipt h)
  | 27 => do
      let (f, a) ← take32 args
      let (c, []) ← take8 a | none
      return .readHistory h f c
  | 28 => oneWord args (.ackHistory h)
  | 29 => do
      let (u, a) ← take32 args
      let (l, []) ← take32 a | none
      return .setMarks h u l
  | 30 => do
      let (n, []) ← take8 args | none
      return .setInterval h n
  | 31 => noArgs args (.enterService h)
  | 32 => noArgs args (.leaveService h)
  | 33 => noArgs args (.park h)
  | 34 => noArgs args (.wake h)
  | 35 => oneWord args (.setTime h)
  | 36 => noArgs args (.restart h)
  | 37 => noArgs args (.commitSetup h)
  | 38 => noArgs args (.factoryClear h)
  | 39 => do
      let (r, a) ← take8 args
      let (b, a) ← take8 a
      let (c, a) ← take8 a
      let (d, []) ← take8 a | none
      return .setRights h r b c d
  | 40 => do
      let (k, []) ← take16 args | none
      return .enableSet h k
  | 41 => do
      let (k, []) ← take16 args | none
      return .enableClear h k
  | 42 => do
      let (k, []) ← take16 args | none
      return .ackEvents h k
  | 43 => noArgs args (.readEvents h)
  | 44 => noArgs args (.readStatus h)
  | _ => none

/-! ## The frame of a command -/

/-- The presence byte of optional arguments: bit 0 for the first (R201). -/
def presenceByte (given : List Bool) : List Byte :=
  u8 (given.zipIdx.foldl (fun n x => if x.1 then n + 2 ^ x.2 else n) 0)

/-- A two-byte argument. -/
def word16 (w : BitVec 16) : List Byte := u16 w.toNat

/-- The code of a serial command, from the command summary (R199, R200); an event has none. -/
def commandCode : Instr → Option Nat
  | .setProbe .. => some 1
  | .readProbes .. => some 2
  | .setLine .. => some 3
  | .readDoors .. => some 4
  | .readDoorLog .. => some 5
  | .setCompartment .. => some 6
  | .setZone .. => some 7
  | .reportDefrost .. => some 8
  | .reportUnit .. => some 9
  | .reportSetpoint .. => some 10
  | .readAir .. => some 11
  | .list .. => some 12
  | .load .. => some 13
  | .move .. => some 14
  | .unload .. => some 15
  | .drop .. => some 16
  | .readConsignment .. => some 17
  | .settleClaim .. => some 18
  | .withdrawClaim .. => some 19
  | .readClaim .. => some 20
  | .beginHandover .. => some 21
  | .cancelHandover .. => some 22
  | .getSummary .. => some 23
  | .decide .. => some 24
  | .readReceipt .. => some 25
  | .ackReceipt .. => some 26
  | .readHistory .. => some 27
  | .ackHistory .. => some 28
  | .setMarks .. => some 29
  | .setInterval .. => some 30
  | .enterService .. => some 31
  | .leaveService .. => some 32
  | .park .. => some 33
  | .wake .. => some 34
  | .setTime .. => some 35
  | .restart .. => some 36
  | .commitSetup .. => some 37
  | .factoryClear .. => some 38
  | .setRights .. => some 39
  | .enableSet .. => some 40
  | .enableClear .. => some 41
  | .ackEvents .. => some 42
  | .readEvents .. => some 43
  | .readStatus .. => some 44
  | _ => none

/-- The argument bytes of a serial command, in the order of its form line and with the widths of R201. -/
def commandBytes : Instr → List Byte
  | .setProbe _ p o g => [p] ++ word16 o ++ word16 g
  | .setLine _ l k v d c => [l, k, v] ++ word16 d ++ presenceByte [c.isSome] ++ [c.getD 0]
  | .readDoorLog _ f n => word32 f ++ [n]
  | .setCompartment _ c u z p q =>
      [c, u] ++ presenceByte [z.isSome, p.isSome, q.isSome] ++ [z.getD 0, p.getD 0, q.getD 0]
  | .setZone _ z fields => [z] ++ fields.flatMap fun x => [x.1] ++ word32 x.2
  | .reportDefrost _ c r => [c, r]
  | .reportUnit _ c r => [c, r]
  | .reportSetpoint _ c v => [c] ++ word16 v
  | .list _ i c p d k r e =>
      word32 i ++ [c, p] ++ presenceByte [d.isSome, k.isSome, r.isSome, e.isSome] ++ word32 (d.getD 0) ++ [k.getD 0] ++
        word32 (r.getD 0) ++ word16 (e.getD 0)
  | .load _ i e => word32 i ++ presenceByte [e.isSome] ++ word16 (e.getD 0)
  | .move _ i c => word32 i ++ [c]
  | .unload _ i => word32 i
  | .drop _ i => word32 i
  | .readConsignment _ (.byId i) => [0] ++ word32 i
  | .readConsignment _ (.bySlot n) => [1, n]
  | .settleClaim _ n => word32 n
  | .withdrawClaim _ n => word32 n
  | .readClaim _ (.byNumber n) => [0] ++ word32 n
  | .readClaim _ (.bySlot n) => [1, n]
  | .beginHandover _ i => word32 i
  | .cancelHandover _ i => word32 i
  | .getSummary _ i => word32 i
  | .decide _ i o r m => word32 i ++ [o, r] ++ presenceByte [m.isSome] ++ m.getD (List.replicate 16 0)
  | .readReceipt _ n => word32 n
  | .ackReceipt _ n => word32 n
  | .readHistory _ f n => word32 f ++ [n]
  | .ackHistory _ n => word32 n
  | .setMarks _ u l => word32 u ++ word32 l
  | .setInterval _ n => [n]
  | .setTime _ w => word32 w
  | .setRights _ a b c d => [a, b, c, d]
  | .enableSet _ k => word16 k
  | .enableClear _ k => word16 k
  | .ackEvents _ k => word16 k
  | _ => []

/-- The rights group of a command code, or none when the code names no command (R199, R200). -/
def commandGroup (code : Nat) : Option Group :=
  match code with
  | 1 | 3 | 6 | 7 | 29 | 30 | 37 | 38 | 39 => some .config
  | 2 | 4 | 5 | 11 | 17 => some .readings
  | 8 | 9 | 10 => some .unitReport
  | 12 | 13 | 14 | 15 | 16 => some .manifest
  | 18 | 19 | 20 => some .claims
  | 21 | 22 => some .handoverBegin
  | 23 => some .summary
  | 24 => some .handoverDecide
  | 25 => some .receiptRead
  | 26 => some .receiptAck
  | 27 => some .historyRead
  | 28 => some .historyAck
  | 31 | 32 | 33 | 34 | 35 | 36 => some .mode
  | 40 | 41 | 42 | 43 => some .events
  | 44 => some .readStatus
  | _ => none

end Sys2Proof.Machine
end

