-- ==== Sys2Proof/Machine/Ops.lean ====
section
/-! DEFINITION. The operations that several blocks share: responses and the checks of a received frame, mark requests,
views of lines and compartments, custody, free values, the mode change and the start of a round. -/

namespace Sys2Proof.Machine

namespace State

/-! ## Time, power and settings -/

/-- The present recorder second (R179). -/
def now (s : State) : Nat := s.ctl.time

/-- Whether the part is running: main power is there and the reset input is released (R170). While the input is held asserted
the part takes no character and answers nothing, also not BUSY (R165, log 67). -/
def powered (s : State) : Bool := s.ctl.mainPower && !s.ctl.resetInput

/-- Whether lines are watched: outside START, and from START's line sampling onward (R22, R38, log 19). -/
def linesWatched (s : State) : Bool := s.powered && (s.ctl.mode != .start || s.ctl.startRan)

/-- A compartment's working configuration entry (R40). -/
def config (s : State) (c : Fin 4) : CompConfig := s.ctl.working.comps.read c

/-- Whether a compartment is in use. -/
def inUse (s : State) (c : Fin 4) : Bool := (s.config c).inUse

/-- A compartment's working zone profile, when it names a zone. -/
def zoneOf (s : State) (c : Fin 4) : Option Zone := (s.config c).zone.map s.ctl.working.zones.read

/-- A line's working entry (R21). -/
def entry (s : State) (l : Fin 8) : LineEntry := s.ctl.working.lines.read l

/-! ## Updates of one entry -/

/-- The monitor's state of one compartment changed. -/
def modComp (s : State) (c : Fin 4) (f : Compartment → Compartment) : State := { s with mon := s.mon.modify c f }

/-- One consignment slot replaced. -/
def putCons (s : State) (j : Fin 32) (x : Option Consignment) : State := { s with cons := s.cons.write j x }

/-- The consignment of a slot changed, where the slot is occupied. -/
def modCons (s : State) (j : Fin 32) (f : Consignment → Consignment) : State :=
  { s with cons := s.cons.modify j (Option.map f) }

/-- One claims slot replaced. -/
def putClaim (s : State) (i : Fin 16) (x : Option Claim) : State :=
  { s with claims := { s.claims with table := s.claims.table.write i x } }

/-- One port's state changed. -/
def modPort (s : State) (p : Port) (f : PortUnit → PortUnit) : State :=
  { s with ports := s.ports.put p (f (s.ports.at p)) }

/-- An operation made for each compartment from C0 to C3. -/
def forComps (s : State) (f : Fin 4 → State → State) : State := f 3 (f 2 (f 1 (f 0 s)))

/-! ## Responses and the checks of a received frame -/

/-- A response formed on a port joins the port's response queue (R188). -/
def reply (s : State) (p : Port) (tag : Byte) (status : Status) (data : List Byte) : State :=
  s.modPort p fun u => { u with responses := u.responses ++ [{ status := status, tag := tag, data := data }] }

/-- The response to the command with header `h`. -/
def respond (s : State) (h : Header) (status : Status) (data : List Byte) : State := s.reply h.port h.tag status data

/-- A mark requested from the history store (R154). -/
def request (s : State) (m : Mark) : State := { s with marks := s.marks ++ [m] }

/-- The mark requested when a condition holds. -/
def requestIf (s : State) (b : Bool) (m : Mark) : State := if b then s.request m else s

end State

/-- Whether a port holds a rights group (R190). -/
def holdsGroup (grants : Grants) : Group → Port → Bool
  | .readStatus, _ => true
  | .events, _ => true
  | .unitReport, p => p != .h
  | .readings, p => p != .h || grants.readings
  | .handoverBegin, p => p == .t || (p == .h && grants.handoverBegin)
  | .receiptRead, p => p == .t || (p == .h && grants.receiptRead)
  | .historyRead, p => p == .t || (p == .h && grants.historyRead)
  | .handoverDecide, p => p == .h
  | .summary, p => p != .f
  | .config, p => p == .t
  | .mode, p => p == .t
  | .manifest, p => p == .t
  | .claims, p => p == .t
  | .historyAck, p => p == .t
  | .receiptAck, p => p == .t

/-- The checks the port unit makes before it takes a command: START, a command in flight, rights (R188). While the part
is not running nothing is received. `body` is what the command's own rule does. -/
def State.take (s : State) (g : Group) (h : Header) (body : State → State) : State :=
  if !s.powered then s
  else if s.ctl.mode = .start then s.respond h .busy []
  else if (s.ports.at h.port).inFlight.isSome then s.respond h .busy []
  else if !holdsGroup s.ctl.working.grants g h.port then s.respond h .denied []
  else body s

/-- A settings edit is taken in SETUP, and is answered BUSY while a commit is in flight (R182, R183). -/
def State.edit (s : State) (h : Header) (body : State → State) : State :=
  if s.ctl.mode ≠ .setup then s.respond h .wrongMode []
  else if s.ctl.commit.isSome then s.respond h .busy []
  else body s

/-- OK, or CLAMPED when a clamp changed a value (00_scope, "Status codes"). -/
def clampedIf (b : Bool) : Status := if b then .clamped else .ok

/-- The number one above `n` among 32-bit numbers. Past the maximum the spec states nothing: a free value (log 11). -/
def nextNumber (n : Nat) : Nat := if n < maxTime then n + 1 else (Config.numberPastMax n).toNat

namespace State

/-! ## Views of lines -/

/-- Whether a line is an active line of the kind given. -/
def lineActive (s : State) (k : LineKind) (l : Fin 8) : Bool := (s.entry l).kind == k && (s.lines.line.read l).active

/-- Whether a line is a door-active line of a compartment (R23). -/
def doorActive (s : State) (c : Fin 4) (l : Fin 8) : Bool := s.lineActive .door l && (s.entry l).comp == some c

/-- The count of a compartment's door-active lines (R24). -/
def doorCount (s : State) (c : Fin 4) : Nat := ((List.finRange 8).filter (s.doorActive c)).length

/-- A compartment's door-open indication (R24). -/
def doorOpen (s : State) (c : Fin 4) : Bool := s.doorCount c != 0

/-- A compartment's defrost-line-active indication (R25). -/
def defrostLine (s : State) (c : Fin 4) : Bool :=
  (List.finRange 8).any fun l => s.lineActive .defrost l && (s.entry l).comp == some c

/-- The unit-fault-line-active indication (R25). -/
def unitLine (s : State) : Bool := (List.finRange 8).any (s.lineActive .unitFault)

/-- The park-line-active indication (R25). -/
def parkLine (s : State) : Bool := (List.finRange 8).any (s.lineActive .park)

/-- A compartment's defrost indication: its line or its report (R49). -/
def defrostIndication (s : State) (c : Fin 4) : Bool := s.defrostLine c || (s.mon.read c).defrostReport

/-- A compartment's unit-fault indication: the line or its report (R50). -/
def unitFault (s : State) (c : Fin 4) : Bool := s.unitLine || (s.mon.read c).unitReport

/-- The park condition: the line or the PARK flag (R173). -/
def parkCondition (s : State) : Bool := s.parkLine || s.ctl.parkFlag

/-! ## Views of compartments -/

/-- The limit in effect (R55): the highest of the nominal limit, the door allowance while the door phase is ALLOW or
RECOVERY, and the defrost allowance while the defrost phase is ALLOW. A compartment not in use, without a zone or without a
primary probe has none (R40, R55). -/
def limit (s : State) (c : Fin 4) : Option Int :=
  if s.inUse c && (s.config c).primary.isSome then
    (s.zoneOf c).map fun z =>
      let m := s.mon.read c
      let door := if m.door = .allow ∨ m.door = .recovery then max z.nominal z.doorAllowance else z.nominal
      if m.defrost = .allow then max door z.defrostAllowance else door
  else none

end State

/-! ## Consignments -/

/-- Whether a consignment is in custody: ABOARD, HANDING_OVER or RETURNED (section 5.1). -/
def Consignment.inCustody (x : Consignment) : Bool :=
  x.state == .aboard || x.state == .handingOver || x.state == .returned

/-- The own dose: the sum of the four buckets (R73). -/
def Consignment.ownDose (x : Consignment) : Nat :=
  x.exposure.buckets.other + x.exposure.buckets.door + x.exposure.buckets.defrost + x.exposure.buckets.unit

/-- The total dose: the carried dose plus the own dose (R73). -/
def Consignment.totalDose (x : Consignment) : Nat := x.carriedDose.getD 0 + x.ownDose

/-- The total heat-shock count: carried plus own, holding at 255 (R76). -/
def Consignment.totalShocks (x : Consignment) : Nat := min (x.carriedShocks.getD 0 + x.exposure.shocks) 255

/-- The causes triggered and not claimed (R108). -/
def Consignment.unclaimed (x : Consignment) : BitVec 5 := without x.exposure.triggered x.claimed

namespace State

/-- The slot that holds a consignment id, when an occupied slot does (R85). -/
def slotOf (s : State) (id : BitVec 32) : Option (Fin 32) :=
  s.cons.findIdx? fun x => match x with | some y => y.id == id | none => false

/-- The consignment of an id with its slot. -/
def byId (s : State) (id : BitVec 32) : Option (Fin 32 × Consignment) := do
  let j ← s.slotOf id
  let x ← s.cons.read j
  return (j, x)

/-- The slots whose consignment is in custody, ascending. -/
def custodySlots (s : State) : List (Fin 32) :=
  s.cons.indices fun _ x => match x with | some y => y.inCustody | none => false

/-- The number of occupied slots (R85). -/
def occupied (s : State) : Nat := (s.cons.indices fun _ x => x.isSome).length

/-- The number of consignments in custody in a compartment (R153). -/
def custodyIn (s : State) (c : Fin 4) : Nat :=
  (s.cons.indices fun _ x => match x with | some y => y.inCustody && y.comp == c | none => false).length

/-- The number of claims in the claims table (R106). -/
def claimCount (s : State) : Nat := (s.claims.table.indices fun _ x => x.isSome).length

/-- The live door seconds of a consignment: the stored ones plus, in custody, the difference modulo 2^32 of its
compartment's counter and its door base (R92). -/
def liveDoor (s : State) (x : Consignment) : Nat :=
  match x.doorBase with
  | some b => if x.inCustody then min (x.doorSeconds + (s.lines.counters.read x.comp - b).toNat) maxTime else x.doorSeconds
  | none => x.doorSeconds

/-- A close-off: the live difference is added to the stored door seconds, holding at 4,294,967,295, and the base becomes
the reading just used (R93). -/
def closeOff (s : State) (x : Consignment) : Consignment :=
  { x with doorSeconds := s.liveDoor x, doorBase := some (s.lines.counters.read x.comp) }

/-- The custody seconds (R96): to the end second, or to the present second while in custody; absent before custody. -/
def custodySeconds (s : State) (x : Consignment) : Option Nat :=
  x.custodyStart.map fun b => (x.custodyEnd.getD s.now) - b

/-- SETPOINT_CONFLICT_SEEN set on a consignment when its compartment's SETPOINT_CONFLICT stands true (R54). -/
def seeConflict (s : State) (x : Consignment) : Consignment :=
  { x with conflictSeen := x.conflictSeen || (s.mon.read x.comp).conflict }

/-! ## Free values -/

/-- What the program at hand leaves, and the state with the free value used up (log 12). -/
def takeLeaves (s : State) : Leaves × State :=
  (Config.programLeaves s.freeCount, { s with freeCount := s.freeCount + 1 })

end State

/-- What a slot reads as, given what was being written into it. -/
def leavesOf {α : Type} (l : Leaves) (a : α) : Remains α :=
  match l with
  | .erased => .erased
  | .garbage => .garbage
  | .whole => .whole a

/-! ## Rounds -/

/-- The period of a round's kind (R1). -/
def period (parked : Bool) : Nat := if parked then 60 else 10

/-- The round-equivalents, and the sub-steps, of a round's kind (section 1.1). -/
def equivalents (parked : Bool) : Nat := if parked then 6 else 1

/-- The compartments a probe serves, with whether it is the primary: its assignment (R9). -/
def assignment (comps : Table CompConfig 4) (p : Fin 8) : List (Fin 4 × Bool) :=
  (List.finRange 4).filterMap fun c =>
    let g := comps.read c
    if !g.inUse then none
    else if g.primary = some p then some (c, true)
    else if g.secondary = some p then some (c, false)
    else none

/-- Whether a probe is assigned (R9). -/
def assigned (comps : Table CompConfig 4) (p : Fin 8) : Bool := !(assignment comps p).isEmpty

/-- Whether a mode is one in which rounds start (R1). -/
def Mode.hasRounds (m : Mode) : Bool := m == .setup || m == .service || m == .parked

namespace State

/-- Whether a round is due: recorder time has reached the next-start second in a mode with rounds and no round is in
flight (R1). -/
def roundDue (s : State) : Bool :=
  match s.fe.nextStart with
  | some n => n ≤ s.now && s.ctl.mode.hasRounds && s.fe.round.isNone && s.powered
  | none => false

/-- A due round starts: its kind is the mode's, the next-start second advances by its period, and its trims, its check
and the probes it converts are fixed (R1, R3, R7). -/
def beginRound (s : State) : State :=
  match s.fe.nextStart with
  | none => s
  | some n =>
    if !s.roundDue then s
    else
      let parked := s.ctl.mode == .parked
      { s with
        fe := { s.fe with
          nextStart := some (n + period parked)
          round := some
            { parked := parked
              startedIn := s.ctl.mode
              start := s.now
              trims := s.ctl.working.trims
              check := 60 ≤ s.fe.checkDue || !s.fe.ref.pass || s.fe.checkRequest
              converted := Table.ofIdx (assigned s.ctl.working.comps) } } }

/-! ## The mode change -/

/-- The effect of a mode transition on the next-start second (R2, R165). -/
def schedule (old new : Mode) (second : Nat) (present : Option Nat) : Option Nat :=
  match old, new with
  | _, .dormant => none
  | _, .waking => none
  | _, .start => none
  | .start, _ => some second
  | .waking, _ => some second
  | .parked, .service => some (min (present.getD (second + 10)) (second + 10))
  | .parked, .setup => some (min (present.getD (second + 10)) (second + 10))
  | _, _ => present

/-- A change into a mode other than START (R165): the new mode is held, a MODE mark is requested, a MODE event is raised.
The round schedule follows R2; entry to SERVICE clears the service-round flag and the quiet count (R175, R176), entry to
PARKED the quiet count (R175; that ENTER_SERVICE clears it too is log 62's), entry to WAKING sets the warm-up end (R178), and
SETUP clears every excursion (R57). -/
def enterMode (s : State) (new : Mode) (cause : ModeCause) : State :=
  let old := s.ctl.mode
  let s1 : State := { s with
    ctl := { s.ctl with
      mode := new
      heldMode := new
      serviceRound := if new = .service then false else s.ctl.serviceRound
      quiet := if new = .service ∨ new = .parked then 0 else s.ctl.quiet
      warmUpEnd := if new = .waking then some (s.now + 5) else none
      wakingCheck := false }
    fe := { s.fe with
      nextStart := schedule old new s.now s.fe.nextStart
      round := if new = .dormant ∨ new = .waking then none else s.fe.round }
    mon := if new = .setup then s.mon.mapIdx (fun _ m => { m with excursion := .clear, pending := 0 }) else s.mon }
  (s1.request (.mode old new cause)).raise .mode

/-- The estimate start of every compartment in use becomes due (R58, R171, R178). -/
def startEstimates (s : State) : State :=
  { s with mon := s.mon.mapIdx (fun c m => if s.inUse c then { m with startDue := true } else m) }

/-- A waking event: in DORMANT the part enters WAKING (R178); in any other mode nothing. -/
def wakeFrom (s : State) (cause : ModeCause) : State :=
  if s.ctl.mode = .dormant then s.enterMode .waking cause else s

/-- An event that ends parking or sleep: in PARKED the part enters SERVICE (R176), in DORMANT WAKING (R178). -/
def rouse (s : State) (cause : ModeCause) : State :=
  if s.ctl.mode = .parked then s.enterMode .service cause else s.wakeFrom cause

/-- The park condition is formed again after a change; when it has become false it ends parking or sleep (R173, R176,
R178). -/
def parkChanged (s : State) (was : Bool) : State :=
  if was && !s.parkCondition then s.rouse .parkEnded else s

end State

end Sys2Proof.Machine
end

