-- ==== Sys2Proof/Machine/FrontEnd.lean ====
section
/-! DEFINITION. The measurement front end (file 01): conversion, the reference check, probe health, compartment air, the
round, SET_PROBE and READ_PROBES. -/

namespace Sys2Proof.Machine

/-! ## From code to temperature -/

/-- The base temperature B of a code, in centidegrees (R4). -/
def baseTemp (code : Nat) : Int := ((code : Int) + 2) / 4 - 5500

/-- The trimmed temperature T before the clamp (R5). -/
def trimmed (code : Nat) (t : Trim) : Int :=
  let b := baseTemp code
  b + t.offset + (b * t.gain + 8192) / 16384

/-- The reading a code gives: FAULT for an open or shorted probe or in CONVERTER_FAULT (R4), otherwise the clamped
temperature with CLAMPED and SUSPECT (R5, R8). -/
def readingOf (code : BitVec 16) (t : Trim) (ref : RefRecord) : Reading :=
  if code = 0#16 ∨ code = 0xFFFF#16 ∨ ref.converterFault then .fault
  else
    let v := trimmed code.toNat t
    .valid (clampInt (-5500) 8500 v) (decide (clampInt (-5500) 8500 v ≠ v))
      (!ref.pass && decide (ref.consecutive = 1 ∨ ref.consecutive = 2))

/-! ## The reference check -/

/-- Whether both measured codes lie within 16 codes of their expected values (R6). -/
def checkPasses (a b : BitVec 16) : Bool :=
  12784 ≤ a.toNat && a.toNat ≤ 12816 && 51184 ≤ b.toNat && b.toNat ≤ 51216

/-- The reference-check record after a check completes (R6, R8): the third consecutive failure enters CONVERTER_FAULT,
a passing check ends it. -/
def RefRecord.check (r : RefRecord) (a b : BitVec 16) : RefRecord :=
  let n := if checkPasses a b then 0 else min (r.consecutive + 1) 3
  { codeA := a
    codeB := b
    pass := checkPasses a b
    consecutive := n
    converterFault := if checkPasses a b then false else r.converterFault || n == 3 }

namespace State

/-- A check completes (R6): the record is replaced, the check-due count becomes 0, and a passing check clears the check
request. A changed result, and CONVERTER_FAULT entered or left, request one REFCHECK mark; the latter raises a SENSOR
event (R8). -/
def completeCheck (s : State) (a b : BitVec 16) : State :=
  let old := s.fe.ref
  let r := old.check a b
  let s1 := { s with fe := { s.fe with
    ref := r
    checkDue := 0
    checkRequest := s.fe.checkRequest && !r.pass } }
  let s2 := s1.requestIf (old.pass != r.pass || old.converterFault != r.converterFault)
    (.refcheck r.codeA r.codeB r.pass r.consecutive r.converterFault)
  s2.raiseIf (old.converterFault != r.converterFault) .sensor

end State

/-! ## Probe health -/

/-- A probe after a reading (R10 to R12). The reading becomes its latest reading and the code its latest raw code (R4). A
faulted reading of a LOST probe leaves the run count at 0: R12 and its table count none there, while the run count's own row
in section 1.4 names LOST (log 41). -/
def Probe.step (p : Probe) (code : BitVec 16) (r : Reading) : Probe :=
  let q := { p with raw := some code, reading := some r }
  match p.status, r with
  | .unused, _ => q
  | .unknown, .valid v _ _ => { q with status := .good, run := 0, held := some v }
  | .unknown, .fault => { q with status := .held, run := 1, held := none }
  | .good, .valid v _ _ => { q with run := 0, held := some v }
  | .good, .fault => { q with status := .held, run := 1 }
  | .held, .valid v _ _ => { q with status := .good, run := 0, held := some v }
  | .held, .fault => if p.run + 1 ≥ 3 then { q with status := .lost, run := 0 } else { q with run := p.run + 1 }
  | .lost, .valid _ _ _ => { q with status := .recovering, run := 1 }
  | .lost, .fault => q
  | .recovering, .valid v _ _ =>
      if p.run + 1 ≥ 3 then { q with status := .good, run := 0, held := some v } else { q with run := p.run + 1 }
  | .recovering, .fault => { q with status := .lost, run := 0 }

/-- What a probe contributes to each compartment it serves: a value and its flags CLAMPED, SUSPECT, HELD (R10 to R12).
A held value carries HELD alone (log 16). -/
def Probe.contribution (p : Probe) : Option (Int × Bool × Bool × Bool) :=
  match p.status, p.reading with
  | .good, some (.valid v c u) => some (v, c, u, false)
  | .held, _ => p.held.map fun v => (v, false, false, true)
  | _, _ => none

/-- The marks and the event of one probe's change of status (R13): entering LOST from HELD and returning to GOOD from
RECOVERING raise SENSOR and request a PROBE mark, falling back to LOST requests the mark alone. -/
def State.probeChange (s : State) (p : Fin 8) (old new : ProbeStatus) : State :=
  if (old = .held ∧ new = .lost) ∨ (old = .recovering ∧ new = .good) then (s.request (.probe p old new)).raise .sensor
  else if old = .recovering ∧ new = .lost then s.request (.probe p old new)
  else s

/-! ## Compartment air -/

/-- The air record of a compartment in use at a publication (R14, R15). -/
def airOf (g : CompConfig) (probes : Table Probe 8) (before : AirRecord) : AirRecord :=
  let ps := (g.primary.toList ++ g.secondary.toList).filter fun p => (probes.read p).contribution.isSome
  let cs := ps.filterMap fun p => (probes.read p).contribution
  match cs with
  | [] => { before with lost := true, contributors := [] }
  | (v, _) :: rest =>
    { a := some (rest.foldl (fun m x => max m x.1) v)
      clamped := cs.any fun x => x.2.1
      suspect := cs.any fun x => x.2.2.1
      held := cs.any fun x => x.2.2.2
      lost := false
      contributors := ps }

/-! ## The round's publication -/

namespace State

/-- Whether the round in flight may be published: recorder time has come to the second two after its start (R3). -/
def publishDue (s : State) : Bool :=
  match s.fe.round with
  | some r => r.start + 2 ≤ s.now && s.ctl.mode.hasRounds && s.powered
  | none => false

/-- Every probe that the round converts takes its reading (R3 steps 2 and 3). -/
def stepProbes (s : State) (r : Round) (conv : Conversion) : Table Probe 8 :=
  s.fe.probes.mapIdx fun p x =>
    if r.converted.read p && x.status != .unused then
      x.step (conv.codes.read p) (readingOf (conv.codes.read p) (r.trims.read p) s.fe.ref)
    else x

/-- The air records after the probes have been updated: those of the compartments in use (R3 step 4). -/
def stepAir (s : State) (probes : Table Probe 8) : Table AirRecord 4 :=
  s.fe.air.mapIdx fun c before => if s.inUse c then airOf (s.config c) probes before else before

/-- The publication of a round whose check and probes have been taken (R3). -/
def publicationOf (s : State) (r : Round) : Publication where
  parked := r.parked
  startedIn := r.startedIn
  start := r.start
  second := s.now
  check := if r.check then some s.fe.ref.pass else none
  probes := s.fe.probes.mapIdx fun _ x => (x.status, x.reading)
  air := s.fe.air.mapIdx fun c x => if s.inUse c then some x else none

/-- A publication handed on to each of the blocks that take it (00_scope, R3). -/
def handPublication (s : State) (p : Publication) : State :=
  { s with pubs :=
    { line := s.pubs.line ++ [p]
      monitor := s.pubs.monitor ++ [p]
      engine := s.pubs.engine ++ [p]
      claims := s.pubs.claims ++ [p]
      control := s.pubs.control ++ [p]
      store := s.pubs.store ++ [p] } }

/-- The readings-published event of a round (R3): the check if one is due, the probes, the air, the reports of R8, R13 and
R15, the growth of the check-due count (R7), and the publication handed on. SENSOR is raised where SENSOR_LOST changed; at
the first publication after START that is a change from the flag kept from before the reset (R18, log 42). The PROBE marks of
several probes are requested from P0 to P7, an order that R13 does not state (log 35). -/
def publishRound (s : State) (r : Round) (conv : Conversion) : State :=
  let s1 := if r.check then s.completeCheck conv.refA conv.refB else s
  let probes := s1.stepProbes r conv
  let s2 := (List.finRange 8).foldl
    (fun t p => t.probeChange p (s1.fe.probes.read p).status (probes.read p).status) s1
  let air := s1.stepAir probes
  let s3 := s2.raiseIf
    ((List.finRange 4).any fun c => s1.inUse c && (s1.fe.air.read c).lost != (air.read c).lost) .sensor
  let s4 := { s3 with fe := { s3.fe with
    probes := probes
    air := air
    round := none
    lastStart := some r.start
    checkDue := s3.fe.checkDue + equivalents r.parked } }
  s4.handPublication (s4.publicationOf r)

/-- The round in flight is published when it is due; otherwise nothing happens (R3, log 4). -/
def publish (s : State) (conv : Conversion) : State :=
  match s.fe.round with
  | some r => if s.publishDue then s.publishRound r conv else s
  | none => s

/-! ## Assignment -/

/-- The probes after a change of the compartment configuration (R9): a probe whose list of served compartments changes
starts UNKNOWN, one that ceases to be assigned becomes UNUSED, every other is kept. -/
def reassign (old new : Table CompConfig 4) (probes : Table Probe 8) : Table Probe 8 :=
  probes.mapIdx fun p x =>
    if (assignment old p).map Prod.fst = (assignment new p).map Prod.fst then x
    else freshProbe (assigned new p)

/-- R9 applied after an edit of the compartment configuration: a round in flight no longer converts a probe whose
assignment changed ("converted from the next round", R41). -/
def applyAssignment (s : State) (old : Table CompConfig 4) : State :=
  let new := s.ctl.working.comps
  { s with fe := { s.fe with
    probes := reassign old new s.fe.probes
    round := s.fe.round.map fun r => { r with
      converted := r.converted.mapIdx fun p b =>
        b && decide ((assignment old p).map Prod.fst = (assignment new p).map Prod.fst) } } }

end State

/-! ## Commands -/

/-- SET_PROBE (R16). -/
def cmdSetProbe (h : Header) (probe : Byte) (offset gain : BitVec 16) (s : State) : State :=
  s.take .config h fun s => s.edit h fun s =>
    match index 8 probe with
    | none => s.respond h .badArgument []
    | some p =>
      let o := clampInt (-200) 200 offset.toInt
      let g := clampInt (-327) 327 gain.toInt
      let s1 := { s with ctl := { s.ctl with working := { s.ctl.working with
        trims := s.ctl.working.trims.write p { offset := o, gain := g } } } }
      s1.respond h (clampedIf (o != offset.toInt || g != gain.toInt)) (u8 p.val ++ i16 o ++ i16 g)

/-- The latest reading in a response: FAULT flag, value, CLAMPED, SUSPECT (R17, log 15). -/
def readingBytes : Reading → List Byte
  | .fault => flag true ++ temp none ++ flag false ++ flag false
  | .valid v c u => flag false ++ i16 v ++ flag c ++ flag u

/-- The assignment list in a response: compartment and role, primary 0 and secondary 1 (R17, R41, log 15). -/
def assignmentBytes (comps : Table CompConfig 4) (p : Fin 8) : List Byte :=
  members (assignment comps p) fun x => u8 x.1.val ++ u8 (if x.2 then 0 else 1)

/-- Whether readings are STALE: the mode is DORMANT or WAKING (R17, R60). -/
def State.stale (s : State) : Bool := s.ctl.mode == .dormant || s.ctl.mode == .waking

/-- One probe's entry in the answer to READ_PROBES (R17). -/
def State.probeBytes (s : State) (p : Fin 8) : List Byte :=
  let x := s.fe.probes.read p
  let t := s.ctl.working.trims.read p
  u8 x.status.code ++ assignmentBytes s.ctl.working.comps p ++ u8 x.run ++ present x.raw 2 (fun w => u16 w.toNat) ++
    present x.reading 5 readingBytes ++ temp x.held ++ i16 t.offset ++ i16 t.gain

/-- READ_PROBES (R17). -/
def cmdReadProbes (h : Header) (s : State) : State :=
  s.take .readings h fun s =>
    s.respond h .ok (present s.fe.lastStart 4 u32 ++ flag s.stale ++ flag s.fe.ref.converterFault ++
      (List.finRange 8).flatMap s.probeBytes)

/-- SET_PROBE taken (R16). -/
def execSetProbe (h : Header) (probe : Byte) (offset gain : BitVec 16) (s : State) : Host.Outcome State Fault Refusal :=
  .next (cmdSetProbe h probe offset gain s)

/-- READ_PROBES taken (R17). -/
def execReadProbes (h : Header) (s : State) : Host.Outcome State Fault Refusal := .next (cmdReadProbes h s)

/-! ## Events -/

/-- ROUND_START (R1). -/
def execRoundStart (s : State) : Host.Outcome State Fault Refusal := .next s.beginRound

/-- READINGS_PUBLISHED (R3). -/
def execReadingsPublished (conv : Conversion) (s : State) : Host.Outcome State Fault Refusal := .next (s.publish conv)

/-- PROBE_LOST (R11): the publication at which a HELD probe's run count reaches 3; where this publication does not bring
that about, the event does not occur (log 6). -/
def execProbeLost (p : Fin 8) (conv : Conversion) (s : State) : Host.Outcome State Fault Refusal :=
  let t := s.publish conv
  .next (if (s.fe.probes.read p).status = .held ∧ (t.fe.probes.read p).status = .lost then t else s)

/-- PROBE_RECOVERED (R12): the publication at which a RECOVERING probe's run count reaches 3 (log 6). -/
def execProbeRecovered (p : Fin 8) (conv : Conversion) (s : State) : Host.Outcome State Fault Refusal :=
  let t := s.publish conv
  .next (if (s.fe.probes.read p).status = .recovering ∧ (t.fe.probes.read p).status = .good then t else s)

end Sys2Proof.Machine
end

