-- ==== Sys2Proof/Machine/Monitor.lean ====
section
/-! DEFINITION. Zones and the compartment monitor (file 03): phases, the air excursion, the compartment estimate, and the
commands of compartments, zones, reports and READ_AIR. -/

namespace Sys2Proof.Machine

/-! ## Zone profiles -/

/-- One field of a zone profile. -/
def Zone.field (z : Zone) : ZoneField → Int
  | .nominal => z.nominal
  | .doorAllowance => z.doorAllowance
  | .doorOpenLimit => z.doorOpenLimit
  | .recovery => z.recovery
  | .defrostAllowance => z.defrostAllowance
  | .defrostMax => z.defrostMax
  | .hysteresis => z.hysteresis
  | .alarmDelay => z.alarmDelay
  | .k => z.k
  | .theta => z.theta
  | .soften => z.soften
  | .weight => z.weight
  | .shockHysteresis => z.shockHysteresis
  | .shockLimit => z.shockLimit
  | .hardLimit => z.hardLimit
  | .doseLimit => z.doseLimit

/-- A zone profile with one field stored. -/
def Zone.store (z : Zone) (f : ZoneField) (v : Int) : Zone :=
  match f with
  | .nominal => { z with nominal := v }
  | .doorAllowance => { z with doorAllowance := v }
  | .doorOpenLimit => { z with doorOpenLimit := v }
  | .recovery => { z with recovery := v }
  | .defrostAllowance => { z with defrostAllowance := v }
  | .defrostMax => { z with defrostMax := v }
  | .hysteresis => { z with hysteresis := v }
  | .alarmDelay => { z with alarmDelay := v }
  | .k => { z with k := v }
  | .theta => { z with theta := v }
  | .soften => { z with soften := v }
  | .weight => { z with weight := v }
  | .shockHysteresis => { z with shockHysteresis := v }
  | .shockLimit => { z with shockLimit := v }
  | .hardLimit => { z with hardLimit := v }
  | .doseLimit => { z with doseLimit := v }

/-- The sixteen fields in the order of R43's table. -/
def ZoneField.all : List ZoneField :=
  [.nominal, .doorAllowance, .doorOpenLimit, .recovery, .defrostAllowance, .defrostMax, .hysteresis, .alarmDelay, .k, .theta,
    .soften, .weight, .shockHysteresis, .shockLimit, .hardLimit, .doseLimit]

/-- A field's own range (R43). -/
def ZoneField.range : ZoneField → Int × Int
  | .nominal => (-5000, 3000)
  | .doorAllowance => (-5000, 5000)
  | .doorOpenLimit => (10, 1800)
  | .recovery => (0, 90)
  | .defrostAllowance => (-5000, 5000)
  | .defrostMax => (6, 540)
  | .hysteresis => (10, 1000)
  | .alarmDelay => (0, 60)
  | .k => (1, 255)
  | .theta => (-4000, 1000)
  | .soften => (-4000, 1000)
  | .weight => (8, 64)
  | .shockHysteresis => (10, 1000)
  | .shockLimit => (0, 255)
  | .hardLimit => (-4000, 3000)
  | .doseLimit => (1, 16777215)

/-- The first pass of SET_ZONE: each field given is clamped to its own range (R43). -/
def Zone.storeAll (z : Zone) (fields : List (ZoneField × Int)) : Zone :=
  fields.foldl (fun z x => z.store x.1 (clampInt x.1.range.1 x.1.range.2 x.2)) z

/-- The second pass of SET_ZONE: the cross-field raises (R43). -/
def Zone.raised (z : Zone) : Zone :=
  { z with
    doorAllowance := max z.doorAllowance z.nominal
    defrostAllowance := max z.defrostAllowance z.nominal
    soften := max z.soften z.theta }

/-! ## Phases -/

namespace State

/-- A change of defrost phase, with its DEFROST mark (R49). -/
def setDefrost (s : State) (c : Fin 4) (phase : DefrostPhase) (elapsed : Nat) : State :=
  (s.modComp c fun m => { m with defrost := phase, elapsed := elapsed }).request (.defrost c phase elapsed)

/-- The defrost indication of a compartment has been formed again; `was` is its value before. A change drives the phase
of a compartment in use (R49). At the end of a defrost the elapsed count stays as it last stood; the spec states it at ALLOW
alone (log 39). -/
def defrostChanged (s : State) (c : Fin 4) (was : Bool) : State :=
  if s.inUse c && was != s.defrostIndication c then
    if was then
      if (s.mon.read c).defrost = .none then s else s.setDefrost c .none (s.mon.read c).elapsed
    else s.setDefrost c .allow 0
  else s

/-- The UNIT mark of one compartment's changed unit-fault indication (R50). -/
def unitMark (s : State) (was : Fin 4 → Bool) (c : Fin 4) : State :=
  s.requestIf (s.inUse c && was c != s.unitFault c) (.unit c .unitFault (s.unitFault c) 0)

/-- The unit-fault indications have been formed again; `was` gives them as they were. Each compartment in use that changed
requests its mark, and one UNIT event covers them all (R50). -/
def unitChanged (s : State) (was : Fin 4 → Bool) : State :=
  (s.forComps fun c t => t.unitMark was c).raiseIf
    ((List.finRange 4).any fun c => s.inUse c && was c != s.unitFault c) .unit

/-- The recovery count a last closing loads: none, and CLOSED at once, when the recovery is 0 or there is no zone (R46). -/
def loadedRecovery (s : State) (c : Fin 4) : Option Nat :=
  match s.zoneOf c with
  | some z => if z.recovery ≤ 0 then none else some z.recovery.toNat
  | none => none

/-- The door-active count of a compartment has changed from `was` to `count`, stamped `second`: the door phase follows
(R46). -/
def doorCounted (s : State) (c : Fin 4) (was count second : Nat) : State :=
  if !s.inUse c then s
  else if was = 0 ∧ 0 < count then
    s.modComp c fun m =>
      if m.door = .closed ∨ m.door = .recovery then
        { m with door := .allow, openStart := some second, recovery := none }
      else m
  else if 0 < was ∧ count = 0 then
    let load := s.loadedRecovery c
    s.modComp c fun m =>
      if m.door = .allow ∨ m.door = .overstay then
        { m with
          door := if load.isSome then .recovery else .closed
          openStart := none
          recovery := load
          overstayDue := false }
      else m
  else s

/-- Whether recorder time stands past the door open limit of a compartment whose door phase is ALLOW (R47). -/
def pastOpenLimit (s : State) (c : Fin 4) : Bool :=
  match s.zoneOf c, (s.mon.read c).openStart with
  | some z, some b => s.inUse c && (s.mon.read c).door == .allow && decide ((b : Int) + z.doorOpenLimit < (s.now : Int))
  | _, _ => false

/-- The compartment's door phase becomes OVERSTAY (R47): a UNIT event, a UNIT mark with the open start second, and OVERSTAY
on every open episode of the compartment (R32). The mark's new-state byte, to which no rule gives a value for this cause, is
1 (log 15). -/
def overstay (s : State) (c : Fin 4) : State :=
  let b := (s.mon.read c).openStart.getD 0
  let s1 := s.modComp c fun m => { m with door := .overstay, overstayDue := false }
  let log := s1.lines.log.map (fun e => if e.comp = c ∧ e.stop = none then { e with overstay := true } else e)
  let s2 := { s1 with lines := { s1.lines with log := log } }
  (s2.request (.unit c .doorOverstay true b)).raise .unit

/-! ## Setpoint conflict -/

/-- SETPOINT_CONFLICT as R52 defines it. -/
def conflictNow (s : State) (c : Fin 4) : Bool :=
  match s.zoneOf c, (s.mon.read c).setpoint with
  | some z, some v => s.inUse c && decide (z.nominal < v)
  | _, _ => false

/-- SETPOINT_CONFLICT_SEEN set on every consignment in custody in a compartment (R54). -/
def flagConflict (s : State) (c : Fin 4) : State :=
  { s with cons := s.cons.mapIdx fun _ x =>
      x.map fun y => if y.inCustody && y.comp == c then { y with conflictSeen := true } else y }

/-- SETPOINT_CONFLICT is decided again (R52): a rise raises UNIT and flags the consignments in custody there (R54); a
changed setpoint or conflict requests one SETPOINT mark. -/
def decideConflict (s : State) (c : Fin 4) (setpointChanged : Bool) : State :=
  let old := (s.mon.read c).conflict
  let new := s.conflictNow c
  let s1 := s.modComp c fun m => { m with conflict := new }
  let s2 := if !old && new then s1.flagConflict c else s1
  let s3 := s2.raiseIf (!old && new) .unit
  s3.requestIf (setpointChanged || old != new) (.setpoint c (s.mon.read c).setpoint new)

/-! ## Compartments put into use and taken out of it (R42) -/

/-- The monitor starts the state of a compartment put into use, from the indications that stand (R42). Its air record is
absent (R15), and it has no interval state yet (R152). A SENSOR_LOST from before is gone with the record, without the SENSOR
event that R15 gives a compartment leaving it at a publication (log 57). -/
def startComp (s : State) (c : Fin 4) : State :=
  let s1 := s.modComp c fun m => { m with
    door := if s.doorOpen c then .allow else .closed
    openStart := if s.doorOpen c then some s.now else none
    recovery := none
    overstayDue := false
    excursion := .clear
    pending := 0
    estimate := none
    startDue := true }
  let s2 := { s1 with fe := { s1.fe with air := s1.fe.air.write c (resetFrontEnd.air.read 0) } }
  if s2.defrostIndication c then s2.setDefrost c .allow 0
  else if (s2.mon.read c).defrost = .none then s2 else s2.setDefrost c .none (s2.mon.read c).elapsed

/-- The monitor's state of a compartment taken out of use (R42); it loses its interval state (R152). -/
def stopComp (s : State) (c : Fin 4) : State :=
  let s1 := s.modComp c fun m => { m with
    door := .closed
    openStart := none
    recovery := none
    overstayDue := false
    excursion := .clear
    pending := 0
    estimate := none
    startDue := true }
  let s2 := { s1 with hist := { s1.hist with intervals := s1.hist.intervals.write c none } }
  if (s2.mon.read c).defrost = .none then s2 else s2.setDefrost c .none (s2.mon.read c).elapsed

/-- R42 for one compartment whose in-use flag was `was`, then R52: the DEFROST mark is requested before the SETPOINT mark, an
order that no rule states (log 35). -/
def applyUse (s : State) (was : Bool) (c : Fin 4) : State :=
  let s1 := if s.inUse c && !was then s.startComp c else if !s.inUse c && was then s.stopComp c else s
  s1.decideConflict c false

/-- An edit of the compartment configuration or the zones has been made; `old` is the configuration before it: R9 for the
probes, R42 and R52 for each compartment. -/
def applyComps (s : State) (old : Table CompConfig 4) : State :=
  (s.applyAssignment old).forComps fun c t => t.applyUse (old.read c).inUse c

end State

/-! ## The publication at the monitor -/

/-- The excursion state and pending count after judging A against the limit (R56), with whether ACTIVE is entered. -/
def judgeAir (state : Excursion) (count : Nat) (a limit hysteresis delay : Int) (eq : Nat) : Excursion × Nat × Bool :=
  match state with
  | .clear =>
      if limit < a then (if delay = 0 then (.active, 0, true) else (.pending, 0, false)) else (.clear, count, false)
  | .pending =>
      if limit < a then
        let n := min (count + eq) 60
        if delay ≤ (n : Int) then (.active, n, true) else (.pending, n, false)
      else (.clear, 0, false)
  | .active => if a ≤ limit - hysteresis then (.clear, 0, false) else (.active, count, false)

/-- One step of the first-order filter: floor((d × k + 128) / 256) with d = A − E (R58, R65). -/
def filterStep (a e k : Int) : Int := ((a - e) * k + 128) / 256

/-- `n` sub-steps of the compartment estimate on one A (R58). -/
def stepEstimate : Nat → Int → Int → Bool → Option Int → Option Int × Bool
  | 0, _, _, due, e => (e, due)
  | n + 1, a, k, due, e =>
    match due, e with
    | false, some v => stepEstimate n a k false (some (v + filterStep a v k))
    | _, _ => stepEstimate n a k false (some a)

namespace State

/-- The air value of a compartment in a publication, when it has one and is not SENSOR_LOST in it (R56, R58). -/
def judgedAir (p : Publication) (c : Fin 4) : Option Int :=
  match p.air.read c with
  | some r => if r.lost then none else r.a
  | none => none

/-- The excursion and the estimate of one compartment at a publication taken in SERVICE or PARKED (R56, R58). Where no limit
is in effect for want of a primary probe, which SERVICE and PARKED exclude, the excursion is kept (R40, log 40). -/
def judgeComp (s : State) (p : Publication) (c : Fin 4) : State :=
  match s.zoneOf c, judgedAir p c with
  | some z, some a =>
    if s.inUse c ∧ (s.ctl.mode = .service ∨ s.ctl.mode = .parked) then
      let m := s.mon.read c
      let j := match s.limit c with
        | some l => judgeAir m.excursion m.pending a l z.hysteresis z.alarmDelay (equivalents p.parked)
        | none => (m.excursion, m.pending, false)
      let e := stepEstimate (equivalents p.parked) a z.k m.startDue m.estimate
      (s.modComp c fun m => { m with excursion := j.1, pending := j.2.1, estimate := e.1, startDue := e.2 }).raiseIf j.2.2 .alarm
    else s
  | _, _ => s

/-- The recovery count of one compartment in use counts down (R48). -/
def countRecovery (s : State) (eq : Nat) (c : Fin 4) : State :=
  if !s.inUse c then s
  else s.modComp c fun m =>
    if m.door = .recovery then
      let n := m.recovery.getD 0 - eq
      if n = 0 then { m with door := .closed, recovery := none } else { m with recovery := some n }
    else m

/-- The defrost elapsed count of one compartment in use grows, and ALLOW reaches OVERRUN at the zone's defrost maximum
(R49). -/
def countDefrost (s : State) (eq : Nat) (c : Fin 4) : State :=
  let m := s.mon.read c
  if !s.inUse c || m.defrost == .none then s
  else
    let n := min (m.elapsed + eq) 540
    let overran : Bool := match s.zoneOf c with | some z => m.defrost == .allow && decide (z.defrostMax ≤ (n : Int)) | none => false
    if overran then (s.setDefrost c .overrun n).raise .unit
    else s.modComp c fun m => { m with elapsed := n }

/-- The monitor takes one compartment's part of a publication: the judgement against the limit as it stands, then the
counts (R48, R49). -/
def monitorComp (p : Publication) (c : Fin 4) (s : State) : State :=
  ((s.judgeComp p c).countRecovery (equivalents p.parked) c).countDefrost (equivalents p.parked) c

/-- The monitor takes the next publication handed to it, where there is one (R48, R56, R58). -/
def monitorTake (s : State) : State :=
  match s.pubs.monitor with
  | [] => s
  | p :: rest => ({ s with pubs := { s.pubs with monitor := rest } } : State).forComps (monitorComp p)

end State

/-! ## Commands -/

/-- SET_COMPARTMENT (R41). The answer gives the stored entry, then the assignment of each probe named, in the order of the
probes (R201). -/
def cmdSetCompartment (h : Header) (comp inUse : Byte) (zone primary secondary : Option Byte) (s : State) : State :=
  s.take .config h fun s => s.edit h fun s =>
    match index 4 comp, yesNo inUse, optIndex 4 zone, optIndex 8 primary, optIndex 8 secondary with
    | some c, some u, some z, some p, some q =>
      if q.isSome && (p.isNone || p == q) then s.respond h .badArgument []
      else
        let old := s.ctl.working.comps
        let s1 := { s with ctl := { s.ctl with working := { s.ctl.working with
          comps := old.write c { inUse := u, zone := z, primary := p, secondary := q } } } }
        let s2 := s1.applyComps old
        s2.respond h .ok (flag u ++ present z 1 (fun i => u8 i.val) ++ present p 1 (fun i => u8 i.val) ++
          present q 1 (fun i => u8 i.val) ++
          ((List.finRange 8).filter fun i => p == some i || q == some i).flatMap (assignmentBytes s1.ctl.working.comps))
    | _, _, _, _, _ => s.respond h .badArgument []

/-- The fields of SET_ZONE by name, or none when a name is not one of the sixteen (R45). -/
def zoneFields (fields : List (Byte × BitVec 32)) : Option (List (ZoneField × Int)) :=
  fields.mapM fun x => (zoneField x.1).map fun f => (f, x.2.toInt)

/-- SET_ZONE (R43, R45). -/
def cmdSetZone (h : Header) (zone : Byte) (fields : List (Byte × BitVec 32)) (s : State) : State :=
  s.take .config h fun s => s.edit h fun s =>
    match index 4 zone, zoneFields fields with
    | some z, some fs =>
      if fs = [] ∨ ¬ (fs.map Prod.fst).Nodup then s.respond h .badArgument []
      else
        let first := (s.ctl.working.zones.read z).storeAll fs
        let new := first.raised
        let s1 := { s with ctl := { s.ctl with working := { s.ctl.working with
          zones := s.ctl.working.zones.write z new } } }
        let s2 := s1.forComps fun c t => t.decideConflict c false
        s2.respond h (clampedIf (fs.any (fun x => new.field x.1 != x.2) || new != first))
          (ZoneField.all.flatMap fun f => i32 (new.field f))
    | _, _ => s.respond h .badArgument []

/-- REPORT_DEFROST (R51). -/
def cmdReportDefrost (h : Header) (comp report : Byte) (s : State) : State :=
  s.take .unitReport h fun s =>
    match index 4 comp, yesNo report with
    | some c, some on =>
      let was := s.defrostIndication c
      let s1 := (s.modComp c fun m => { m with defrostReport := on }).defrostChanged c was
      s1.respond h .ok (u8 c.val ++ flag on ++ flag (s1.defrostIndication c) ++ u8 (s1.mon.read c).defrost.code)
    | _, _ => s.respond h .badArgument []

/-- REPORT_UNIT (R51). -/
def cmdReportUnit (h : Header) (comp report : Byte) (s : State) : State :=
  s.take .unitReport h fun s =>
    match index 4 comp, yesNo report with
    | some c, some fault =>
      let s1 := (s.modComp c fun m => { m with unitReport := fault }).unitChanged s.unitFault
      s1.respond h .ok (u8 c.val ++ flag fault ++ flag (s1.unitFault c) ++ flag (s1.unitFault c))
    | _, _ => s.respond h .badArgument []

/-- REPORT_SETPOINT (R52, R53). The value 0x8000, an absent temperature where one may be absent (R200), is here a value as any
other, and is clamped (log 69). -/
def cmdReportSetpoint (h : Header) (comp : Byte) (value : BitVec 16) (s : State) : State :=
  s.take .unitReport h fun s =>
    match index 4 comp with
    | some c =>
      let v := clampTemp value.toInt
      let old := (s.mon.read c).setpoint
      let s1 := (s.modComp c fun m => { m with setpoint := some v }).decideConflict c (old != some v)
      s1.respond h (clampedIf (v != value.toInt))
        (u8 c.val ++ i16 v ++ flag (s1.mon.read c).conflict ++ temp ((s.zoneOf c).map Zone.nominal))
    | none => s.respond h .badArgument []

/-- One compartment's entry in the answer to READ_AIR (R60). It begins with the in-use flag, also for a compartment in use,
so that the two forms can be told apart (log 15). -/
def State.airBytes (s : State) (c : Fin 4) : List Byte :=
  let m := s.mon.read c
  let r := s.fe.air.read c
  if s.inUse c then
    flag true ++ present (s.config c).zone 1 (fun z => u8 z.val) ++ temp r.a ++ flag r.clamped ++ flag r.suspect ++
      flag r.held ++ flag r.lost ++ temp m.estimate ++ temp (s.limit c) ++ u8 m.door.code ++ present m.openStart 4 u32 ++
      present m.recovery 1 u8 ++ u8 m.defrost.code ++ u16 m.elapsed ++ flag (s.unitFault c) ++ u8 m.excursion.code ++
      u8 m.pending ++ temp m.setpoint ++ flag m.conflict
  else flag false ++ flag m.defrostReport ++ flag m.unitReport ++ temp m.setpoint

/-- READ_AIR (R60). -/
def cmdReadAir (h : Header) (s : State) : State :=
  s.take .readings h fun s =>
    s.respond h .ok (present s.fe.lastStart 4 u32 ++ flag s.stale ++ u8 s.ctl.mode.code ++
      (List.finRange 4).flatMap s.airBytes)

/-- SET_COMPARTMENT taken (R41). -/
def execSetCompartment (h : Header) (comp inUse : Byte) (zone primary secondary : Option Byte) (s : State) :
    Host.Outcome State Fault Refusal := .next (cmdSetCompartment h comp inUse zone primary secondary s)

/-- SET_ZONE taken (R45). -/
def execSetZone (h : Header) (zone : Byte) (fields : List (Byte × BitVec 32)) (s : State) :
    Host.Outcome State Fault Refusal := .next (cmdSetZone h zone fields s)

/-- REPORT_DEFROST taken (R51). -/
def execReportDefrost (h : Header) (comp report : Byte) (s : State) : Host.Outcome State Fault Refusal :=
  .next (cmdReportDefrost h comp report s)

/-- REPORT_UNIT taken (R51). -/
def execReportUnit (h : Header) (comp report : Byte) (s : State) : Host.Outcome State Fault Refusal :=
  .next (cmdReportUnit h comp report s)

/-- REPORT_SETPOINT taken (R53). -/
def execReportSetpoint (h : Header) (comp : Byte) (value : BitVec 16) (s : State) : Host.Outcome State Fault Refusal :=
  .next (cmdReportSetpoint h comp value s)

/-- READ_AIR taken (R60). -/
def execReadAir (h : Header) (s : State) : Host.Outcome State Fault Refusal := .next (cmdReadAir h s)

/-! ## Events -/

/-- DOOR_OVERSTAY (R47): the monitor takes an advance that brought recorder time past the door open limit. -/
def execDoorOverstay (c : Fin 4) (s : State) : Host.Outcome State Fault Refusal :=
  .next (if (s.mon.read c).overstayDue then
      (if s.pastOpenLimit c then s.overstay c else s.modComp c fun m => { m with overstayDue := false })
    else s)

/-- AIR_EXCURSION_EVALUATION (R56). -/
def execAirExcursionEvaluation (s : State) : Host.Outcome State Fault Refusal := .next s.monitorTake

/-- EXCURSION_ACTIVE (R56): the monitor's publication at which the compartment's excursion becomes ACTIVE (log 6). -/
def execExcursionActive (c : Fin 4) (s : State) : Host.Outcome State Fault Refusal :=
  let t := s.monitorTake
  .next (if (s.mon.read c).excursion ≠ .active ∧ (t.mon.read c).excursion = .active then t else s)

/-- RECOVERY_END (R48): the monitor's publication at which the compartment's recovery count reaches 0 (log 6). -/
def execRecoveryEnd (c : Fin 4) (s : State) : Host.Outcome State Fault Refusal :=
  let t := s.monitorTake
  .next (if (s.mon.read c).door = .recovery ∧ (t.mon.read c).door = .closed then t else s)

/-- DEFROST_OVERRUN (R49): the monitor's publication at which the compartment's defrost phase becomes OVERRUN (log 6). -/
def execDefrostOverrun (c : Fin 4) (s : State) : Host.Outcome State Fault Refusal :=
  let t := s.monitorTake
  .next (if (s.mon.read c).defrost = .allow ∧ (t.mon.read c).defrost = .overrun then t else s)

end Sys2Proof.Machine
end

