-- ==== Sys2Proof/Machine/Lines.lean ====
section
/-! DEFINITION. The line unit (file 02): debouncing, line events and their consumers, the door episode log, and its commands. -/

namespace Sys2Proof.Machine

/-! ## The door episode log -/

/-- The log with room for one more: from a full log the oldest closed entry is removed (R30). -/
def makeRoom (log : List Episode) : List Episode :=
  if 32 ≤ log.length then log.eraseP (fun e => e.stop.isSome) else log

namespace State

/-- An opening is counted against every consignment in custody in the compartment, holding at 255 (R95). -/
def countOpening (s : State) (c : Fin 4) : State :=
  { s with cons := s.cons.mapIdx fun _ x =>
      x.map fun y => if y.inCustody && y.comp == c then { y with episodes := min (y.episodes + 1) 255 } else y }

/-- An opening opens an episode (R28) and is handed to the manifest (R95). -/
def openEpisode (s : State) (l : Fin 8) (c : Fin 4) (second : Nat) : State :=
  let e : Episode :=
    { number := s.lines.nextEpisode
      line := l
      comp := c
      start := second
      stop := none
      peak := none
      overstay := (s.mon.read c).door == .overstay
      interrupted := false }
  let s1 := { s with lines := { s.lines with
    log := makeRoom s.lines.log ++ [e]
    nextEpisode := nextNumber s.lines.nextEpisode } }
  s1.countOpening c

/-- A closing closes the line's open episode, where it has one (R29). -/
def closeEpisode (s : State) (l : Fin 8) (second : Nat) : State :=
  let log := s.lines.log.map (fun e => if e.line = l ∧ e.stop = none then { e with stop := some second } else e)
  { s with lines := { s.lines with log := log } }

/-- Every open episode is closed with INTERRUPTED, and every candidate is discarded (R33). -/
def interruptEpisodes (s : State) (second : Nat) : State :=
  let log := s.lines.log.map (fun e => if e.stop = none then { e with stop := some second, interrupted := true } else e)
  { s with lines := { s.lines with log := log, line := s.lines.line.mapIdx fun _ x => { x with candidate := none } } }

/-! ## Line events -/

/-- A DOOR line event at its consumers (R22, R24): the log, the door-change flags, the door phase, and for an opening in a
compartment in use the mode (R176, R178). `was` is the compartment's count before the event. -/
def doorEvent (s : State) (l : Fin 8) (c : Fin 4) (active : Bool) (was : Nat) : State :=
  let s1 := if active then s.openEpisode l c s.now else s.closeEpisode l s.now
  let s2 := (s1.setDoorFlag l).doorCounted c was (s1.doorCount c) s.now
  if active && s2.inUse c then s2.rouse .door else s2

/-- The debounced state of a line and its candidate replaced. -/
def putLine (s : State) (l : Fin 8) (active : Bool) (candidate : Option Candidate) : State :=
  { s with lines := { s.lines with
    line := s.lines.line.modify l fun x => { x with active := active, candidate := candidate } } }

/-- A line event: the debounced state takes the state given, the candidate is discarded, and the event is handed on by the
line's kind (R22). -/
def lineTaken (s : State) (l : Fin 8) (active : Bool) : State :=
  let s1 := s.putLine l active none
  match (s.entry l).kind, (s.entry l).comp with
  | .door, some c => s1.doorEvent l c active (s.doorCount c)
  | .defrost, some c => s1.defrostChanged c (s.defrostIndication c)
  | .unitFault, _ => s1.unitChanged s.unitFault
  | .park, _ => s1.parkChanged s.parkCondition
  | _, _ => s1

/-- Whether a line's debounce time has run out at an instant, with the candidate that stands (R22). -/
def debounced (s : State) (l : Fin 8) (instant : Nat) : Option Candidate :=
  (s.lines.line.read l).candidate.filter fun k => k.instant + 10 * (s.entry l).debounce ≤ instant

/-- The line event of a line whose debounce time has run out, where there is one (R22). -/
def takeDebounced (s : State) (l : Fin 8) (instant : Nat) : State :=
  if !s.linesWatched then s
  else match s.debounced l instant with
    | some k => s.lineTaken l k.active
    | none => s

/-- A raw level as the line unit watches it (R22): a level opposite to the debounced state forms a candidate, or is a line
event at once when the debounce is 0; a level that agrees again discards the candidate. -/
def watchLevel (s : State) (l : Fin 8) (instant : Nat) : State :=
  let x := s.lines.line.read l
  let active := x.high == (s.entry l).activeHigh
  if !s.linesWatched || (s.entry l).kind == .unused then s
  else if active = x.active then s.putLine l x.active none
  else if (s.entry l).debounce = 0 then s.lineTaken l active
  else match x.candidate with
    | some _ => s
    | none => s.putLine l x.active (some { active := active, instant := instant })

/-- A line's raw level changes at an instant. A candidate whose debounce time ran out before that instant is taken first
(R22, log 10). -/
def rawLevel (s : State) (l : Fin 8) (high : Bool) (instant : Nat) : State :=
  if (s.lines.line.read l).high = high then s
  else
    let s1 := s.takeDebounced l instant
    let s2 := { s1 with lines := { s1.lines with line := s1.lines.line.modify l fun x => { x with high := high } } }
    s2.watchLevel l instant

/-! ## Edits of the line table -/

/-- The debounced state that a present raw level gives under an entry, without debounce; UNUSED gives inactive (R23, R38). -/
def sampled (e : LineEntry) (x : Line) : Bool := e.kind != .unused && x.high == e.activeHigh

/-- The compartment in which a line is door-active, when it is (R23). -/
def doorActiveIn (s : State) (l : Fin 8) : Option (Fin 4) :=
  if s.lineActive .door l then (s.entry l).comp else none

/-- The door event of an edit in a compartment that the line left or came to, where there is one (R23). -/
def doorMoved (s : State) (l : Fin 8) (c : Option (Fin 4)) (active : Bool) (was : Fin 4 → Nat) : State :=
  match c with
  | some c => s.doorEvent l c active (was c)
  | none => s

/-- An edit of one line's entry (R23). An entry that does not change is left alone. Where one edit changes both indications,
the DEFROST marks are requested before the UNIT marks, an order that no rule states (log 35). -/
def editLine (s : State) (l : Fin 8) (e : LineEntry) : State :=
  if s.entry l = e then s
  else
    let s1 := { s with ctl := { s.ctl with working := { s.ctl.working with lines := s.ctl.working.lines.write l e } } }
    let s2 := s1.putLine l (sampled e (s.lines.line.read l)) none
    let old := s.doorActiveIn l
    let new := s2.doorActiveIn l
    let s3 := s2.doorMoved l (old.filter fun _ => new != old) false s.doorCount
    let s4 := s3.doorMoved l (new.filter fun _ => new != old) true s.doorCount
    let s5 := s4.forComps fun c t => t.defrostChanged c (s.defrostIndication c)
    (s5.unitChanged s.unitFault).parkChanged s.parkCondition

/-! ## The publication at the line unit -/

/-- An open episode's peak after a publication (R31). -/
def peakAfter (p : Publication) (e : Episode) : Episode :=
  match e.stop, judgedAir p e.comp with
  | none, some a => { e with peak := some (max (e.peak.getD a) a) }
  | _, _ => e

/-- The line unit takes the next publication handed to it, where there is one (R31). -/
def lineTake (s : State) : State :=
  match s.pubs.line with
  | [] => s
  | p :: rest =>
    { s with
      pubs := { s.pubs with line := rest }
      lines := { s.lines with log := s.lines.log.map (peakAfter p) } }

end State

/-! ## Commands -/

/-- SET_LINE (R35). The answer's debounced state is 1 active, 0 inactive (log 15). -/
def cmdSetLine (h : Header) (line kind lvl : Byte) (debounce : BitVec 16) (comp : Option Byte) (s : State) : State :=
  s.take .config h fun s => s.edit h fun s =>
    match index 8 line, lineKind kind, level lvl with
    | some l, some k, some high =>
      let c := if k = .door ∨ k = .defrost then comp.bind (index 4) else none
      if (k = .door ∨ k = .defrost) ∧ c = none then s.respond h .badArgument []
      else
        let d := clampNat 0 255 debounce.toNat
        let s1 := s.editLine l { kind := k, activeHigh := high, debounce := d, comp := c }
        s1.respond h (clampedIf (d != debounce.toNat))
          (u8 l.val ++ u8 k.code ++ u8 (if high then 0 else 1) ++ u16 d ++ present c 1 (fun i => u8 i.val) ++
            flag (s1.lines.line.read l).active)
    | _, _, _ => s.respond h .badArgument []

/-- One line's entry in the answer to READ_DOORS (R36), with the debounced state as 1 active, 0 inactive (log 15). -/
def State.lineBytes (s : State) (p : Port) (l : Fin 8) : List Byte :=
  u8 (s.entry l).kind.code ++ present (s.entry l).comp 1 (fun c => u8 c.val) ++ flag (s.lines.line.read l).active ++
    flag ((s.lines.flags.at p).getLsbD l.val)

/-- One compartment's entry in the answer to READ_DOORS (R36). -/
def State.doorBytes (s : State) (c : Fin 4) : List Byte :=
  flag (s.doorOpen c) ++ u8 (s.doorCount c) ++ word32 (s.lines.counters.read c)

/-- READ_DOORS (R36): the response is formed, then the asking port's door-change flags are cleared. -/
def cmdReadDoors (h : Header) (s : State) : State :=
  s.take .readings h fun s =>
    let s1 := s.respond h .ok ((List.finRange 8).flatMap (s.lineBytes h.port) ++ (List.finRange 4).flatMap s.doorBytes ++
      (List.finRange 4).flatMap (fun c => flag (s.defrostLine c)) ++ flag s.unitLine ++ flag s.parkLine)
    { s1 with lines := { s1.lines with flags := s1.lines.flags.put h.port 0#8 } }

/-- One episode in the answer to READ_DOOR_LOG (R37). -/
def Episode.bytes (e : Episode) : List Byte :=
  u32 e.number ++ u8 e.line.val ++ u8 e.comp.val ++ u32 e.start ++ present e.stop 4 u32 ++ temp e.peak ++ flag e.overstay ++
    flag e.interrupted

/-- READ_DOOR_LOG (R37). -/
def cmdReadDoorLog (h : Header) (fromEpisode : BitVec 32) (count : Byte) (s : State) : State :=
  s.take .readings h fun s =>
    let n := clampNat 1 8 count.toNat
    let log := s.lines.log
    let numbers := log.map (fun e => e.number)
    s.respond h (clampedIf (n != count.toNat))
      (u8 log.length ++ u8 (log.filter (fun e => e.stop.isNone)).length ++ present numbers.min? 4 u32 ++
        present numbers.max? 4 u32 ++ u32 s.lines.nextEpisode ++
        members ((log.filter (fun e => fromEpisode.toNat ≤ e.number)).take n) Episode.bytes)

/-- SET_LINE taken (R35). -/
def execSetLine (h : Header) (line kind lvl : Byte) (debounce : BitVec 16) (comp : Option Byte) (s : State) :
    Host.Outcome State Fault Refusal := .next (cmdSetLine h line kind lvl debounce comp s)

/-- READ_DOORS taken (R36). -/
def execReadDoors (h : Header) (s : State) : Host.Outcome State Fault Refusal := .next (cmdReadDoors h s)

/-- READ_DOOR_LOG taken (R37). -/
def execReadDoorLog (h : Header) (fromEpisode : BitVec 32) (count : Byte) (s : State) : Host.Outcome State Fault Refusal :=
  .next (cmdReadDoorLog h fromEpisode count s)

/-! ## Events -/

/-- RAW_LEVEL_CHANGE (R22). -/
def execRawLevelChange (l : Fin 8) (high : Bool) (instant : Nat) (s : State) : Host.Outcome State Fault Refusal :=
  .next (s.rawLevel l high instant)

/-- LINE_EVENT (R22). -/
def execLineEvent (l : Fin 8) (instant : Nat) (s : State) : Host.Outcome State Fault Refusal :=
  .next (s.takeDebounced l instant)

/-- EPISODE_PEAK_UPDATE (R31). -/
def execEpisodePeakUpdate (s : State) : Host.Outcome State Fault Refusal := .next s.lineTake

end Sys2Proof.Machine
end

