-- ==== Sys2Proof/Machine/Store.lean ====
section
/-! DEFINITION. Operations of the history store (file 08): readable records, the pending queue, upload-wanted, the choice of
the next sector, retirement, and the answer to READ_HISTORY. -/

namespace Sys2Proof.Machine

/-! ## Sectors and readable records -/

/-- The records a sector's slots hold, in slot order, whatever its state. -/
def Sector.records (x : Sector) : List Record :=
  x.slots.filterMap fun s => match s with | .record r => some r | .void _ => none

/-- The readable records of a sector: those in a WRITING or FULL sector (R146). -/
def Sector.readable (x : Sector) : List Record :=
  match x.state with
  | .writing => x.records
  | .full => x.records
  | _ => []

/-- Whether a sector is marked for retirement: its void count has reached 4 (R147). -/
def Sector.marked (x : Sector) : Bool := 4 ≤ x.voids

namespace History

/-- Every readable record (R146). -/
def readable (h : History) : List Record := h.sectors.toList.flatMap Sector.readable

/-- The sequence numbers of the readable records. -/
def sequences (h : History) : List Nat := h.readable.map (fun r => r.sequence)

/-- The oldest readable sequence, absent while nothing is readable (R146). -/
def oldest (h : History) : Option Nat := h.sequences.min?

/-- The number of usable sectors: the sixteen less the retired ones (R146). -/
def usable (h : History) : Nat := (h.sectors.indices fun _ x => x.state != .retired).length

/-- The set of retired sectors, as the counter block holds it (R185). -/
def retiredSet (h : History) : BitVec 16 := setOf (h.sectors.indices fun _ x => x.state == .retired)

/-- The pin budget: the usable sectors less 4 (R114). -/
def budget (h : History) : Nat := h.usable - 4

/-- The unsent count (R159). -/
def unsent (h : History) : Nat := h.newest - h.acked

/-- Whether the WRITING sector S has a free slot (R147). -/
def hasFreeSlot (h : History) : Bool :=
  match h.current with
  | some i => (h.sectors.read i).slots.length < 512
  | none => false

/-- Whether a GAP waits to be formed: a count above 0, or the start-up GAP (R156, R163). -/
def gapWaits (h : History) : Bool := h.gapDue || h.droppedSamples != 0 || h.droppedMarks != 0

/-- One sector changed. -/
def modSector (h : History) (i : Fin 16) (f : Sector → Sector) : History := { h with sectors := h.sectors.modify i f }

/-- The writer goes on at slot `k` of sector `i`: a new stretch begins there. What stood in the sector from `k` on is gone, and
with it the stretches that began there (log 27). -/
def openStretch (h : History) (i : Fin 16) (k : Nat) : History :=
  { h with stretches := (h.stretches.filter fun y => !(y.1 == i && decide (k ≤ y.2))) ++ [(i, k)] }

end History

namespace State

/-- The store's state changed. -/
def modHist (s : State) (f : History → History) : State := { s with hist := f s.hist }

/-- A rewrite of the counter block is requested; requests made while one waits are merged into it (R185). -/
def requestRewrite (s : State) : State :=
  if s.bank.queue.contains .counterRewrite then s
  else { s with bank := { s.bank with queue := s.bank.queue ++ [.counterRewrite] } }

/-! ## The pending queue (R155) -/

/-- A record joins the tail of the pending queue. -/
def joinQueue (s : State) (b : Body) : State :=
  s.modHist fun h => { h with
    queue := h.queue ++ [{ time := s.now, body := b }]
    queuedSamples := match b with | .sample _ => h.queuedSamples + 1 | _ => h.queuedSamples
    queuedMarks := match b with | .mark _ => h.queuedMarks + 1 | _ => h.queuedMarks }

/-- A SAMPLE created: it joins the queue, or is dropped when the queue holds eight (R155). -/
def createSample (s : State) (x : Sample) : State :=
  if s.hist.queue.length < 8 then s.joinQueue (.sample x)
  else s.modHist fun h => { h with droppedSamples := bump h.droppedSamples }

end State

/-- Whether a queued record is a SAMPLE. -/
def Queued.isSample (q : Queued) : Bool := match q.body with | .sample _ => true | _ => false

/-- The list without its last element that satisfies `p`. -/
def eraseLast {α : Type} (p : α → Bool) (xs : List α) : List α := (xs.reverse.eraseP p).reverse

/-- A program whose record has left the queue: it goes on, and its completion finds nothing to take from the queue (log 22). -/
def Program.displace : Program → Program
  | .head q => .displaced q
  | p => p

/-- The newest SAMPLE is removed from the queue and counted in dropped samples; a head that is being programmed counts as in
the queue (R155). -/
def History.displaceSample (h : History) : History :=
  { h with
    queue := eraseLast Queued.isSample h.queue
    queuedSamples := h.queuedSamples - 1
    droppedSamples := bump h.droppedSamples
    program := if (h.queue.drop 1).any Queued.isSample then h.program else h.program.map Program.displace }

namespace State

/-- A dropped mark: a LOAD mark's drop is handed to the manifest, which clears load mark outstanding (R91, R154). -/
def markDropped (s : State) (m : Mark) : State :=
  match m with
  | .load slot .. => s.modCons slot fun x => { x with loadMarkOutstanding := false }
  | _ => s

/-- A MARK created: it joins the queue; from a full queue it displaces the newest SAMPLE, or is dropped itself when there
is none (R154, R155). -/
def createMark (s : State) (m : Mark) : State :=
  if s.hist.queue.length < 8 then s.joinQueue (.mark m)
  else if s.hist.queue.any Queued.isSample then (s.modHist History.displaceSample).joinQueue (.mark m)
  else (s.modHist fun h => { h with droppedMarks := bump h.droppedMarks }).markDropped m

/-- The store takes the next mark request, where there is one (R154). In START the requests wait: the marks of a START that
is abandoned are never created, and so are not counted as dropped either (R166, log 45). -/
def takeMark (s : State) : State :=
  match s.marks with
  | [] => s
  | m :: rest => if s.ctl.mode = .start then s else ({ s with marks := rest } : State).createMark m

/-- A mark that the store makes for itself: it is created at once, but in START it is requested and waits with the marks of
START, so that an abandoned START has created none (R151, R166, log 45). Created at once, it stands ahead of every mark request
that still waits, also of one made by the same event before it (log 71). -/
def ownMark (s : State) (m : Mark) : State := if s.ctl.mode = .start then s.request m else s.createMark m

/-! ## Upload-wanted (R159) -/

/-- The upper mark in force. -/
def upperMark (s : State) : Nat :=
  if s.hist.degraded then min s.ctl.working.upper (256 * s.hist.usable) else s.ctl.working.upper

/-- The lower mark in force. With no usable sector left it is 0, where R159's "less one" would be below 0 (log 61). -/
def lowerMark (s : State) : Nat :=
  if s.hist.degraded then min s.ctl.working.lower (s.upperMark - 1) else s.ctl.working.lower

/-- Upload-wanted is judged (R159). -/
def judgeUpload (s : State) : State :=
  if !s.hist.uploadWanted && decide (s.upperMark ≤ s.hist.unsent) then
    (s.modHist fun h => { h with uploadWanted := true }).raise .upload
  else if s.hist.uploadWanted && decide (s.hist.unsent ≤ s.lowerMark) then
    s.modHist fun h => { h with uploadWanted := false }
  else s

/-! ## READ_HISTORY answers (R157) -/

end State

/-- Records in ascending order of sequence: one record put in its place. -/
def insertRecord (r : Record) : List Record → List Record
  | [] => [r]
  | x :: xs => if r.sequence ≤ x.sequence then r :: x :: xs else x :: insertRecord r xs

/-- Records in ascending order of sequence. -/
def sortRecords (rs : List Record) : List Record := rs.foldr insertRecord []

namespace State

/-- The readable records from a sequence upward, ascending, at most `n` of them (R157). -/
def recordsFrom (s : State) (fromSequence n : Nat) : List Record :=
  (sortRecords (s.hist.readable.filter fun r => fromSequence ≤ r.sequence)).take n

/-- The data of an answer to READ_HISTORY (R157). -/
def historyBytes (s : State) (rs : List Record) : List Byte :=
  optNumber s.hist.oldest ++ u32 s.hist.newest ++ u32 s.hist.acked ++ u32 s.hist.unsent ++ flag s.hist.uploadWanted ++
    flag s.hist.stalled ++ members rs Record.bytes

/-- One held READ_HISTORY is answered (R157, R189). -/
def answerRead (s : State) (r : HeldRead) : State :=
  let n := clampNat 1 7 r.count
  s.reply r.port r.tag (clampedIf (n != r.count)) (s.historyBytes (s.recordsFrom r.fromSequence n))

/-- A long command of the kind given is no longer in flight on any port. -/
def landed (s : State) (c : LongCommand) : State :=
  { s with ports := s.ports.map fun u =>
      { u with inFlight := u.inFlight.filter fun f => f.command != c } }

/-- Every held READ_HISTORY is answered (R157). -/
def answerReads (s : State) : State :=
  if s.heldReads.isEmpty then s
  else
    let s1 := s.heldReads.foldl answerRead s
    ({ s1 with heldReads := [] } : State).landed .readHistory

/-! ## Erasing, retiring and choosing sectors -/

/-- A FULL sector stops being readable: its unsent records are counted into LOST_UNSENT, the acknowledged sequence advances
to the highest sequence in it, and a STORE event is raised (R149). -/
def loseUnsent (s : State) (i : Fin 16) : State :=
  let rs := (s.hist.sectors.read i).records
  let lost := (rs.filter fun r => s.hist.acked < r.sequence).length
  if lost = 0 then s
  else
    let s1 := s.modHist fun h => { h with
      lostUnsent := min (h.lostUnsent + lost) maxTime
      acked := (rs.map (fun r => r.sequence)).foldl max h.acked }
    (s1.raise .store).judgeUpload

/-- A sector's erase starts: it becomes ERASING, from its first attempt (R149). -/
def startErase (s : State) (i : Fin 16) : State :=
  (s.loseUnsent i).modHist fun h => { h.modSector i fun x => { x with state := .erasing } with
    eraseQueue := h.eraseQueue ++ [i]
    secondErase := if h.eraseQueue.isEmpty then false else h.secondErase }

/-- A sector is retired (R150): the counter block rewrite is requested and a STORE event raised; below eight usable sectors
DEGRADED is set and STORE raised again. `touched` tells that erases were made on it. -/
def retireSector (s : State) (i : Fin 16) (touched : Bool) : State :=
  let s1 := if touched then s else s.loseUnsent i
  let s2 := s1.modHist fun h => h.modSector i fun x => { x with state := .retired, touched := x.touched || touched }
  let s3 := s2.requestRewrite.raise .store
  let s4 := if s3.hist.usable < 8 ∧ s3.hist.degraded = false then
      (s3.modHist fun h => { h with degraded := true }).raise .store
    else s3
  s4.judgeUpload

end State

/-- The sectors in the order a choice looks at them: after S in ring order, or from H0 while there is no S (R149, R164). -/
def ringAfter (current : Option (Fin 16)) : List (Fin 16) :=
  match current with
  | none => List.finRange 16
  | some i => (List.finRange 15).map fun k => ⟨(i.val + 1 + k.val) % 16, Nat.mod_lt _ (by decide)⟩

namespace State

/-- The first sector a choice may fall on: neither retired nor pinned (R149). -/
def firstChoice (s : State) : Option (Fin 16) :=
  (ringAfter s.hist.current).find? fun i =>
    (s.hist.sectors.read i).state != .retired && !(s.claims.pins.getLsbD i.val)

/-- A choice that finds no sector: STALLED is set, a STALL mark is created and a STORE event raised; held READ_HISTORY
commands are answered (R151, R157). -/
def stall (s : State) : State :=
  let s1 := s.modHist fun h => { h with next := none, stalled := true }
  ((s1.ownMark (.stall s.hist.usable (setSize s.claims.pins))).raise .store).answerReads

/-- The sector chosen becomes the next sector; STALLED is cleared (R149, R151). -/
def takeNext (s : State) (i : Fin 16) : State := s.modHist fun h => { h with next := some i, stalled := false }

/-- The store chooses the next sector (R149). Each round of the choice but the last retires a sector, so the fuel of
`chooseNext` suffices. -/
def chooseFuel : Nat → State → State
  | 0, s => s.stall
  | n + 1, s =>
    match s.firstChoice with
    | none => s.stall
    | some i =>
      let x := s.hist.sectors.read i
      if x.state = .full then
        if x.marked then chooseFuel n (s.retireSector i false)
        else (s.startErase i).takeNext i
      else s.takeNext i

/-- The store chooses the next sector (R149). -/
def chooseNext (s : State) : State := chooseFuel 16 s

end State

end Sys2Proof.Machine
end

