-- ==== Sys2Proof/Machine/Claims.lean ====
section
/-! DEFINITION. The claims unit (file 06): evidence windows, pins, opening, freezing, removal, the orphan rebuild, and its
commands and events. -/

namespace Sys2Proof.Machine

/-! ## Windows and pins -/

/-- Whether a sequence number lies in a window's range. -/
def within (first last n : Nat) : Bool := decide (first ≤ n) && decide (n ≤ last)

/-- The readable sequence numbers of a sector that lie in a range. -/
def Sector.inWindow (x : Sector) (first last : Nat) : List Nat :=
  (x.readable.map fun r => r.sequence).filter (within first last)

/-- Going down from `f` while the sequence below it is readable. -/
def coverDown (seqs : List Nat) : Nat → Nat → Nat
  | 0, f => f
  | n + 1, f => if seqs.contains (f - 1) then coverDown seqs n (f - 1) else f

namespace History

/-- The lowest covered-back sequence (R112): every sequence from it to the newest written is readable. When not even the
newest is readable it is the newest plus one, which is covered back by no record at all (log 21). -/
def coveredFrom (h : History) : Nat := coverDown h.sequences h.sequences.length (h.newest + 1)

/-- The sectors that hold a readable record of a window (R114). -/
def sectorsHolding (h : History) (first last : Nat) : BitVec 16 :=
  setOf (h.sectors.indices fun _ x => !(x.inWindow first last).isEmpty)

/-- The sector being written, as a set. It is empty while no sector is WRITING, as between a FACTORY_CLEAR and the beginning of
the first sector after it, a case that R114 and R115 do not name (log 73). -/
def writingSet (h : History) : BitVec 16 := match h.current with | some i => single i | none => 0#16

/-- The sectors that a window needs: those that hold records of it and, while it grows, the sector being written (R115). -/
def needs (h : History) (first last : Nat) (growing : Bool) : BitVec 16 :=
  h.sectorsHolding first last ||| (if growing then h.writingSet else 0#16)

/-- The places to which the first of a window may be moved: the first sequence of each sector that holds records of it and,
while it grows, past the newest, where it needs the sector being written alone (R115). -/
def laterFirsts (h : History) (first last : Nat) (growing : Bool) : List Nat :=
  (h.sectors.toList.filterMap fun x => (x.inWindow first last).min?) ++ (if growing then [last + 1] else [])

end History

/-- Whether needed sectors fit: they are all pinned already, or the pinned sectors stay within the budget (R114, R115). -/
def fits (h : History) (pins need : BitVec 16) : Bool :=
  pins ||| need == pins || decide (setSize (pins ||| need) ≤ h.budget)

/-- A window that has been tested against the budget: its first, FRONT_CUT, whether it was made empty, and the pin set
after it. -/
structure Window where
  first : Nat
  frontCut : Bool
  emptied : Bool
  pins : BitVec 16
  deriving DecidableEq, Repr

/-- The test of R115 on the window from `first` to `last`. Where it does not fit, its first moves forward, sector by sector in
sequence order, to the lowest place at which it fits; where it fits at none it becomes empty. -/
def fitWindow (h : History) (pins : BitVec 16) (last : Nat) (growing : Bool) (first : Nat) (cut : Bool) : Window :=
  let fit : Nat → Bool := fun f => fits h pins (h.needs f last growing)
  if fit first then { first := first, frontCut := cut, emptied := false, pins := pins ||| h.needs first last growing }
  else match ((h.laterFirsts first last growing).filter fit).min? with
    | some f => { first := f, frontCut := true, emptied := false, pins := pins ||| h.needs f last growing }
    | none => { first := last + 1, frontCut := true, emptied := true, pins := pins }

/-- The window of a claim opened now, from the first that R112 gives. -/
def openWindow (h : History) (pins : BitVec 16) (first : Nat) (cut : Bool) : Window :=
  fitWindow h pins h.newest true first cut

/-- The window first and FRONT_CUT of a claim opened on a consignment, before the budget test (R112). -/
def windowFirst (h : History) (x : Consignment) : Nat × Bool :=
  match x.startSequence with
  | some q => (max q h.coveredFrom, decide (q < h.coveredFrom))
  | none =>
    if x.loadMarkOutstanding then (h.newest + 1, false)
    else
      let timed := h.readable.filter fun r =>
        decide (h.coveredFrom ≤ r.sequence) && decide (x.custodyStart.getD 0 ≤ r.time)
      (((timed.map fun r => r.sequence).min?).getD (h.newest + 1), true)

/-- Whether a claim's window is growing (R113). -/
def Claim.growing (k : Claim) : Bool := k.state == .gathering && !k.endCut

/-- The last sequence of a claim's window; the newest written while it grows (R113, R123). -/
def Claim.windowLast (k : Claim) (h : History) : Nat := k.last.getD h.newest

/-- The sectors that hold records of a claim's window. -/
def Claim.sectors (k : Claim) (h : History) : BitVec 16 := h.sectorsHolding k.first (k.windowLast h)

/-- The sectors R114 requires of a claim. -/
def Claim.requires (k : Claim) (h : History) : BitVec 16 :=
  k.sectors h ||| (if k.growing then h.writingSet else 0#16)

namespace State

/-- The claims present, ascending by slot. -/
def claimsPresent (s : State) : List Claim := s.claims.table.toList.filterMap id

/-- The slot that holds the claim of a number. -/
def claimSlot (s : State) (number : Nat) : Option (Fin 16) :=
  s.claims.table.findIdx? fun x => match x with | some k => k.number == number | none => false

/-- The claim of a number with its slot. -/
def claimByNumber (s : State) (number : Nat) : Option (Fin 16 × Claim) := do
  let i ← s.claimSlot number
  let k ← s.claims.table.read i
  return (i, k)

/-- The claim a consignment refers to, with its slot. -/
def claimOf (s : State) (x : Consignment) : Option (Fin 16 × Claim) := x.claim.bind s.claimByNumber

/-- The lowest-numbered free slot of the claims table (R106). -/
def freeClaimSlot (s : State) : Option (Fin 16) := s.claims.table.findIdx? fun x => x.isNone

/-- The sectors that R114 requires of the claims present. -/
def pinsRequired (s : State) : BitVec 16 :=
  s.claimsPresent.foldl (fun (acc : BitVec 16) (k : Claim) => acc ||| k.requires s.hist) 0#16

/-- The pin set recomputed from the claims present (R117). While STALLED, a recomputation makes a new choice (R149, R151). -/
def recomputePins (s : State) : State :=
  let s1 := { s with claims := { s.claims with pins := s.pinsRequired } }
  if s1.hist.stalled then s1.chooseNext else s1

/-! ## Opening -/

/-- A claim is opened in slot `i` for the consignment `x` in slot `j`, with the causes that led to it and every other
unclaimed cause (R106, R109, R112, R115). -/
def openClaim (s : State) (i : Fin 16) (j : Fin 32) (x : Consignment) (led : BitVec 5) (reason : Option Nat) : State :=
  let n := nextNumber s.claims.counter
  let w := openWindow s.hist s.claims.pins (windowFirst s.hist x).1 (windowFirst s.hist x).2
  let c := led ||| x.unclaimed
  let k : Claim :=
    { number := n
      cons := some (j, x.id)
      comp := x.comp
      causes := c
      state := .gathering
      first := w.first
      last := if w.emptied then some s.hist.newest else none
      frontCut := w.frontCut
      endCut := w.emptied
      opened := s.now
      snapshot := none
      receipt := none
      reason := reason }
  let s1 := { s with claims := { s.claims with
    table := s.claims.table.write i (some k)
    counter := n
    pins := w.pins } }
  let s2 := s1.modCons j fun y => { y with claim := some n, claimed := y.claimed ||| c }
  (s2.requestRewrite.request (.claimOpen n j x.id x.comp c w.first w.frontCut w.emptied reason)).raise .claim

/-- A cause added to a GATHERING claim, with its CLAIM_CAUSE mark and the CLAIM event (R108, R111). -/
def addCause (s : State) (i : Fin 16) (k : Claim) (j : Fin 32) (c : BitVec 5) (reason : Option Nat) : State :=
  let s1 := s.putClaim i (some { k with causes := k.causes ||| c, reason := reason.or k.reason })
  let s2 := s1.modCons j fun y => { y with claimed := y.claimed ||| c }
  (s2.request (.claimCause k.number c reason)).raise .claim

/-- The claims unit decides a claim request for the consignment `x` in slot `j` (R108). A cause that is claimed already, by a
claim withdrawn or settled since the request was made, neither opens a claim again nor is owed one (R109, R122): the table
of R108, which does not ask for that, is read so in log 58. -/
def decideRequest (s : State) (j : Fin 32) (x : Consignment) (c : BitVec 5) : State :=
  match s.claimOf x with
  | some (i, k) =>
    if k.state = .gathering then (if k.causes &&& c = c then s else s.addCause i k j c none) else s
  | none =>
    if x.claimed &&& c = c then s
    else match s.freeClaimSlot with
      | some i => s.openClaim i j x c none
      | none => (s.modCons j fun y => { y with claimOverflow := true }).raise .claim

/-- One claim request taken. A request whose consignment has left custody is dropped; the part never makes one (R99, log
20). -/
def takeRequest (s : State) (r : ClaimRequest) : State :=
  match s.cons.read r.slot with
  | some x => if x.id == r.id && x.inCustody then s.decideRequest r.slot x r.cause else s
  | none => s

/-- The next claim request taken, where there is one (R108). -/
def requestTake (s : State) : State :=
  match s.claims.requests with
  | [] => s
  | r :: rest => ({ s with claims := { s.claims with requests := rest } } : State).takeRequest r

/-- Every outstanding claim request taken in turn: an UNLOAD, and a receipt completion, find them taken (R99, log 20). -/
def drainRequests (s : State) : State :=
  s.claims.requests.foldl takeRequest { s with claims := { s.claims with requests := [] } }

/-- Whether a consignment is owed a claim (R110). -/
def owed (x : Consignment) : Bool := x.inCustody && x.claim.isNone && x.unclaimed != 0#5

/-- The late allocation of one slot (R110). -/
def allocateTo (s : State) (j : Fin 32) : State :=
  match s.cons.read j, s.freeClaimSlot with
  | some x, some i => if owed x then s.openClaim i j x 0#5 none else s
  | _, _ => s

/-- The claims unit takes the next publication handed to it, where there is one: late allocation in ascending slots (R110). -/
def allocate (s : State) : State :=
  match s.pubs.claims with
  | [] => s
  | _ :: rest =>
    (List.finRange 32).foldl allocateTo { s with pubs := { s.pubs with claims := rest } }

/-! ## The decision, freezing and removal -/

/-- The claims unit's part of a DECIDE (R111): the state after it, and whether a claim was called for and could not be
opened. The claim the receipt names is the consignment's claim reference afterwards. -/
def decideClaim (s : State) (j : Fin 32) (x : Consignment) (v : Verdict) (reason : Nat) : State × Bool :=
  if v = .accept then (s, false)
  else match s.claimOf x with
    | some (i, k) => if k.state = .gathering then (s.addCause i k j causeCustomer (some reason), false) else (s, false)
    | none =>
      match s.freeClaimSlot with
      | some i => (s.openClaim i j x causeCustomer (some reason), false)
      | none => (s, true)

/-- A GATHERING claim in slot `i` frozen to a new state: its last is set if it grows, its snapshot and receipt number are
taken, and a CLAIM_FROZEN mark is requested (R118, R119). -/
def freeze (s : State) (i : Fin 16) (k : Claim) (new : ClaimState) (snap : Snapshot) (receipt : Option Nat) : State :=
  let last := k.windowLast s.hist
  (s.putClaim i (some { k with
    state := new
    last := some last
    snapshot := some snap
    receipt := receipt })).request (.claimFrozen k.number new last k.frontCut k.endCut (receipt.getD 0))

/-- The freeze at an UNLOAD (R118). -/
def freezeOpen (s : State) (x : Consignment) : State :=
  match s.claimOf x with
  | some (i, k) =>
    if k.state = .gathering then
      s.freeze i k .opened
        { buckets := x.exposure.buckets, shocks := x.totalShocks, peak := x.exposure.peak, e := x.exposure.e } none
    else s
  | none => s

/-- The freeze at a receipt write completion, with the values fixed at the decision (R119). -/
def presentClaim (s : State) (x : Consignment) (r : Receipt) : State :=
  match s.claimOf x with
  | some (i, k) =>
    if k.state = .gathering then
      s.freeze i k .presented { buckets := r.buckets, shocks := r.shocks, peak := r.peak, e := r.e } (some r.number)
    else s
  | none => s

/-- The consignment that a claim names loses its claim reference (R121). -/
def loseReference (s : State) (k : Claim) : State :=
  match k.cons with
  | some (j, _) => s.modCons j fun y => if y.claim = some k.number then { y with claim := none } else y
  | none => s

/-- A claim is removed (R121, R122). -/
def removeClaim (s : State) (i : Fin 16) (k : Claim) (settled : Bool) : State :=
  (((s.putClaim i none).loseReference k).request (.claimClosed k.number settled)).recomputePins

/-! ## A new sector -/

/-- The last of a growing window when it is cut: the highest sequence in the sector just left (R116). R116 does not provide for
a sector left that holds no record, nor for a beginning at which no sector is left, because none was WRITING since a
FACTORY_CLEAR. In both cases the model takes the newest sequence written (logs 50 and 73). -/
def cutLast (s : State) (left : Option (Fin 16)) : Nat :=
  ((left.bind fun i => ((s.hist.sectors.read i).records.map fun r => r.sequence).max?)).getD s.hist.newest

/-- One claim cut, where its window grows (R116). -/
def cutClaim (last : Nat) (s : State) (i : Fin 16) : State :=
  match s.claims.table.read i with
  | some k =>
    if k.growing then
      (s.putClaim i (some { k with endCut := true, last := some last })).request (.claimCut k.number last)
    else s
  | none => s

/-- The history store begins writing sector `i`, having left `left` (R116), or none where no sector was WRITING (log 73). -/
def newSector (s : State) (i : Fin 16) (left : Option (Fin 16)) : State :=
  if !s.claimsPresent.any Claim.growing then s
  else if fits s.hist s.claims.pins (single i) then
    { s with claims := { s.claims with pins := s.claims.pins ||| single i } }
  else (List.finRange 16).foldl (cutClaim (s.cutLast left)) s

end State

/-! ## The orphan rebuild (R124, R125) -/

/-- The marks among records, ascending by sequence, with their times. -/
def marksOf (rs : List Record) : List (Nat × Mark) :=
  (sortRecords rs).filterMap fun r => match r.body with | .mark m => some (r.time, m) | _ => none

/-- The claim number a claim mark carries. -/
def Mark.claimNumber : Mark → Option Nat
  | .claimOpen n .. => some n
  | .claimCause n .. => some n
  | .claimFrozen n .. => some n
  | .claimCut n .. => some n
  | .claimClosed n .. => some n
  | _ => none

/-- The claim a CLAIM_OPEN mark describes, as an ORPHANED claim; its last follows from the other marks (R124). -/
def orphanOf (newest : Nat) : Nat × Mark → Option Claim
  | (t, .claimOpen n _ _ comp c first front cut reason) => some
    { number := n
      cons := none
      comp := comp
      causes := c
      state := .orphaned
      first := first
      last := some (if cut then first - 1 else newest)
      frontCut := front
      endCut := cut
      opened := t
      snapshot := none
      receipt := none
      reason := reason }
  | _ => none

/-- What a later claim mark adds to an orphan (R124 step 3). -/
def Claim.learn (k : Claim) : Mark → Claim
  | .claimCause n c reason => if n = k.number then { k with causes := k.causes ||| c, reason := reason.or k.reason } else k
  | .claimCut n last => if n = k.number then { k with last := some last, endCut := true } else k
  | .claimFrozen n st last _ cut receipt =>
      if n = k.number then
        { k with
          last := some last
          endCut := k.endCut || cut
          receipt := if st = .presented then some receipt else k.receipt }
      else k
  | _ => k

/-- Whether claim number `n` has a CLAIM_CLOSED mark. -/
def closedIn (ms : List (Nat × Mark)) (n : Nat) : Bool :=
  ms.any fun m => match m.2 with | .claimClosed k _ => k == n | _ => false

/-- One claim put in its place by ascending number. -/
def insertClaim (k : Claim) : List Claim → List Claim
  | [] => [k]
  | x :: xs => if k.number ≤ x.number then k :: x :: xs else x :: insertClaim k xs

/-- One claim for each number: the one opened last, where a number was issued twice (R125). -/
def latestOpened : List Claim → List Claim
  | [] => []
  | k :: ks => if ks.any (fun x => x.number == k.number) then latestOpened ks else k :: latestOpened ks

/-- The claims found open, ascending by number, with the values their marks give (R124 steps 1 to 3). -/
def orphansFound (rs : List Record) (newest : Nat) : List Claim :=
  let ms := marksOf rs
  let found := latestOpened ((ms.filterMap (orphanOf newest)).filter fun k => !closedIn ms k.number)
  (found.map fun k => ms.foldl (fun k m => k.learn m.2) k).foldr insertClaim []

/-- One orphan's window brought to the readable range and fitted to the budget (R124 step 4), with the pin set after it. -/
def fitOrphan (h : History) (pins : BitVec 16) (k : Claim) : Claim × BitVec 16 :=
  let last := k.windowLast h
  let first := max k.first h.coveredFrom
  let w := fitWindow h pins last false first (k.frontCut || decide (k.first < h.coveredFrom))
  ({ k with first := w.first, frontCut := w.frontCut, endCut := k.endCut || w.emptied }, w.pins)

/-- The orphans, fitted one after another from an empty pin set. -/
def fitOrphans (h : History) : BitVec 16 → List Claim → List Claim
  | _, [] => []
  | pins, k :: ks => (fitOrphan h pins k).1 :: fitOrphans h (fitOrphan h pins k).2 ks

/-- The highest claim number in any readable claim mark, or 0 (R125). -/
def highestClaim (rs : List Record) : Nat := ((marksOf rs).filterMap fun m => m.2.claimNumber).foldl max 0

namespace State

/-- The claims table after the rebuild: the first sixteen orphans in the lowest slots (R124). -/
def orphanTable (ks : List Claim) : Table (Option Claim) 16 := Table.ofIdx fun i => ks[i.val]?

/-- The orphan rebuild at START after backup loss, with the claim counter resumed (R124, R125) and what it hands the
BACKUP_LOST mark. `counter` is the counter block's claim counter. -/
def rebuildOrphans (s : State) (counter : Nat) : State :=
  let rs := s.hist.readable
  let all := orphansFound rs s.hist.newest
  let ks := fitOrphans s.hist 0#16 (all.take 16)
  let rest := all.drop 16
  let report : LossReport :=
    { readable := rs.length
      rebuilt := ks.length
      notRebuilt := rest.length
      lowest := ((rest.map fun k => k.number).min?).getD 0 }
  let s1 : State := { s with
    claims := { table := orphanTable ks, counter := max counter (highestClaim rs), pins := 0#16, requests := [] }
    ctl := { s.ctl with lossReport := some report } }
  { s1 with claims := { s1.claims with pins := s1.pinsRequired } }

end State

/-! ## Commands -/

/-- SETTLE_CLAIM (R121). -/
def cmdSettleClaim (h : Header) (number : BitVec 32) (s : State) : State :=
  s.take .claims h fun s =>
    match s.claimByNumber number.toNat with
    | none => s.respond h .notFound []
    | some (i, k) =>
      if k.state = .gathering then s.respond h .badState []
      else if s.hist.acked < k.windowLast s.hist then
        s.respond h .notUploaded (u32 (k.windowLast s.hist) ++ u32 s.hist.acked)
      else
        let s1 := s.removeClaim i k true
        s1.respond h .ok (u32 k.number ++ u8 i.val ++ u8 (setSize s1.claims.pins))

/-- Whether a consignment's hand-over context is DECIDING (R122). -/
def State.decidingSlot (s : State) (j : Fin 32) : Bool :=
  s.hand.contexts.any fun c => c.slot == j && (match c.state with | .deciding .. => true | .waiting .. => false)

/-- Whether a claim's consignment has a context in DECIDING (R122). -/
def State.claimDeciding (s : State) (k : Claim) : Bool :=
  match k.cons with
  | some (j, _) => s.decidingSlot j
  | none => false

/-- WITHDRAW_CLAIM (R122). -/
def cmdWithdrawClaim (h : Header) (number : BitVec 32) (s : State) : State :=
  s.take .claims h fun s =>
    match s.claimByNumber number.toNat with
    | none => s.respond h .notFound []
    | some (i, k) =>
      if k.state = .presented then s.respond h .badState []
      else if k.state = .gathering ∧ s.claimDeciding k then
        s.respond h .busy []
      else
        let s1 := s.removeClaim i k false
        s1.respond h .ok (u32 k.number ++ u8 i.val ++ u8 (setSize s1.claims.pins))

/-- The freeze snapshot in a response. -/
def Snapshot.bytes (x : Snapshot) : List Byte :=
  u32 x.buckets.other ++ u32 x.buckets.door ++ u32 x.buckets.defrost ++ u32 x.buckets.unit ++ u8 x.shocks ++ temp x.peak ++
    temp x.e

/-- The data of an answer to READ_CLAIM: the header, then the fields of section 6.1 in their order (R123, log 15). -/
def State.claimBytes (s : State) (k : Claim) : List Byte :=
  [u8 s.claimCount, u32 s.claims.counter, u16 s.claims.pins.toNat, u8 s.hist.budget, u32 s.hist.acked, u32 k.number,
    present (k.cons.map Prod.fst) 1 (fun j => u8 j.val), present (k.cons.map Prod.snd) 4 word32, u8 k.comp.val,
    causes k.causes, u8 k.state.code, u32 k.first, u32 (k.windowLast s.hist), flag k.growing,
    windowFlags k.frontCut k.endCut, u32 k.opened, present k.snapshot 21 Snapshot.bytes, optNumber k.receipt,
    present k.reason 1 u8, u16 (k.sectors s.hist).toNat].flatten

/-- READ_CLAIM (R123). -/
def cmdReadClaim (h : Header) (which : ClaimName) (s : State) : State :=
  s.take .claims h fun s =>
    match which with
    | .byNumber n =>
      match s.claimByNumber n.toNat with
      | some (_, k) => s.respond h .ok (s.claimBytes k)
      | none => s.respond h .notFound []
    | .bySlot b =>
      match index 16 b with
      | none => s.respond h .badArgument []
      | some i =>
        match s.claims.table.read i with
        | some k => s.respond h .ok (s.claimBytes k)
        | none => s.respond h .notFound []

/-- SETTLE_CLAIM taken (R121). -/
def execSettleClaim (h : Header) (number : BitVec 32) (s : State) : Host.Outcome State Fault Refusal :=
  .next (cmdSettleClaim h number s)

/-- WITHDRAW_CLAIM taken (R122). -/
def execWithdrawClaim (h : Header) (number : BitVec 32) (s : State) : Host.Outcome State Fault Refusal :=
  .next (cmdWithdrawClaim h number s)

/-- READ_CLAIM taken (R123). -/
def execReadClaim (h : Header) (which : ClaimName) (s : State) : Host.Outcome State Fault Refusal :=
  .next (cmdReadClaim h which s)

/-! ## Events -/

/-- CLAIM_REQUEST (R108). A request waits while the part is not running: it would raise an event there (R170, R195). -/
def execClaimRequest (s : State) : Host.Outcome State Fault Refusal :=
  .next (if s.powered then s.requestTake else s)

/-- LATE_ALLOCATION (R110). -/
def execLateAllocation (s : State) : Host.Outcome State Fault Refusal := .next s.allocate

end Sys2Proof.Machine
end

