-- ==== Sys2Proof/Machine/Exposure.lean ====
section
/-! DEFINITION. The exposure engine (file 04): the five stages of a sub-step, the trigger test, and the engine's publication. -/

namespace Sys2Proof.Machine

/-- The largest value of a dose bucket (R72). -/
def maxBucket : Nat := 16777215

/-! ## The stages of a sub-step (R64) -/

/-- Whether a first estimate leaves the consignment armed (R63, R66, R74). -/
def armedAt (e soften : Int) : Bool := decide (e ≤ soften)

/-- Stage 1 with an air value: E is filtered, or set with armed decided (R65, R66). -/
def Exposure.filter (x : Exposure) (z : Zone) (a : Int) : Exposure :=
  match x.e with
  | some e => { x with e := some (e + filterStep a e z.k) }
  | none => { x with e := some a, armed := armedAt a z.soften }

/-- Stage 1 while the compartment is SENSOR_LOST: E is frozen and the lost count grows (R68). -/
def Exposure.freeze (x : Exposure) : Exposure := { x with lost := bump x.lost, lostSeen := true }

/-- Stage 2: the dose increment of an estimate (R69). -/
def increment (z : Zone) (e : Int) : Nat :=
  if e ≤ z.theta then 0
  else
    let lo := min e z.soften - z.theta
    let hi := max 0 (e - z.soften)
    ((8 * lo + z.weight * hi + 4) / 8).toNat

/-- One bucket with an increment added, holding at its maximum (R72). -/
def addBucket (b inc : Nat) : Nat := min (b + inc) maxBucket

/-- The bucket of a class. -/
def Buckets.at (b : Buckets) : DoseClass → Nat
  | .other => b.other
  | .door => b.door
  | .defrost => b.defrost
  | .unit => b.unit

/-- The buckets with an increment added to the bucket of a class. -/
def Buckets.add (b : Buckets) (k : DoseClass) (inc : Nat) : Buckets :=
  match k with
  | .other => { b with other := addBucket b.other inc }
  | .door => { b with door := addBucket b.door inc }
  | .defrost => { b with defrost := addBucket b.defrost inc }
  | .unit => { b with unit := addBucket b.unit inc }

/-- Stage 3: the increment is added to the bucket of the class, with SATURATED when the sum would pass the maximum (R72). -/
def Exposure.dose (x : Exposure) (k : DoseClass) (inc : Nat) : Exposure :=
  { x with
    buckets := x.buckets.add k inc
    saturated := x.saturated || decide (maxBucket < x.buckets.at k + inc) }

/-- Stage 4: the heat-shock state (R75). -/
def Exposure.shock (x : Exposure) (z : Zone) (e : Int) : Exposure :=
  if x.armed && decide (z.soften < e) then { x with shocks := min (x.shocks + 1) 255, armed := false }
  else if !x.armed && decide (e ≤ z.soften - z.shockHysteresis) then { x with armed := true }
  else x

/-- Stage 5: the peak (R77). -/
def Exposure.peakOf (x : Exposure) (e : Int) : Exposure := { x with peak := some (max (x.peak.getD e) e) }

/-- Stages 2 to 5 on the estimate after stage 1; they do not run while E is unset (R68). -/
def Exposure.afterEstimate (x : Exposure) (z : Zone) (k : DoseClass) : Exposure :=
  match x.e with
  | some e => ((x.dose k (increment z e)).shock z e).peakOf e
  | none => x

/-- One sub-step: `air` is the air value, or none while the compartment is SENSOR_LOST (R64). -/
def Exposure.subStep (x : Exposure) (z : Zone) (air : Option Int) (k : DoseClass) : Exposure :=
  match air with
  | some a => (x.filter z a).afterEstimate z k
  | none => x.freeze.afterEstimate z k

/-- The sub-steps of one publication (R64). -/
def Exposure.subSteps (z : Zone) (air : Option Int) (k : DoseClass) : Nat → Exposure → Exposure
  | 0, x => x
  | n + 1, x => Exposure.subSteps z air k n (x.subStep z air k)

/-! ## The trigger test (R78, R79) -/

/-- The causes passed, each with its mask, in the order DOSE, HARD, SHOCK, SENSOR (R78, R79). -/
def passed (x : Consignment) (z : Zone) : List (BitVec 5) :=
  (if z.doseLimit < (x.totalDose : Int) then [causeDose] else []) ++
  (match x.exposure.e with | some e => if z.hardLimit < e then [causeHard] else [] | none => []) ++
  (if z.shockLimit < (x.totalShocks : Int) then [causeShock] else []) ++
  (if 30 ≤ x.exposure.lost then [causeSensor] else [])

/-- The causes that a test newly hands on: those passed and not yet triggered (R79). -/
def newCauses (x : Consignment) (z : Zone) : List (BitVec 5) :=
  (passed x z).filter fun c => x.exposure.triggered &&& c != c

/-- The consignment with causes added to its triggered set. -/
def Consignment.trigger (x : Consignment) (cs : List (BitVec 5)) : Consignment :=
  { x with exposure := { x.exposure with triggered := cs.foldl (fun acc c => acc ||| c) x.exposure.triggered } }

/-! ## The publication at the engine -/

namespace State

/-- The class of every sub-step of a publication in a compartment, as the engine finds it (R71). -/
def doseClass (s : State) (c : Fin 4) : DoseClass :=
  if s.unitFault c then .unit
  else if (s.mon.read c).defrost ≠ .none then .defrost
  else if (s.mon.read c).door ≠ .closed then .door
  else .other

/-- What a publication steps a consignment with: the zone of its compartment and the air value, none while the compartment is
SENSOR_LOST. In custody in a compartment without a zone or without an air record, which the part never makes, a consignment
is not stepped at all (R171, log 4). -/
def stepWith (s : State) (p : Publication) (x : Consignment) : Option (Zone × Option Int) :=
  match s.zoneOf x.comp, p.air.read x.comp with
  | some z, some r => if x.inCustody && (r.lost || r.a.isSome) then some (z, if r.lost then none else r.a) else none
  | _, _ => none

/-- The consignment after the sub-steps of a publication (R64). -/
def stepOf (s : State) (p : Publication) (x : Consignment) (z : Zone) (air : Option Int) : Consignment :=
  { x with exposure := Exposure.subSteps z air (s.doseClass x.comp) (equivalents p.parked) x.exposure }

/-- The engine steps one slot, tests the stepped consignment, and hands on its claim requests (R64, R78, R79). -/
def engineSlot (p : Publication) (s : State) (j : Fin 32) : State :=
  match s.cons.read j with
  | some x =>
    match s.stepWith p x with
    | some (z, air) =>
      let y := s.stepOf p x z air
      let cs := newCauses y z
      let s1 := s.putCons j (some (y.trigger cs))
      let rs : List ClaimRequest :=
        cs.map (fun c => { slot := j, id := x.id, cause := c, comp := x.comp, second := p.second })
      { s1 with claims := { s1.claims with requests := s1.claims.requests ++ rs } }
    | none => s
  | none => s

/-- The engine takes the next publication handed to it, whole, where there is one (R64). In DORMANT and WAKING there is none:
no round runs there, and the part falls asleep with none waiting for the engine (`State.quietTest`, log 37). -/
def engineTake (s : State) : State :=
  match s.pubs.engine with
  | [] => s
  | p :: rest => (List.finRange 32).foldl (engineSlot p) { s with pubs := { s.pubs with engine := rest } }

end State

/-- EXPOSURE_STEP (R64). -/
def execExposureStep (s : State) : Host.Outcome State Fault Refusal := .next s.engineTake

end Sys2Proof.Machine
end

