-- ==== Sys2Proof/Machine/Manifest.lean ====
section
/-! DEFINITION. The manifest (file 05): LIST, LOAD, MOVE, UNLOAD, DROP and READ_CONSIGNMENT. -/

namespace Sys2Proof.Machine

/-- The exposure fields of a slot just filled (R63). The rule gives armed no first value: it is no while E is unset, when it is
not consulted (log 44). -/
def freshExposure : Exposure where
  e := none
  armed := false
  shocks := 0
  buckets := { other := 0, door := 0, defrost := 0, unit := 0 }
  peak := none
  lost := 0
  triggered := 0#5
  saturated := false
  lostSeen := false

/-- A consignment just listed (R86). -/
def freshConsignment (id : BitVec 32) (c : Fin 4) (stop : Nat) (dose shock source : Option Nat) (estimate : Option Int) :
    Consignment where
  id := id
  state := .listed
  comp := c
  stop := stop
  carriedDose := dose
  carriedShocks := shock
  source := source
  loadEstimate := estimate
  custodyStart := none
  custodyEnd := none
  startSequence := none
  loadMarkOutstanding := false
  doorSeconds := 0
  doorBase := none
  episodes := 0
  claimed := 0#5
  claim := none
  outageSeen := false
  conflictSeen := false
  claimOverflow := false
  lastContextExpired := false
  receipt := none
  exposure := freshExposure

/-- The lowest-numbered free slot of the consignment table (R85). -/
def State.freeSlot (s : State) : Option (Fin 32) := s.cons.findIdx? fun x => x.isNone

/-- Whether LIST is taken in a mode (R88). -/
def Mode.takesList (m : Mode) : Bool := m == .setup || m == .service || m == .parked

/-- Whether LOAD and MOVE are taken in a mode (R89, R97). -/
def Mode.takesLoad (m : Mode) : Bool := m == .service || m == .parked || m == .waking || m == .dormant

/-- LIST (R87, R88). A load estimate of 0x8000 is an omitted one (R200). -/
def cmdList (h : Header) (id : BitVec 32) (comp stop : Byte) (dose : Option (BitVec 32)) (shock : Option Byte)
    (source : Option (BitVec 32)) (estimate : Option (BitVec 16)) (s : State) : State :=
  s.take .manifest h fun s =>
    if !s.ctl.mode.takesList then s.respond h .wrongMode []
    else match index 4 comp with
      | none => s.respond h .badArgument []
      | some c =>
        if stop = 0#8 ∨ source = some 0#32 then s.respond h .badArgument []
        else if (s.slotOf id).isSome then s.respond h .duplicate []
        else match s.freeSlot with
          | none => s.respond h .full []
          | some j =>
            if !s.inUse c then s.respond h .badArgument []
            else
              let d := dose.map fun w => clampNat 0 maxBucket w.toNat
              let e := (optTemp estimate).map clampTemp
              let x := freshConsignment id c stop.toNat d (shock.map BitVec.toNat) (source.map BitVec.toNat) e
              (s.putCons j (some x)).respond h
                (clampedIf (d != dose.map BitVec.toNat || e != optTemp estimate))
                (u8 j.val ++ word32 id ++ u8 c.val ++ u8 x.stop ++ present x.carriedDose 4 u32 ++
                  present x.carriedShocks 1 u8 ++ optNumber x.source ++ temp x.loadEstimate ++ u8 x.state.code)

/-- The exposure fields at LOAD: a load estimate sets E, the peak and armed (R63). -/
def Exposure.loaded (x : Exposure) (z : Option Zone) (estimate : Option Int) : Exposure :=
  match estimate with
  | some v => { x with
      e := some v
      peak := some v
      armed := match z with | some z => armedAt v z.soften | none => x.armed }
  | none => x

/-- The consignment a LOAD takes into custody (R89). -/
def State.loaded (s : State) (x : Consignment) (estimate : Option Int) : Consignment :=
  s.seeConflict { x with
    state := .aboard
    loadEstimate := estimate
    custodyStart := some s.now
    doorBase := some (s.lines.counters.read x.comp)
    loadMarkOutstanding := true
    exposure := x.exposure.loaded (s.zoneOf x.comp) estimate }

/-- LOAD (R87, R89, R90). In DORMANT the LOAD mark is requested before the MODE mark of the wake-up, an order that no rule
states (log 49). -/
def cmdLoad (h : Header) (id : BitVec 32) (estimate : Option (BitVec 16)) (s : State) : State :=
  s.take .manifest h fun s =>
    if !s.ctl.mode.takesLoad then s.respond h .wrongMode []
    else match s.byId id with
      | none => s.respond h .notFound []
      | some (j, x) =>
        if x.state ≠ .listed then s.respond h .badState []
        else if !s.inUse x.comp then s.respond h .badArgument []
        else
          let given := (optTemp estimate).map clampTemp
          let y := s.loaded x (given.or x.loadEstimate)
          let s1 := (s.putCons j (some y)).request (.load j y.comp id y.stop s.now y.loadEstimate)
          (s1.wakeFrom .load).respond h (clampedIf (given != optTemp estimate))
            (u8 j.val ++ u8 y.state.code ++ u32 s.now ++ temp y.exposure.e ++ temp y.loadEstimate)

/-- The refusal of MOVE and UNLOAD by a consignment's state (R87, R97, R99). -/
def heldBack (x : Consignment) : Option Status :=
  match x.state with
  | .handingOver => some .busy
  | .listed => some .badState
  | .delivered => some .badState
  | .unloaded => some .badState
  | .aboard => none
  | .returned => none

/-- The consignment a MOVE takes to a compartment (R93, R97). -/
def State.moved (s : State) (x : Consignment) (c : Fin 4) : Consignment :=
  s.seeConflict { s.closeOff x with comp := c, doorBase := some (s.lines.counters.read c) }

/-- MOVE (R87, R97). -/
def cmdMove (h : Header) (id : BitVec 32) (comp : Byte) (s : State) : State :=
  s.take .manifest h fun s =>
    if !s.ctl.mode.takesLoad then s.respond h .wrongMode []
    else match index 4 comp, s.byId id with
      | none, _ => s.respond h .badArgument []
      | some _, none => s.respond h .notFound []
      | some c, some (j, x) =>
        match heldBack x with
        | some st => s.respond h st []
        | none =>
          if !s.inUse c then s.respond h .badArgument []
          else
            let y := s.moved x c
            ((s.putCons j (some y)).request (.move j c x.comp id y.doorSeconds)).respond h .ok
              (u8 j.val ++ u8 x.comp.val ++ u8 c.val ++ u32 y.doorSeconds ++ word32 (s.lines.counters.read c))

/-- The consignment an UNLOAD takes out of custody (R93, R99). -/
def State.unloaded (s : State) (x : Consignment) : Consignment :=
  { s.closeOff x with doorBase := none, custodyEnd := some s.now, state := .unloaded }

/-- UNLOAD's effects on the consignment in slot `j` (R99). -/
def State.unloadSlot (s : State) (j : Fin 32) (x : Consignment) : State :=
  let y := s.unloaded x
  let s1 := (s.putCons j (some y)).freezeOpen y
  s1.request (.unload j y.comp y.id ((s.custodySeconds y).getD 0) y.doorSeconds y.episodes y.ownDose y.totalDose)

/-- UNLOAD (R87, R99). The claim requests handed on before it have been taken (log 20). -/
def cmdUnload (h : Header) (id : BitVec 32) (s : State) : State :=
  s.take .manifest h fun s =>
    match s.byId id with
    | none => s.respond h .notFound []
    | some (_, x) =>
      match heldBack x with
      | some st => s.respond h st []
      | none =>
        let s1 := s.drainRequests
        match s1.byId id with
        | none => s1
        | some (j, x) =>
          let y := s1.unloaded x
          (s1.unloadSlot j x).respond h .ok
            (u8 j.val ++ u8 y.state.code ++ u32 ((s1.custodySeconds y).getD 0) ++ u32 y.doorSeconds ++ optNumber y.claim)

/-- DROP (R87, R100). -/
def cmdDrop (h : Header) (id : BitVec 32) (s : State) : State :=
  s.take .manifest h fun s =>
    match s.byId id with
    | none => s.respond h .notFound []
    | some (j, x) =>
      if x.state = .handingOver then s.respond h .busy []
      else if x.inCustody then s.respond h .badState []
      else if x.claim.isSome then s.respond h .claimHeld []
      else (s.putCons j none).respond h .ok (u8 j.val ++ word32 id)

/-- The exposure fields in a response, with the totals derived at the read (R101, log 15). -/
def Consignment.exposureBytes (x : Consignment) : List Byte :=
  let y := x.exposure
  temp y.e ++ flag y.armed ++ u8 y.shocks ++ u32 y.buckets.other ++ u32 y.buckets.door ++ u32 y.buckets.defrost ++
    u32 y.buckets.unit ++ temp y.peak ++ u16 y.lost ++ u32 x.ownDose ++ u32 x.totalDose ++ u8 x.totalShocks

/-- The data of an answer to READ_CONSIGNMENT (R101). -/
def State.consBytes (s : State) (j : Fin 32) (x : Consignment) : List Byte :=
  [u8 j.val, word32 x.id, u8 x.state.code, u8 x.comp.val, u8 x.stop, present x.carriedDose 4 u32,
    present x.carriedShocks 1 u8, optNumber x.source, temp x.loadEstimate, present x.custodyStart 4 u32,
    present x.custodyEnd 4 u32, present (s.custodySeconds x) 4 u32, optNumber x.startSequence,
    flag x.loadMarkOutstanding, u32 (s.liveDoor x), present x.doorBase 4 word32, u8 x.episodes, x.exposureBytes,
    causes x.exposure.triggered, causes x.claimed, optNumber x.claim, flag x.exposure.saturated, flag x.outageSeen,
    flag x.conflictSeen, flag x.exposure.lostSeen, flag x.claimOverflow, flag x.lastContextExpired,
    optNumber x.receipt].flatten

/-- READ_CONSIGNMENT (R101). -/
def cmdReadConsignment (h : Header) (which : ConsignmentName) (s : State) : State :=
  s.take .readings h fun s =>
    match which with
    | .byId id =>
      match s.byId id with
      | some (j, x) => s.respond h .ok (s.consBytes j x)
      | none => s.respond h .notFound []
    | .bySlot b =>
      match index 32 b with
      | none => s.respond h .badArgument []
      | some j =>
        match s.cons.read j with
        | some x => s.respond h .ok (s.consBytes j x)
        | none => s.respond h .notFound []

/-- LIST taken (R88). -/
def execList (h : Header) (id : BitVec 32) (comp stop : Byte) (dose : Option (BitVec 32)) (shock : Option Byte)
    (source : Option (BitVec 32)) (estimate : Option (BitVec 16)) (s : State) : Host.Outcome State Fault Refusal :=
  .next (cmdList h id comp stop dose shock source estimate s)

/-- LOAD taken (R89). -/
def execLoad (h : Header) (id : BitVec 32) (estimate : Option (BitVec 16)) (s : State) :
    Host.Outcome State Fault Refusal := .next (cmdLoad h id estimate s)

/-- MOVE taken (R97). -/
def execMove (h : Header) (id : BitVec 32) (comp : Byte) (s : State) : Host.Outcome State Fault Refusal :=
  .next (cmdMove h id comp s)

/-- UNLOAD taken (R99). -/
def execUnload (h : Header) (id : BitVec 32) (s : State) : Host.Outcome State Fault Refusal := .next (cmdUnload h id s)

/-- DROP taken (R100). -/
def execDrop (h : Header) (id : BitVec 32) (s : State) : Host.Outcome State Fault Refusal := .next (cmdDrop h id s)

/-- READ_CONSIGNMENT taken (R101). -/
def execReadConsignment (h : Header) (which : ConsignmentName) (s : State) : Host.Outcome State Fault Refusal :=
  .next (cmdReadConsignment h which s)

end Sys2Proof.Machine
end

