-- ==== Sys2Proof/Machine/Bank.lean ====
section
/-! DEFINITION. The settings bank: its copy areas, the order of its operations, the receipt slots and the test of the receipt
blocks (R139 to R141, R182, R185). -/

namespace Sys2Proof.Machine

/-! ## Copy areas (R182, R185) -/

/-- The image of highest generation that verifies. -/
def CopyPair.newest {α : Type} (p : CopyPair α) : Option (Image α) :=
  match p.a, p.b with
  | some a, some b => if b.generation ≤ a.generation then some a else some b
  | some a, none => some a
  | none, b => b

/-- Whether the next image is written into area A: the area that does not hold the newest image (log 26). -/
def CopyPair.targetA {α : Type} (p : CopyPair α) : Bool :=
  match p.a, p.b with
  | none, _ => true
  | some _, none => false
  | some a, some b => a.generation < b.generation

/-- One area replaced. -/
def CopyPair.put {α : Type} (p : CopyPair α) (toA : Bool) (x : Option (Image α)) : CopyPair α :=
  if toA then { p with a := x } else { p with b := x }

/-- The area to be written no longer verifies. -/
def CopyPair.spoil {α : Type} (p : CopyPair α) : CopyPair α := p.put p.targetA none

/-- The next image written: its generation is one above the newest's (R183, R185), and 1 where no image verifies (log 72). -/
def CopyPair.store {α : Type} (p : CopyPair α) (x : α) : CopyPair α :=
  p.put p.targetA (some { generation := ((p.newest.map fun i => i.generation).getD 0) + 1, contents := x })

namespace State

/-- The committed settings (R182). -/
def committed (s : State) : Settings := (s.bank.settings.newest.map fun i => i.contents).getD defaultSettings

/-- Whether the working settings differ from the committed ones (R182). -/
def differ (s : State) : Bool := s.ctl.working != s.committed

/-- The values of the counter block as table memory holds them (R185). -/
def counterValues (s : State) : CounterBlock :=
  { counter := s.claims.counter, sectors := s.hist.retiredSet, blocks := s.hand.retired }

/-- The settings bank changed. -/
def modBank (s : State) (f : SettingsBank → SettingsBank) : State := { s with bank := f s.bank }

/-- An operation requested on the settings bank (R139). -/
def ask (s : State) (op : BankOp) : State := s.modBank fun b => { b with queue := b.queue ++ [op] }

end State

/-! ## The receipt store (section 7.5) -/

/-- What a slot reads as after an erase of its block or sector failed or was cut short (log 13). -/
def eraseLeft {α : Type} (k i : Nat) (a : α) : Remains α := leavesOf (Config.eraseLeaves k i) a

/-- What a slot whose bytes do not verify reads as after such an erase: blank, or still bytes that do not verify (log 13). -/
def garbageLeft {α : Type} (k i : Nat) : Remains α :=
  match Config.eraseLeaves k i with
  | .erased => .erased
  | .garbage => .garbage
  | .whole => .garbage

/-- One receipt slot after its block's erase failed or was cut short. -/
def receiptSlotLeft (k i : Nat) : ReceiptSlot → ReceiptSlot
  | .empty => .empty
  | .receipt r => .void (eraseLeft k i r)
  | .void (.whole r) => .void (eraseLeft k i r)
  | .void .garbage => .void (garbageLeft k i)
  | .void .erased => .void .erased

namespace HandOver

/-- Whether a receipt block is retired. -/
def isRetired (h : HandOver) (b : Fin 4) : Bool := h.retired.getLsbD b.val

/-- The receipts of a block. -/
def receiptsOf (h : HandOver) (b : Fin 4) : List Receipt :=
  (h.blocks.read b).toList.filterMap fun x => match x with | .receipt r => some r | _ => none

/-- Whether a block is blank: all of its slots are EMPTY. -/
def blank (h : HandOver) (b : Fin 4) : Bool := (h.blocks.read b).toList.all fun x => x == .empty

/-- Whether a block is fully acknowledged. -/
def fullyAcked (h : HandOver) (b : Fin 4) : Bool := (h.receiptsOf b).all fun r => decide (r.number ≤ h.acked)

/-- Whether a block holds the newest receipt. -/
def holdsNewest (h : HandOver) (b : Fin 4) : Bool := (h.receiptsOf b).any fun r => r.number == h.newest

/-- The block `k` places after `b` in ring order. -/
def after (b : Fin 4) (k : Nat) : Fin 4 := ⟨(b.val + k) % 4, Nat.mod_lt _ (by decide)⟩

/-- The next block: the first after the write position's block, in ring order, that is not retired. In a store with one
usable block it is that block itself (section 7.5, R140). -/
def nextBlock (h : HandOver) : Option (Fin 4) := ([1, 2, 3, 4].map (after h.block)).find? fun b => !h.isRetired b

/-- Whether a block is due for erase (R140). A block of VOID slots alone holds no receipt to acknowledge, and is due after
backup loss too, where R145 says that no block is (log 54). -/
def due (h : HandOver) (b : Fin 4) : Bool :=
  !h.isRetired b && !h.blank b && h.fullyAcked b && !h.holdsNewest b &&
    ((b == h.block && h.slot == 0) || h.nextBlock == some b) && h.erasing.isNone

/-- The slot at the write position. -/
def positionSlot (h : HandOver) : ReceiptSlot := (h.blocks.read h.block).read h.slot

/-- Whether the slot at the write position is writable (R132, R140). -/
def writable (h : HandOver) : Bool :=
  !h.isRetired h.block &&
    (h.positionSlot == .empty || h.erasing == some h.block || h.due h.block ||
      (h.fullyAcked h.block && !h.holdsNewest h.block))

/-- One slot of the store programmed: it is now the last one written (log 27). -/
def putSlot (h : HandOver) (b : Fin 4) (i : Fin 16) (x : ReceiptSlot) : HandOver :=
  { h with
    blocks := h.blocks.modify b fun t => t.write i x
    written := (h.written.filter fun p => p != (b, i)) ++ [(b, i)] }

/-- The write position moved to the following slot, from the sixteenth to the first slot of the next block (R139). -/
def advance (h : HandOver) : HandOver :=
  if hlt : h.slot.val + 1 < 16 then { h with slot := ⟨h.slot.val + 1, hlt⟩ }
  else { h with slot := 0, block := h.nextBlock.getD h.block }

/-- The block whose erase is wanted: the write position's before the next block (R140). -/
def wanted (h : HandOver) : Option (Fin 4) :=
  if h.due h.block then some h.block
  else match h.nextBlock with
    | some b => if h.due b then some b else none
    | none => none

/-- The readable receipts of a block: none while it is retired or being erased (R141, R142). -/
def readableOf (h : HandOver) (b : Fin 4) : List Receipt :=
  if h.isRetired b || h.erasing == some b then [] else h.receiptsOf b

/-- The slots that a DECIDE could use in the blocks listed, in their order, before it meets an unacknowledged one, added to
`acc` (R143). -/
def slotsAfter (h : HandOver) : Nat → List (Fin 4) → Nat
  | acc, [] => acc
  | acc, b :: bs =>
    if h.isRetired b then h.slotsAfter acc bs
    else if h.fullyAcked b then h.slotsAfter (acc + 16) bs
    else acc

/-- The count of usable slots that ACK_RECEIPT reports (R143). Every slot of the write position's block from the position on is
counted, also one that is not EMPTY (log 60). -/
def usableSlots (h : HandOver) : Nat :=
  if h.writable then h.slotsAfter (16 - h.slot.val) ([1, 2, 3].map (after h.block)) else 0

end HandOver

/-- Whether an operation is an erase of a receipt block. -/
def BankOp.isErase : BankOp → Bool
  | .blockErase _ => true
  | _ => false

namespace State

/-- The hand-over unit changed. -/
def modHand (s : State) (f : HandOver → HandOver) : State := { s with hand := f s.hand }

/-- The receipt blocks are tested for erase (R140): at most one erase waits at the bank, that of the block wanted now. -/
def testBlocks (s : State) : State :=
  match s.hand.wanted with
  | none => s.modBank fun b => { b with queue := b.queue.filter fun op => !op.isErase }
  | some w =>
    if s.bank.queue.any BankOp.isErase then
      s.modBank fun b => { b with queue := b.queue.map fun op => if op.isErase then .blockErase w else op }
    else s.ask (.blockErase w)

/-- Whether a receipt write that has been requested must wait for an erase: the slot at the write position is not blank yet,
or its block is due for erase (R134, R136). A slot that is not blank in a block neither due nor being erased, a case that R134
does not name, lets the write wait as well (log 52). -/
def writeWaits (s : State) : Bool :=
  s.hand.writable && (s.hand.positionSlot != .empty || s.hand.due s.hand.block)

/-- The operation the bank starts next: the first requested that may start (R139). A receipt write that waits for an erase is
passed over (R134, log 25). -/
def nextOp (s : State) : Option BankOp :=
  if s.bank.busy.isSome || !s.powered then none
  else s.bank.queue.find? fun op => op != .receiptWrite || !s.writeWaits

/-- An operation starts on the bank. -/
def startOp (s : State) (op : BankOp) : State :=
  s.modBank fun b => { b with queue := b.queue.erase op, busy := some op }

/-- The operation in flight on the bank ends. -/
def endOp (s : State) : State := s.modBank fun b => { b with busy := none }

/-! ## Rewrites of the counter block (R185) -/

/-- COUNTER_BLOCK_REWRITE_START: the values are taken from table memory, for both attempts (log 75), and the area to be written
no longer verifies. -/
def startRewrite (s : State) : State :=
  (s.startOp .counterRewrite).modBank fun b => { b with
    rewrite := s.counterValues
    secondRewrite := false
    counters := b.counters.spoil }

/-- COUNTER_BLOCK_REWRITE_END (R185). The second attempt writes again the values taken when the first began; R185 does not say
whether table memory is read anew for it (log 75). -/
def endRewrite (s : State) (ok : Bool) : State :=
  if ok then s.endOp.modBank fun b => { b with counters := b.counters.store b.rewrite }
  else if s.bank.secondRewrite then s.endOp.raise .store
  else s.modBank fun b => { b with secondRewrite := true }

/-! ## Commits (R183) -/

/-- COMMIT_START: the area that does not hold the committed image is erased. -/
def startCommit (s : State) : State := (s.startOp .commit).modBank fun b => { b with settings := b.settings.spoil }

/-- The answer to COMMIT_SETUP, unless RESTART has discarded it (R181). -/
def answerCommit (s : State) (c : Commit) (ok : Bool) : State :=
  match c.tag with
  | some t => (s.reply .t t (if ok then .ok else .storeFault) []).landed .commitSetup
  | none => s

/-- COMMIT_END (R183). -/
def endCommit (s : State) (c : Commit) (ok : Bool) : State :=
  let s1 := if ok then s.endOp.modBank fun b => { b with settings := b.settings.store c.contents } else s.endOp
  ({ s1 with ctl := { s1.ctl with commit := none } } : State).answerCommit c ok

end State

/-- COMMIT_SETUP (R183). -/
def cmdCommitSetup (h : Header) (s : State) : State :=
  s.take .config h fun s =>
    if s.ctl.mode ≠ .setup then s.respond h .wrongMode []
    else if s.ctl.commit.isSome then s.respond h .busy []
    else if !s.differ then s.respond h .ok []
    else
      let s1 := { s with ctl := { s.ctl with commit := some { contents := s.ctl.working, tag := some h.tag } } }
      (s1.ask .commit).modPort h.port fun u => { u with inFlight := some { command := .commitSetup, tag := h.tag } }

/-- COMMIT_SETUP taken (R183). -/
def execCommitSetup (h : Header) (s : State) : Host.Outcome State Fault Refusal := .next (cmdCommitSetup h s)

/-- COMMIT_START (R183). -/
def execCommitStart (s : State) : Host.Outcome State Fault Refusal :=
  .next (if s.nextOp = some .commit then s.startCommit else s)

/-- COMMIT_END (R183). -/
def execCommitEnd (ok : Bool) (s : State) : Host.Outcome State Fault Refusal :=
  .next (match s.ctl.commit with
    | some c => if s.bank.busy = some .commit then s.endCommit c ok else s
    | none => s)

/-- COUNTER_BLOCK_REWRITE_START (R185). -/
def execCounterBlockRewriteStart (s : State) : Host.Outcome State Fault Refusal :=
  .next (if s.nextOp = some .counterRewrite then s.startRewrite else s)

/-- COUNTER_BLOCK_REWRITE_END (R185). -/
def execCounterBlockRewriteEnd (ok : Bool) (s : State) : Host.Outcome State Fault Refusal :=
  .next (if s.bank.busy = some .counterRewrite then s.endRewrite ok else s)

end Sys2Proof.Machine
end

