-- ==== Sys2Proof/Machine/Handover.lean ====
section
/-! DEFINITION. The hand-over unit (file 07): contexts, the decision, the receipt and its write, the receipt blocks, and the
unit's commands and events. -/

namespace Sys2Proof.Machine

/-! ## Contexts -/

/-- A context's decision, while it is DECIDING. -/
def Context.decision (c : Context) : Option (Nat × Decision) :=
  match c.state with
  | .deciding n d => some (n, d)
  | .waiting .. => none

/-- Whether a context is DECIDING (R127). -/
def Context.isDeciding (c : Context) : Bool := c.decision.isSome

namespace State

/-- The context of a consignment slot (R127). -/
def contextOf (s : State) (j : Fin 32) : Option Context := s.hand.contexts.find? fun c => c.slot == j

/-- The context that is DECIDING, where there is one (R127). -/
def deciding (s : State) : Option Context := s.hand.contexts.find? Context.isDeciding

/-- The contexts without that of a slot. -/
def dropContext (s : State) (j : Fin 32) : State :=
  s.modHand fun h => { h with contexts := h.contexts.filter fun c => c.slot != j }

/-- The state of the context of a slot replaced. -/
def setContext (s : State) (j : Fin 32) (st : ContextState) : State :=
  s.modHand fun h => { h with contexts := h.contexts.map fun c => if c.slot = j then { c with state := st } else c }

/-- A context ends without a receipt: the consignment returns to its previous state, the context is removed, a HANDOVER_END
mark is requested (R102, R129, R130, R144). -/
def endContext (s : State) (c : Context) (cause : EndCause) : State :=
  let s1 := s.modCons c.slot fun x => { x with
    state := c.previous
    lastContextExpired := x.lastContextExpired || cause == .expired }
  let id := match s.cons.read c.slot with | some x => x.id | none => 0#32
  (s1.dropContext c.slot).request (.handoverEnd c.slot id cause 0)

/-- A WAITING context expires (R130). -/
def expire (s : State) (c : Context) : State := (s.endContext c .expired).raise .handover

/-- Whether any other consignment is ABOARD with a lower stop number (R128). -/
def outOfOrder (s : State) (j : Fin 32) (stop : Nat) : Bool :=
  (List.finRange 32).any fun i =>
    i != j && (match s.cons.read i with | some x => x.state == .aboard && decide (x.stop < stop) | none => false)

end State

/-! ## The receipt (section 7.4) -/

/-- The bit of a flag in a mask. -/
def flagBit (n : Nat) (b : Bool) : BitVec 16 := if b then 1#16 <<< n else 0#16

/-- The receipt flags (R137, R202). -/
def receiptFlags (x : Consignment) (named : Option Claim) (notOpened outOfOrder wallUnset markAbsent : Bool) : BitVec 16 :=
  flagBit 0 x.exposure.saturated ||| flagBit 1 x.outageSeen ||| flagBit 2 x.conflictSeen |||
    flagBit 3 x.exposure.lostSeen ||| flagBit 4 notOpened ||| flagBit 5 outOfOrder ||| flagBit 6 wallUnset |||
    flagBit 7 markAbsent ||| flagBit 8 ((named.map fun k => k.frontCut).getD false) |||
    flagBit 9 ((named.map fun k => k.endCut).getD false)

/-- The receipt of a consignment as it stands, without its check (section 7.4, R133). In the GET_SUMMARY of a consignment
without a custody start the custody seconds, of which R131 says nothing, are 0; once custody has ended they are those of R96,
and do not run to the present second (log 48). -/
def State.receiptBody (s : State) (x : Consignment) (outOfOrder notOpened : Bool) (v : Verdict) (reason : Nat)
    (mark : List Byte) (markAbsent : Bool) : Receipt where
  number := nextNumber s.hand.newest
  time := s.now
  wall := s.ctl.wallOffset
  id := x.id
  source := x.source
  stop := x.stop
  comp := x.comp
  verdict := v
  reason := reason
  flags := receiptFlags x ((s.claimOf x).map Prod.snd) notOpened outOfOrder s.ctl.wallOffset.isNone markAbsent
  shocks := x.totalShocks
  episodes := x.episodes
  carriedDose := x.carriedDose.getD 0
  buckets := x.exposure.buckets
  doorSeconds := min (s.liveDoor x) 65535
  peak := x.exposure.peak
  e := x.exposure.e
  custodySeconds := (s.custodySeconds x).getD 0
  startSequence := x.startSequence
  claim := x.claim.getD 0
  mark := mark
  previous := s.hand.chain
  check := 0#32

/-- A receipt with its check formed (R138, R209). -/
def Receipt.sealed (r : Receipt) : Receipt := { r with check := r.rightCheck }

/-! ## The receipt write (R134, R135) -/

namespace State

/-- The response to the DECIDE in flight. -/
def answerDecide (s : State) (d : Decision) (st : Status) (data : List Byte) : State :=
  (s.reply .h d.tag st data).landed .decide

/-- A DECIDE ends without a receipt: its context returns to WAITING with a new expiry second, and with 0 remaining seconds
expires at once (R134). A STORE_FAULT ending raises STORE. That the new expiry second holds at the largest time, as that of
R128 does, is log 53's. -/
def failDecide (s : State) (c : Context) (remaining : Nat) (d : Decision) (st : Status) : State :=
  let s1 := (s.modBank fun b => { b with queue := b.queue.filter fun op => op != .receiptWrite }).setContext c.slot
    (.waiting (min (s.now + remaining) maxTime) false)
  let s2 := (s1.answerDecide d st (u8 c.slot.val)).raiseIf (st == .storeFault) .store
  if remaining = 0 then s2.expire c else s2

/-- A requested receipt write that finds no writable slot ends with RECEIPTS_FULL (R134). -/
def settleWrite (s : State) : State :=
  match s.deciding with
  | some c =>
    match c.decision with
    | some (n, d) =>
      if s.bank.queue.contains .receiptWrite && !s.hand.writable then s.failDecide c n d .receiptsFull else s
    | none => s
  | none => s

/-- The blocks tested and a waiting write looked at again, after anything that changes the store (R134, R140). -/
def retest (s : State) : State := s.testBlocks.settleWrite

/-- The consignment of a completed receipt (R135 step 1). -/
def receipted (s : State) (x : Consignment) (r : Receipt) : Consignment :=
  if r.verdict = .refuse then { s.closeOff x with state := .returned, receipt := some r.number }
  else { s.closeOff x with
    state := .delivered
    receipt := some r.number
    custodyEnd := some s.now
    doorBase := none }

/-- What a write completion does to the receipt store (R135 step 3, R139). -/
def storeReceipt (s : State) (r : Receipt) : State :=
  s.modHand fun h => ({ h with newest := r.number, chain := r.check } : HandOver).putSlot h.block h.slot (.receipt r)
    |>.advance

/-- The effects of a write completion (R135) for the context `c` of the consignment `x`. -/
def completeReceipt (s : State) (c : Context) (x : Consignment) (d : Decision) : State :=
  let r := d.receipt
  let y := s.receipted x r
  let s1 := ((s.putCons c.slot (some y)).presentClaim y r).storeReceipt r
  let s2 := (s1.dropContext c.slot).request (.receipt r.number r.id r.verdict r.reason r.claim r.check)
  let s3 := (s2.request (.handoverEnd c.slot r.id .receipt r.number)).raise .receipt
  let s4 := (s3.raise .handover).answerDecide d .ok (u32 r.number ++ word32 r.check ++ u8 y.state.code ++ u32 r.claim)
  s4.endOp.retest

/-- RECEIPT_WRITE_COMPLETION. The claim requests handed on before it have been taken (log 20). -/
def writeCompletion (s : State) : State :=
  if s.bank.busy = some .receiptWrite then
    let s1 := s.drainRequests
    match s1.deciding with
    | some c =>
      match c.decision, s1.cons.read c.slot with
      | some (_, d), some x => s1.completeReceipt c x d
      | _, _ => s
    | none => s
  else s

/-- RECEIPT_PROGRAM_FAILURE (R134): the slot becomes VOID, the write position moves on, and the write is made a second time
or the DECIDE ends with STORE_FAULT. The second attempt is requested of the bank anew, behind the operations that wait there
already; R134 and R139 do not say whether it keeps its turn (log 76). -/
def programFailure (s : State) : State :=
  match s.bank.busy, s.deciding with
  | some .receiptWrite, some c =>
    match c.decision with
    | some (n, d) =>
      let left := leavesOf s.takeLeaves.1 d.receipt
      let s1 := s.takeLeaves.2.modHand fun h => (h.putSlot h.block h.slot (.void left)).advance
      let s2 := s1.endOp
      if d.secondAttempt then (s2.failDecide c n d .storeFault).retest
      else ((s2.setContext c.slot (.deciding n { d with secondAttempt := true })).ask .receiptWrite).retest
    | none => s
  | _, _ => s

/-! ## Erases of receipt blocks (R141) -/

/-- A block's erase starts: its receipts stop being readable. -/
def startBlockErase (s : State) (b : Fin 4) : State :=
  (s.startOp (.blockErase b)).modHand fun h => { h with erasing := some b, secondErase := false }

/-- A block's erase succeeds: the block becomes blank. -/
def blockErased (s : State) (b : Fin 4) : State :=
  (s.endOp.modHand fun h => { h with
    blocks := h.blocks.write b (Table.const 16 .empty)
    erasing := none }).retest

/-- A block is retired; at the write position, the position moves to the first slot of the following usable block. What its
failed erases leave in its slots is free (log 13). -/
def retireBlock (s : State) (b : Fin 4) : State :=
  let s1 := ({ s with freeCount := s.freeCount + 1 } : State).endOp.modHand fun h => { h with
    retired := h.retired ||| single b
    erasing := none
    blocks := h.blocks.modify b fun u => u.mapIdx fun i x => receiptSlotLeft s.freeCount i.val x }
  let s2 := s1.modHand fun h => if h.block = b then { h with block := h.nextBlock.getD b, slot := 0 } else h
  (s2.requestRewrite.raise .store).retest

/-- A block's erase fails: it is made a second time, or the block is retired. -/
def blockEraseFailed (s : State) (b : Fin 4) : State :=
  if s.hand.secondErase then s.retireBlock b else s.modHand fun h => { h with secondErase := true }

end State

/-! ## Commands -/

/-- BEGIN_HANDOVER (R128). -/
def cmdBeginHandover (h : Header) (id : BitVec 32) (s : State) : State :=
  s.take .handoverBegin h fun s =>
    if s.ctl.mode ≠ .service ∧ s.ctl.mode ≠ .parked ∧ s.ctl.mode ≠ .waking then s.respond h .wrongMode []
    else match s.byId id with
      | none => s.respond h .notFound []
      | some (j, x) =>
        if x.state ≠ .aboard ∧ x.state ≠ .returned then s.respond h .badState []
        else if 4 ≤ s.hand.contexts.length then s.respond h .full []
        else
          let expiry := min (s.now + 600) maxTime
          let oo := s.outOfOrder j x.stop
          let c : Context :=
            { slot := j, begunBy := h.port, begin := s.now, previous := x.state, outOfOrder := oo,
              state := .waiting expiry false }
          let s1 := (s.putCons j (some { x with state := .handingOver, lastContextExpired := false })).modHand fun u =>
            { u with contexts := u.contexts ++ [c] }
          let s2 := (s1.request (.handoverBegin j id x.stop h.port x.state oo expiry)).raise .handover
          s2.respond h .ok (u8 j.val ++ u8 x.state.code ++ u32 expiry ++ flag oo ++ u8 s2.hand.contexts.length)

/-- CANCEL_HANDOVER (R129). The H-port's command for a context that the T-port began is DENIED also while that context is
DECIDING, where the table of R136 says BUSY (log 51). -/
def cmdCancelHandover (h : Header) (id : BitVec 32) (s : State) : State :=
  s.take .handoverBegin h fun s =>
    match s.byId id with
    | none => s.respond h .notFound []
    | some (j, _) =>
      match s.contextOf j with
      | none => s.respond h .notFound []
      | some c =>
        if c.begunBy = .t ∧ h.port ≠ .t then s.respond h .denied []
        else if c.isDeciding then s.respond h .busy []
        else ((s.endContext c .cancelled).raise .handover).respond h .ok (u8 j.val ++ u8 c.previous.code)

/-- The receipt fields in the answer to GET_SUMMARY, without receipt number, outcome, reason, customer mark and checks, with
the dose totals of R73 beside the buckets (R131, log 15). -/
def Receipt.summaryBytes (r : Receipt) : List Byte :=
  let own := r.buckets.other + r.buckets.door + r.buckets.defrost + r.buckets.unit
  [u32 r.time, i32 (r.wall.getD 0), word32 r.id, u32 (r.source.getD 0), u8 r.stop, u8 r.comp.val, u16 r.flags.toNat,
    u8 r.shocks, u8 r.episodes, u32 r.carriedDose, u32 r.buckets.other, u32 r.buckets.door, u32 r.buckets.defrost,
    u32 r.buckets.unit, u32 own, u32 (r.carriedDose + own), u16 (min r.doorSeconds 65535), temp r.peak, temp r.e,
    u32 r.custodySeconds, optNumber r.startSequence, u32 r.claim].flatten

/-- The context part of the answer to GET_SUMMARY: its state 0 none, 1 WAITING, 2 DECIDING, the seconds left, the begun-by
port and the begin second (R131, log 15). -/
def State.contextBytes (s : State) (c : Option Context) : List Byte :=
  let left := c.bind fun c => match c.state with | .waiting e _ => some (e - s.now) | .deciding .. => none
  u8 (match c with | none => 0 | some c => if c.isDeciding then 2 else 1) ++ present left 4 u32 ++
    present c 1 (fun c => u8 (portCode c.begunBy)) ++ present c 4 (fun c => u32 c.begin)

/-- The receipt fields a GET_SUMMARY reports: those fixed at the decision, or those that stand (R131). Without a decision
CLAIM_NOT_OPENED and MARK_ABSENT, which R137 defines by the DECIDE, are both clear (log 48). -/
def State.summary (s : State) (j : Fin 32) (x : Consignment) : Receipt :=
  match (s.contextOf j).bind Context.decision with
  | some (_, d) => d.receipt
  | none =>
    let oo := ((s.contextOf j).map fun c => c.outOfOrder).getD (s.outOfOrder j x.stop)
    s.receiptBody x oo false .accept 0 [] false

/-- The claim a consignment refers to, in the answer to GET_SUMMARY: its reference, and its state and its flags, each absent
without one (R131, R201). -/
def State.claimSummary (s : State) (x : Consignment) : List Byte :=
  let k := (s.claimOf x).map Prod.snd
  optNumber x.claim ++ present k 1 (fun k => u8 k.state.code) ++ present k 1 (fun k => windowFlags k.frontCut k.endCut) ++
    flag s.freeClaimSlot.isSome

/-- GET_SUMMARY (R131). -/
def cmdGetSummary (h : Header) (id : BitVec 32) (s : State) : State :=
  s.take .summary h fun s =>
    match s.byId id with
    | none => s.respond h .notFound []
    | some (j, x) =>
      s.respond h .ok (u8 x.state.code ++ s.contextBytes (s.contextOf j) ++ (s.summary j x).summaryBytes ++ s.claimSummary x)

/-- Whether a reason goes with an outcome: 0 with ACCEPT, 1 to 15 with the other two (R132). -/
def reasonFits (v : Verdict) (reason : Nat) : Bool :=
  if v = .accept then reason == 0 else decide (1 ≤ reason) && decide (reason ≤ 15)

/-- The form check of DECIDE (R132 step 1). -/
def decideForm (outcome reason : Byte) (mark : Option (List Byte)) : Option Verdict :=
  (verdict outcome).filter fun v => reasonFits v reason.toNat && (mark.map List.length).getD 16 == 16

/-- DECIDE taken into DECIDING (R133). -/
def State.takeDecision (s : State) (h : Header) (j : Fin 32) (x : Consignment) (c : Context) (v : Verdict) (reason : Nat)
    (mark : Option (List Byte)) : State :=
  let y := s.closeOff x
  let d := (s.putCons j (some y)).decideClaim j y v reason
  let z := (d.1.cons.read j).getD y
  let r := (d.1.receiptBody z c.outOfOrder d.2 v reason (mark.getD []) mark.isNone).sealed
  let expiry := match c.state with | .waiting e _ => e | .deciding .. => s.now
  let s2 := d.1.setContext j (.deciding (expiry - s.now) { receipt := r, secondAttempt := false, tag := h.tag })
  (s2.ask .receiptWrite).modPort h.port fun u => { u with inFlight := some { command := .decide, tag := h.tag } }

/-- DECIDE (R132, R133). -/
def cmdDecide (h : Header) (id : BitVec 32) (outcome reason : Byte) (mark : Option (List Byte)) (s : State) : State :=
  s.take .handoverDecide h fun s =>
    match decideForm outcome reason mark with
    | none => s.respond h .badArgument []
    | some v =>
      match s.byId id with
      | none => s.respond h .notFound []
      | some (j, x) =>
        match s.contextOf j with
        | none => s.respond h (if x.lastContextExpired then .expired else .notFound) []
        | some c =>
          if s.deciding.isSome then s.respond h .busy []
          else if !s.hand.writable then s.respond h .receiptsFull []
          else s.takeDecision h j x c v reason.toNat mark

/-- The place of the readable receipt of a number (R142). -/
def HandOver.locate (u : HandOver) (number : Nat) : Option (Fin 4 × Fin 16 × Receipt) :=
  (List.finRange 4).findSome? fun b => (List.finRange 16).findSome? fun i =>
    if u.isRetired b || u.erasing == some b then none
    else match (u.blocks.read b).read i with
      | .receipt r => if r.number = number then some (b, i, r) else none
      | _ => none

/-- READ_RECEIPT (R142). -/
def cmdReadReceipt (h : Header) (number : BitVec 32) (s : State) : State :=
  s.take .receiptRead h fun s =>
    match s.hand.locate (if number = 0#32 then s.hand.newest else number.toNat) with
    | some (b, i, r) => s.respond h .ok (r.bytes ++ u8 b.val ++ u8 i.val ++ flag (decide (r.number ≤ s.hand.acked)))
    | none => s.respond h .notFound []

/-- ACK_RECEIPT (R143). -/
def cmdAckReceipt (h : Header) (through : BitVec 32) (s : State) : State :=
  s.take .receiptAck h fun s =>
    let n := min through.toNat s.hand.newest
    let s1 := (s.modHand fun u => { u with acked := max u.acked n }).retest
    s1.respond h (clampedIf (n != through.toNat)) (u32 s1.hand.acked ++ u32 s1.hand.newest ++ u8 s1.hand.usableSlots)

/-- BEGIN_HANDOVER taken (R128). -/
def execBeginHandover (h : Header) (id : BitVec 32) (s : State) : Host.Outcome State Fault Refusal :=
  .next (cmdBeginHandover h id s)

/-- CANCEL_HANDOVER taken (R129). -/
def execCancelHandover (h : Header) (id : BitVec 32) (s : State) : Host.Outcome State Fault Refusal :=
  .next (cmdCancelHandover h id s)

/-- GET_SUMMARY taken (R131). -/
def execGetSummary (h : Header) (id : BitVec 32) (s : State) : Host.Outcome State Fault Refusal :=
  .next (cmdGetSummary h id s)

/-- DECIDE taken (R132). -/
def execDecide (h : Header) (id : BitVec 32) (outcome reason : Byte) (mark : Option (List Byte)) (s : State) :
    Host.Outcome State Fault Refusal := .next (cmdDecide h id outcome reason mark s)

/-- READ_RECEIPT taken (R142). -/
def execReadReceipt (h : Header) (number : BitVec 32) (s : State) : Host.Outcome State Fault Refusal :=
  .next (cmdReadReceipt h number s)

/-- ACK_RECEIPT taken (R143). -/
def execAckReceipt (h : Header) (through : BitVec 32) (s : State) : Host.Outcome State Fault Refusal :=
  .next (cmdAckReceipt h through s)

/-! ## Events -/

/-- The context in slot `j` whose expiry is due (R130). -/
def State.expiryDue (s : State) (j : Fin 32) : Option Context :=
  (s.contextOf j).filter fun c => match c.state with | .waiting e due => due && decide (e ≤ s.now) | .deciding .. => false

/-- HANDOVER_EXPIRY (R130): the hand-over unit takes the advance that brought recorder time to the expiry second. A context
that main power or START finds due is cancelled by START instead (R144, R170, log 5). -/
def execHandoverExpiry (j : Fin 32) (s : State) : Host.Outcome State Fault Refusal :=
  .next (match s.expiryDue j with
    | some c => if s.powered && s.ctl.mode != .start then s.expire c else s
    | none => s)

/-- RECEIPT_WRITE_START (R134, R139). -/
def execReceiptWriteStart (s : State) : Host.Outcome State Fault Refusal :=
  .next (if s.nextOp = some .receiptWrite then
      (if s.hand.writable then s.startOp .receiptWrite else s.settleWrite)
    else s)

/-- RECEIPT_WRITE_COMPLETION (R135). -/
def execReceiptWriteCompletion (s : State) : Host.Outcome State Fault Refusal := .next s.writeCompletion

/-- RECEIPT_PROGRAM_FAILURE (R134). -/
def execReceiptProgramFailure (s : State) : Host.Outcome State Fault Refusal := .next s.programFailure

/-- RECEIPT_BLOCK_ERASE_START (R140, R141). -/
def execReceiptBlockEraseStart (s : State) : Host.Outcome State Fault Refusal :=
  .next (match s.nextOp with
    | some (.blockErase b) => s.startBlockErase b
    | _ => s)

/-- RECEIPT_BLOCK_ERASE_COMPLETE (R141). -/
def execReceiptBlockEraseComplete (s : State) : Host.Outcome State Fault Refusal :=
  .next (match s.bank.busy with
    | some (.blockErase b) => s.blockErased b
    | _ => s)

/-- RECEIPT_BLOCK_ERASE_FAILURE (R141). -/
def execReceiptBlockEraseFailure (s : State) : Host.Outcome State Fault Refusal :=
  .next (match s.bank.busy with
    | some (.blockErase b) => s.blockEraseFailed b
    | _ => s)

end Sys2Proof.Machine
end

