-- ==== Sys2Proof/Machine/History.lean ====
section
/-! DEFINITION. The history store's writer, erases, samples, marks and commands (file 08). -/

namespace Sys2Proof.Machine

namespace State

/-! ## The writer (R147, R148, R156) -/

/-- Whether a record waits at the head of the queue, or a GAP waits to be formed. -/
def recordWaits (s : State) : Bool := s.hist.gapWaits || !s.hist.queue.isEmpty

/-- The program the writer would start now: a GAP before the head of the queue (R147, R156). -/
def nextProgram (s : State) : Option Program :=
  if !s.powered || s.ctl.mode == .start || s.hist.program.isSome || !s.hist.hasFreeSlot then none
  else if s.hist.gapWaits then some (.gap s.now s.hist.droppedSamples s.hist.droppedMarks)
  else s.hist.queue.head?.map .head

/-- The record that the program in flight writes, with the sequence its completion would give it (R147, R204). -/
def programRecord (s : State) : Program → Record
  | .gap t samples marks => { sequence := nextNumber s.hist.newest, time := t, body := .gap samples marks }
  | .head q | .displaced q => { sequence := nextNumber s.hist.newest, time := q.time, body := q.body }

/-- A slot programmed at the write position. -/
def fillSlot (s : State) (x : Slot) : State :=
  match s.hist.current with
  | some i => s.modHist fun h => h.modSector i fun t => { t with slots := t.slots ++ [x] }
  | none => s

/-- A LOAD mark's sequence handed to the manifest (R91, R147). -/
def loadWritten (s : State) (r : Record) : State :=
  match r.body with
  | .mark (.load slot ..) => s.modCons slot fun x =>
      if x.loadMarkOutstanding then { x with loadMarkOutstanding := false, startSequence := some r.sequence } else x
  | _ => s

/-- What a completed program leaves in the queue and the counts (R147, R156). A displaced record has left both (R155). -/
def settleProgram (s : State) (p : Program) : State :=
  match p with
  | .gap _ samples marks => s.modHist fun h => { h with
      droppedSamples := h.droppedSamples - samples
      droppedMarks := h.droppedMarks - marks
      gapDue := false }
  | .head q => s.modHist fun h => { h with
      queue := h.queue.drop 1
      queuedSamples := if q.isSample then h.queuedSamples - 1 else h.queuedSamples
      queuedMarks := if q.isSample then h.queuedMarks else h.queuedMarks - 1 }
  | .displaced _ => s

/-- A program completes (R147): the record takes its sequence, and the completion is handed on. -/
def completeProgram (s : State) (p : Program) : State :=
  let r := s.programRecord p
  let s1 := (s.fillSlot (.record r)).modHist fun h => { h with newest := r.sequence, program := none }
  (((s1.settleProgram p).loadWritten r).judgeUpload).answerReads

/-- A program fails (R147): the slot becomes VOID and the void count grows. The GAP is formed again and the head programmed
again; a displaced record is not, having left the queue (R155, log 22). -/
def failProgram (s : State) (p : Program) : State :=
  let left := leavesOf s.takeLeaves.1 (s.programRecord p)
  let s1 := (s.takeLeaves.2.fillSlot (.void left)).modHist fun h => { h with program := none }
  match s1.hist.current with
  | some i => s1.modHist fun h => h.modSector i fun t => { t with voids := t.voids + 1 }
  | none => s1

/-- The next sector, when it is READY. -/
def readyNext (s : State) : Option (Fin 16) :=
  s.hist.next.filter fun i => (s.hist.sectors.read i).state == .ready

/-- The writer begins the sector `i` (R148): S becomes FULL, the claims unit is handed the beginning (R116), and the next
sector is chosen afresh. -/
def beginSector (s : State) (i : Fin 16) : State :=
  let left := s.hist.current
  let s1 := match left with
    | some j => s.modHist fun h => h.modSector j fun t => { t with state := .full }
    | none => s
  let s2 := s1.modHist fun h =>
    { (h.modSector i fun t => { t with state := .writing }).openStretch i 0 with current := some i, next := none }
  (s2.newSector i left).chooseNext

/-! ## Erases (R150) -/

/-- The erase in flight completes: the sector becomes READY. -/
def eraseDone (s : State) : State :=
  match s.hist.eraseQueue with
  | [] => s
  | i :: rest => s.modHist fun h => { h.modSector i fun _ => { state := .ready, slots := [], voids := 0, touched := false } with
      eraseQueue := rest
      secondErase := false }

/-- The erase in flight fails: it is made again, or the sector is retired and the next sector chosen afresh. -/
def eraseFailed (s : State) : State :=
  match s.hist.eraseQueue with
  | [] => s
  | i :: rest =>
    if s.hist.secondErase then
      let s1 := s.modHist fun h => { h with eraseQueue := rest, secondErase := false }
      (s1.retireSector i true).chooseNext
    else s.modHist fun h => { h with secondErase := true }

/-! ## Samples (R152, R153) -/

/-- A compartment's interval state started (R152). -/
def freshInterval (s : State) (c : Fin 4) : Interval :=
  { base := s.lines.counters.read c, highest := none, equivalents := 0, excursionEquivalents := 0 }

/-- The air record of a compartment that is in use in a publication and still in use (R152). -/
def sampledAir (s : State) (p : Publication) (c : Fin 4) : Option AirRecord :=
  if s.inUse c then p.air.read c else none

/-- The interval state of one compartment after a publication (R152). -/
def stepInterval (s : State) (p : Publication) (c : Fin 4) (old : Option Interval) : Option Interval :=
  match s.sampledAir p c with
  | none => old
  | some r =>
    let i := old.getD (s.freshInterval c)
    let eq := equivalents p.parked
    some { i with
      highest := match r.a with | some a => some (max (i.highest.getD a) a) | none => i.highest
      equivalents := i.equivalents + eq
      excursionEquivalents :=
        if (s.mon.read c).excursion = .active then i.excursionEquivalents + eq else i.excursionEquivalents }

/-- The SAMPLE of one compartment (R153). The last published A and its flags are those of the publication taken; what the
monitor, the manifest and the front end hold, SENSOR_LOST among them (R59), is as the store finds it when it takes that
publication. So are the probe statuses, of which R13 speaks as published (log 43). DEGRADED is that of the creation (R153),
also where R150 speaks of every SAMPLE written while it is set (log 55). -/
def sampleOf (s : State) (p : Publication) (c : Fin 4) (r : AirRecord) (i : Interval) : Sample :=
  let m := s.mon.read c
  { comp := c
    a := r.a
    clamped := r.clamped
    suspect := r.suspect
    held := r.held
    parked := p.parked
    degraded := s.hist.degraded
    highest := i.highest
    estimate := m.estimate
    limit := s.limit c
    setpoint := m.setpoint
    doorSeconds := (s.lines.counters.read c - i.base).toNat
    door := m.door
    defrost := m.defrost
    excursion := m.excursion
    unitFault := s.unitFault c
    lost := (s.fe.air.read c).lost
    probes := s.fe.probes.mapIdx fun _ x => x.status
    custody := s.custodyIn c
    equivalents := i.equivalents
    excursionEquivalents := i.excursionEquivalents }

/-- One compartment's SAMPLE created, and its interval state started afresh (R152). -/
def sampleComp (p : Publication) (c : Fin 4) (s : State) : State :=
  match s.sampledAir p c, s.hist.intervals.read c with
  | some r, some i =>
    (s.createSample (s.sampleOf p c r i)).modHist fun h => { h with intervals := h.intervals.write c (some (s.freshInterval c)) }
  | _, _ => s

/-- The interval counter after a publication (R152). -/
def intervalAfter (s : State) (p : Publication) : Nat := s.hist.intervalCount + equivalents p.parked

/-- The store takes the next publication handed to it, where there is one (R152). -/
def storeTake (s : State) : State :=
  match s.pubs.store with
  | [] => s
  | p :: rest =>
    let s1 := ({ s with pubs := { s.pubs with store := rest } } : State).modHist fun h => { h with
      intervalCount := s.intervalAfter p
      intervals := h.intervals.mapIdx (s.stepInterval p) }
    if s.ctl.working.interval ≤ s.intervalAfter p then
      (s1.forComps (sampleComp p)).modHist fun h => { h with intervalCount := 0 }
    else s1

/-- Whether the next publication handed to the store creates samples (R152). -/
def sampleDue (s : State) : Bool :=
  match s.pubs.store with
  | p :: _ => decide (s.ctl.working.interval ≤ s.intervalAfter p)
  | [] => false

/-! ## FACTORY_CLEAR at the store (R164) -/

/-- The sectors that a clear makes ERASING: the usable ones that are neither READY nor ERASING already. -/
def cleared (s : State) : List (Fin 16) :=
  s.hist.sectors.indices fun _ x => x.state == .writing || x.state == .full

/-- The erases after a clear: the one in flight goes on, the others follow in ring order from H0 (R164, log 23). -/
def clearQueue (s : State) : List (Fin 16) :=
  s.hist.eraseQueue.take 1 ++ (s.hist.sectors.indices fun i x =>
    x.state != .ready && x.state != .retired && s.hist.eraseQueue.head? != some i)

/-- The history store is emptied (R164). A program in flight ends with its sector (log 23). The CLEARED mark is requested, and
joins the queue when its request is taken (R154): a SAMPLE created before that stands ahead of it (log 63). The unsent
records, here and in the mark, are counted as the unsent count of R159 (log 70). A sector marked for retirement, which R147 has
retired in place of its next erase, is made ERASING and counted with the others, as R164 says of every usable sector that is
not READY (log 74). -/
def clearHistory (s : State) : State :=
  let unsent := s.hist.unsent
  let s1 := s.modHist fun h => { h with
    lostUnsent := min (h.lostUnsent + unsent) maxTime
    acked := h.newest
    sectors := h.sectors.mapIdx fun _ x => if x.state = .writing ∨ x.state = .full then { x with state := .erasing } else x
    eraseQueue := s.clearQueue
    secondErase := if h.eraseQueue.isEmpty then false else h.secondErase
    current := none
    next := none
    program := none }
  ((s1.chooseNext).request (.cleared s.cleared.length unsent)).judgeUpload

end State

/-! ## Commands -/

/-- READ_HISTORY (R157). -/
def cmdReadHistory (h : Header) (fromSequence : BitVec 32) (count : Byte) (s : State) : State :=
  s.take .historyRead h fun s =>
    let n := clampNat 1 7 count.toNat
    let rs := s.recordsFrom fromSequence.toNat n
    if rs.isEmpty && !s.hist.queue.isEmpty && !s.hist.stalled then
      let r : HeldRead := { port := h.port, tag := h.tag, fromSequence := fromSequence.toNat, count := count.toNat }
      ({ s with heldReads := s.heldReads ++ [r] } : State).modPort h.port fun u =>
        { u with inFlight := some { command := .readHistory, tag := h.tag } }
    else s.respond h (clampedIf (n != count.toNat)) (s.historyBytes rs)

/-- ACK_HISTORY (R158). -/
def cmdAckHistory (h : Header) (through : BitVec 32) (s : State) : State :=
  s.take .historyAck h fun s =>
    let n := min through.toNat s.hist.newest
    let s1 := (s.modHist fun t => { t with acked := max t.acked n }).judgeUpload
    s1.respond h (clampedIf (n != through.toNat))
      (u32 s1.hist.acked ++ u32 s1.hist.newest ++ u32 s1.hist.unsent ++ flag s1.hist.uploadWanted)

/-- SET_MARKS (R160). -/
def cmdSetMarks (h : Header) (upper lower : BitVec 32) (s : State) : State :=
  s.take .config h fun s => s.edit h fun s =>
    let u := clampNat 1 8192 upper.toNat
    let l := clampNat 0 (u - 1) lower.toNat
    let s1 := ({ s with ctl := { s.ctl with working := { s.ctl.working with upper := u, lower := l } } } : State).judgeUpload
    s1.respond h (clampedIf (u != upper.toNat || l != lower.toNat))
      (u32 u ++ u32 l ++ u32 s1.hist.unsent ++ flag s1.hist.uploadWanted)

/-- The record interval nearest to a value, midway taken to the larger (R161). -/
def nearestInterval (n : Nat) : Nat :=
  if n ≤ 1 then 1
  else if n = 2 then 2
  else if n ≤ 4 then 3
  else if n ≤ 8 then 6
  else if n ≤ 20 then 12
  else 30

/-- SET_INTERVAL (R161). -/
def cmdSetInterval (h : Header) (rounds : Byte) (s : State) : State :=
  s.take .config h fun s => s.edit h fun s =>
    let n := nearestInterval rounds.toNat
    ({ s with ctl := { s.ctl with working := { s.ctl.working with interval := n } } } : State).respond h
      (clampedIf (n != rounds.toNat)) (u8 n)

/-- READ_HISTORY taken (R157). -/
def execReadHistory (h : Header) (fromSequence : BitVec 32) (count : Byte) (s : State) : Host.Outcome State Fault Refusal :=
  .next (cmdReadHistory h fromSequence count s)

/-- ACK_HISTORY taken (R158). -/
def execAckHistory (h : Header) (through : BitVec 32) (s : State) : Host.Outcome State Fault Refusal :=
  .next (cmdAckHistory h through s)

/-- SET_MARKS taken (R160). -/
def execSetMarks (h : Header) (upper lower : BitVec 32) (s : State) : Host.Outcome State Fault Refusal :=
  .next (cmdSetMarks h upper lower s)

/-- SET_INTERVAL taken (R161). -/
def execSetInterval (h : Header) (rounds : Byte) (s : State) : Host.Outcome State Fault Refusal :=
  .next (cmdSetInterval h rounds s)

/-! ## Events -/

/-- HISTORY_INTERVAL_UPDATE (R152). -/
def execHistoryIntervalUpdate (s : State) : Host.Outcome State Fault Refusal := .next s.storeTake

/-- SAMPLE (R152, R153): the store's publication at which the interval counter reaches n (log 6). -/
def execSample (s : State) : Host.Outcome State Fault Refusal := .next (if s.sampleDue then s.storeTake else s)

/-- MARK_REQUEST (R154). -/
def execMarkRequest (s : State) : Host.Outcome State Fault Refusal := .next s.takeMark

/-- HISTORY_PROGRAM_START (R147, R156). -/
def execHistoryProgramStart (s : State) : Host.Outcome State Fault Refusal :=
  .next (match s.nextProgram with
    | some p => s.modHist fun h => { h with program := some p }
    | none => s)

/-- HISTORY_PROGRAM_COMPLETE (R147). -/
def execHistoryProgramComplete (s : State) : Host.Outcome State Fault Refusal :=
  .next (match s.hist.program with | some p => s.completeProgram p | none => s)

/-- HISTORY_PROGRAM_FAILURE (R147). -/
def execHistoryProgramFailure (s : State) : Host.Outcome State Fault Refusal :=
  .next (match s.hist.program with | some p => s.failProgram p | none => s)

/-- BEGIN_NEW_SECTOR (R148): S has no free slot, a record or a GAP waits, and the next sector is READY. -/
def execBeginNewSector (s : State) : Host.Outcome State Fault Refusal :=
  .next (match s.readyNext with
    | some i =>
      if s.powered && s.ctl.mode != .start && s.recordWaits && !s.hist.hasFreeSlot && s.hist.program.isNone then
        s.beginSector i
      else s
    | none => s)

/-- SECTOR_ERASE_COMPLETE (R150). -/
def execSectorEraseComplete (s : State) : Host.Outcome State Fault Refusal :=
  .next (if s.powered then s.eraseDone else s)

/-- SECTOR_ERASE_FAILURE (R150). -/
def execSectorEraseFailure (s : State) : Host.Outcome State Fault Refusal :=
  .next (if s.powered then s.eraseFailed else s)

end Sys2Proof.Machine
end

