-- ==== Sys2Proof/Machine/Modes.lean ====
section
/-! DEFINITION. The mode and time controller between starts (file 09): service, parking, sleep and waking, recorder time,
RESTART and FACTORY_CLEAR. -/

namespace Sys2Proof.Machine

/-! ## Readiness (R171) -/

/-- The detail codes of NOT_READY, in the order of R171's table. -/
inductive Unready where
  | refcheckFailed | noCompartment | noZone | noPrimary | probeShared | lineUnmapped
  deriving DecidableEq, Repr

/-- The code of a detail (R201). -/
def Unready.code : Unready → Nat
  | .refcheckFailed => 0
  | .noCompartment => 1
  | .noZone => 2
  | .noPrimary => 3
  | .probeShared => 4
  | .lineUnmapped => 5

namespace State

/-- The first of tests 3 and 4 that a compartment fails. -/
def compUnready (s : State) (c : Fin 4) : Option (Unready × Nat) :=
  let g := s.config c
  if !g.inUse then none
  else if g.zone.isNone then some (.noZone, c.val)
  else if g.primary.isNone then some (.noPrimary, c.val)
  else none

/-- Test 6 for one line. -/
def lineUnready (s : State) (l : Fin 8) : Option (Unready × Nat) :=
  let e := s.entry l
  if (e.kind = .door ∨ e.kind = .defrost) ∧ (e.comp.map s.inUse) = some false then some (.lineUnmapped, l.val) else none

/-- Test 5 for one probe. -/
def probeUnready (s : State) (p : Fin 8) : Option (Unready × Nat) :=
  if 2 ≤ (assignment s.ctl.working.comps p).length then some (.probeShared, p.val) else none

/-- The first readiness test that fails, with its index; an absent index is 255 (R171, R201). -/
def unready (s : State) : Option (Unready × Nat) :=
  if !s.fe.ref.pass then some (.refcheckFailed, 255)
  else if !(List.finRange 4).any s.inUse then some (.noCompartment, 255)
  else ((List.finRange 4).findSome? s.compUnready).or
    (((List.finRange 8).findSome? s.probeUnready).or ((List.finRange 8).findSome? s.lineUnready))

/-! ## Publications at the controller (R175, R177) -/

/-- Whether the door phase of every compartment in use is CLOSED (R175). -/
def doorsClosed (s : State) : Bool := (List.finRange 4).all fun c => !s.inUse c || (s.mon.read c).door == .closed

/-- The park test of a service round that started in SERVICE and is taken there (R175). -/
def parkTest (s : State) : State :=
  let s1 := { s with ctl := { s.ctl with serviceRound := true } }
  if s1.parkCondition && s1.doorsClosed then s1.enterMode .parked .park else s1

/-- Whether a publication counts toward sleep: nothing in custody and no context (R177). -/
def quietNow (s : State) : Bool := s.custodySlots.isEmpty && s.hand.contexts.isEmpty

/-- A publication taken in PARKED (R177). At the thirtieth quiet one the part sleeps. Nothing is in custody then, so the
publications handed to the engine and not yet taken step nothing: the engine takes them before the mode changes, and none is
left to step a consignment loaded in DORMANT or WAKING (R64, log 37). -/
def quietTest (s : State) : State :=
  let n := if s.quietNow then min (s.ctl.quiet + 1) 30 else 0
  let s1 := { s with ctl := { s.ctl with quiet := n } }
  if 30 ≤ n then ({ s1 with pubs := { s1.pubs with engine := [] } } : State).enterMode .dormant .quiet else s1

/-- What a publication does at the controller, by the mode it is taken in. -/
def controlJudge (s : State) (p : Publication) : State :=
  if s.ctl.mode = .service then (if !p.parked && p.startedIn == .service then s.parkTest else s)
  else if s.ctl.mode = .parked then s.quietTest
  else s

/-- The controller takes the next publication handed to it, where there is one. -/
def controlTake (s : State) : State :=
  match s.pubs.control with
  | [] => s
  | p :: rest => ({ s with pubs := { s.pubs with control := rest } } : State).controlJudge p

/-- Whether the next publication handed to the controller is of a parked round. -/
def parkedWaits (s : State) : Bool := match s.pubs.control with | p :: _ => p.parked | [] => false

/-! ## Waking (R178) -/

/-- The warm-up end is reached and the waking check is made. -/
def warmUp (s : State) : State :=
  match s.ctl.warmUpEnd with
  | some w =>
    if s.powered && s.ctl.mode == .waking && decide (w ≤ s.now) then { s with ctl := { s.ctl with wakingCheck := true } }
    else s
  | none => s

/-- The waking check completes, and with it waking. -/
def completeWaking (s : State) (a b : BitVec 16) : State :=
  if s.powered && s.ctl.mode == .waking && s.ctl.wakingCheck then
    let s1 := (s.completeCheck a b).startEstimates
    (s1.enterMode (if s1.parkCondition then .parked else .service) .wakingDone).beginRound
  else s

/-! ## Recorder time (R179) -/

/-- The door-second counters after an advance (R26). -/
def countDoors (s : State) : Table (BitVec 32) 4 :=
  s.lines.counters.mapIdx fun c n => if s.doorOpen c then n + 1#32 else n

/-- A context that a new second brings to its expiry is marked for its event (R130). -/
def markExpiry (now : Nat) (c : Context) : Context :=
  match c.state with
  | .waiting e _ => if e ≤ now then { c with state := .waiting e true } else c
  | .deciding .. => c

/-- Recorder time runs: it advances while the backup domain is kept, and holds at its maximum (R179). The advance is handed
to the line unit, which takes it here, and to the monitor and the hand-over unit, which take it as events of their own. The
monitor's test is due from START's line sampling onward, like the door counters (R26, R47); a context that START is to
cancel does not expire in START (R144, log 5). -/
def advance (s : State) : State :=
  if (!s.ctl.mainPower && s.ctl.supplyFell) || decide (maxTime ≤ s.now) then s
  else
    let s1 := { s with ctl := { s.ctl with time := s.now + 1 } }
    let s2 := if s.linesWatched then
        { s1 with
          lines := { s1.lines with counters := s.countDoors }
          mon := s1.mon.mapIdx fun c m => { m with overstayDue := m.overstayDue || s1.pastOpenLimit c } }
      else s1
    if s.powered && s.ctl.mode != .start then
      { s2 with hand := { s2.hand with contexts := s2.hand.contexts.map (markExpiry s2.now) } }
    else s2

end State

/-! ## Commands -/

/-- ENTER_SERVICE (R171). -/
def cmdEnterService (h : Header) (s : State) : State :=
  s.take .mode h fun s =>
    if s.ctl.mode ≠ .setup then s.respond h .wrongMode []
    else if s.ctl.commit.isSome then s.respond h .busy []
    else if s.differ then s.respond h .uncommitted []
    else match s.unready with
      | some (d, i) => s.respond h .notReady (u8 d.code ++ u8 i)
      | none => ((s.enterMode .service .enterService).startEstimates).respond h .ok (u8 Mode.service.code)

/-- LEAVE_SERVICE (R172). -/
def cmdLeaveService (h : Header) (s : State) : State :=
  s.take .mode h fun s =>
    if s.ctl.mode ≠ .service ∧ s.ctl.mode ≠ .parked then s.respond h .wrongMode []
    else if !s.quietNow then s.respond h .badState (u8 s.custodySlots.length ++ u8 s.hand.contexts.length)
    else (s.enterMode .setup .leaveService).respond h .ok (u8 Mode.setup.code)

/-- The data of the answers to PARK and WAKE (R174). -/
def State.parkBytes (s : State) : List Byte :=
  u8 s.ctl.mode.code ++ flag s.ctl.parkFlag ++ flag s.parkLine ++ flag s.parkCondition

/-- PARK (R174). -/
def cmdPark (h : Header) (s : State) : State :=
  s.take .mode h fun s =>
    let s1 := { s with ctl := { s.ctl with parkFlag := true } }
    s1.respond h .ok s1.parkBytes

/-- WAKE (R174). -/
def cmdWake (h : Header) (s : State) : State :=
  s.take .mode h fun s =>
    let s1 := ({ s with ctl := { s.ctl with parkFlag := false } } : State).rouse .wake
    s1.respond h .ok s1.parkBytes

/-- SET_TIME (R180). -/
def cmdSetTime (h : Header) (wall : BitVec 32) (s : State) : State :=
  s.take .mode h fun s =>
    let exact : Int := (wall.toNat : Int) - (s.now : Int)
    let o := clampInt (-2147483648) 2147483647 exact
    let s1 := { s with ctl := { s.ctl with wallOffset := some o } }
    (s1.request (.time s.ctl.wallOffset o)).respond h (clampedIf (o != exact)) (u32 s.now ++ i32 o)

/-- A port after RESTART: framer, link counts, pending and enable sets at rest, no command in flight (R181, R198). On the
T-port the queued responses are discarded (R189). -/
def restartPort (p : Port) (u : PortUnit) : PortUnit :=
  PortUnit.sync { u with
    framer := (State.resetPort 0#12).framer
    inFlight := none
    responses := if p = .t then [] else u.responses
    timeouts := 0
    breaks := 0
    strays := 0
    errors := 0
    pending := 0#12
    enable := defaultEnables.at p }

/-- The effects of RESTART but for its response (R181). The start second of the last published round, which READ_PROBES
reports, is kept: whether RESTART counts as a reset there (R17) the spec does not say (log 38). -/
def State.restart (s : State) : State :=
  let s1 : State := { s with
    ports := { t := restartPort .t s.ports.t, f := restartPort .f s.ports.f, h := restartPort .h s.ports.h }
    heldReads := s.heldReads.filter fun r => r.port != .t
    pubs := State.noPublications
    lines := { s.lines with flags := { t := 0#8, f := 0#8, h := 0#8 } }
    fe := { s.fe with
      round := none
      checkRequest := true
      nextStart := if s.ctl.mode.hasRounds then some (s.now + 1) else none }
    ctl := { s.ctl with commit := s.ctl.commit.map fun c => { c with tag := none } } }
  s1.request (.reset .restart s.now s.ctl.heldMode)

/-- RESTART (R181). On the T-port it is taken even while a command is in flight there (R188). -/
def cmdRestart (h : Header) (s : State) : State :=
  let idle := if h.port = .t then s.modPort .t (fun u => { u with inFlight := none }) else s
  if s.powered && s.ctl.mode != .start then idle.take .mode h fun s => s.restart.respond h .ok []
  else s.take .mode h id

/-- The working settings at FACTORY_CLEAR, but for the line table (R184). -/
def State.defaulted (s : State) : State :=
  { s with ctl := { s.ctl with working :=
    { defaultsWith s.ctl.working.trims with lines := s.ctl.working.lines } } }

/-- The effects of FACTORY_CLEAR (R184): the lines by R23 from L0 to L7, then the compartments by R9, R42 and R52, then the
history by R164. The spec states no order among these edits (R39, R62, log 35). The events that the edits raise set their kinds
pending (R34, R50, R52), although R198 has FACTORY_CLEAR leave the pending sets as they stand (log 65). -/
def State.factoryClear (s : State) : State :=
  let s1 := (List.finRange 8).foldl (fun t l => t.editLine l (defaultLines.read l)) s
  let s2 := (s1.defaulted).applyComps s1.ctl.working.comps
  s2.clearHistory

/-- FACTORY_CLEAR (R184). A refusal names what holds: claims, consignments, receipts (log 24). -/
def cmdFactoryClear (h : Header) (s : State) : State :=
  s.take .config h fun s =>
    let claims := s.claimCount != 0
    let occupied := s.occupied != 0
    let unacked := decide (s.hand.acked < s.hand.newest)
    if s.ctl.mode ≠ .setup then s.respond h .wrongMode []
    else if s.ctl.commit.isSome then s.respond h .busy []
    else if claims || occupied || unacked then s.respond h .badState (flag claims ++ flag occupied ++ flag unacked)
    else s.factoryClear.respond h .ok []

/-- ENTER_SERVICE taken (R171). -/
def execEnterService (h : Header) (s : State) : Host.Outcome State Fault Refusal := .next (cmdEnterService h s)

/-- LEAVE_SERVICE taken (R172). -/
def execLeaveService (h : Header) (s : State) : Host.Outcome State Fault Refusal := .next (cmdLeaveService h s)

/-- PARK taken (R174). -/
def execPark (h : Header) (s : State) : Host.Outcome State Fault Refusal := .next (cmdPark h s)

/-- WAKE taken (R174). -/
def execWake (h : Header) (s : State) : Host.Outcome State Fault Refusal := .next (cmdWake h s)

/-- SET_TIME taken (R180). -/
def execSetTime (h : Header) (wall : BitVec 32) (s : State) : Host.Outcome State Fault Refusal :=
  .next (cmdSetTime h wall s)

/-- RESTART taken (R181). -/
def execRestart (h : Header) (s : State) : Host.Outcome State Fault Refusal := .next (cmdRestart h s)

/-- FACTORY_CLEAR taken (R184). -/
def execFactoryClear (h : Header) (s : State) : Host.Outcome State Fault Refusal := .next (cmdFactoryClear h s)

/-! ## Events -/

/-- SECOND_ADVANCE (R179). -/
def execSecondAdvance (s : State) : Host.Outcome State Fault Refusal := .next s.advance

/-- WARM_UP_END (R178). -/
def execWarmUpEnd (s : State) : Host.Outcome State Fault Refusal := .next s.warmUp

/-- WAKING_COMPLETE (R178). -/
def execWakingComplete (a b : BitVec 16) (s : State) : Host.Outcome State Fault Refusal := .next (s.completeWaking a b)

/-- CONVERTER_FAULT (R8): the check, of a round or of waking, that enters CONVERTER_FAULT (log 6). -/
def execConverterFault (conv : Conversion) (s : State) : Host.Outcome State Fault Refusal :=
  let t := if s.ctl.wakingCheck then s.completeWaking conv.refA conv.refB else s.publish conv
  .next (if !s.fe.ref.converterFault && t.fe.ref.converterFault then t else s)

/-- PARK_TEST (R175). -/
def execParkTest (s : State) : Host.Outcome State Fault Refusal :=
  .next (if s.ctl.mode = .parked then s else s.controlTake)

/-- QUIET_COUNT (R177). -/
def execQuietCount (s : State) : Host.Outcome State Fault Refusal :=
  .next (if s.ctl.mode = .parked || s.parkedWaits then s.controlTake else s)

/-- ENTER_DORMANT (R177): the publication at which the quiet count reaches 30 (log 6). -/
def execEnterDormant (s : State) : Host.Outcome State Fault Refusal :=
  let t := s.controlTake
  .next (if s.ctl.mode = .parked ∧ t.ctl.mode = .dormant then t else s)

end Sys2Proof.Machine
end

