-- ==== Sys2Proof/Machine/Start.lean ====
section
/-! DEFINITION. Loss of power, the reset input, and START (sections 9.2 and 9.3, with the steps every block makes there). -/

namespace Sys2Proof.Machine

/-! ## What a loss leaves (R170) -/

/-- Whether a receipt slot reads as all 0xFF. -/
def ReceiptSlot.readsErased : ReceiptSlot → Bool
  | .empty => true
  | .void .erased => true
  | _ => false

/-- A receipt block after its erase was cut short: it is not blank (R144). -/
def blockLeft (k : Nat) (t : Table ReceiptSlot 16) : Table ReceiptSlot 16 :=
  let u := t.mapIdx fun i x => receiptSlotLeft k i.val x
  if u.toList.all ReceiptSlot.readsErased then u.write 0 (.void .garbage) else u

namespace State

/-- The operation in flight in the settings bank ends unfinished, and those requested are lost (R134, R144, R183). -/
def cutBank (s : State) : State :=
  let s1 := match s.bank.busy, s.deciding.bind Context.decision with
    | some .receiptWrite, some (_, d) =>
      s.takeLeaves.2.modHand fun h => h.putSlot h.block h.slot (.void (leavesOf s.takeLeaves.1 d.receipt))
    | some (.blockErase b), _ =>
      ({ s with freeCount := s.freeCount + 1 } : State).modHand fun h =>
        { h with blocks := h.blocks.modify b (blockLeft s.freeCount), erasing := none, secondErase := false }
    | _, _ => s
  s1.modBank fun b => { b with queue := [], busy := none, secondRewrite := false }

/-- The program and the erase in flight in the history bank end unfinished; the pending queue is lost, its counts kept
(R162, R170). -/
def cutHistory (s : State) : State :=
  let s1 := match s.hist.program with
    | some p => s.takeLeaves.2.fillSlot (.void (leavesOf s.takeLeaves.1 (s.programRecord p)))
    | none => s
  let s2 := match s1.hist.eraseQueue.head? with
    | some i => s1.modHist fun h => h.modSector i fun x => { x with touched := true }
    | none => s1
  s2.modHist fun h => { h with queue := [], program := none, secondErase := false }

/-- Every slot whose load mark is outstanding has it cleared (R91, R103). -/
def clearLoadMarks (s : State) : State :=
  { s with cons := s.cons.mapIdx fun _ x => x.map fun y => { y with loadMarkOutstanding := false } }

/-- Every block loses what main power alone kept, at a loss or an assertion of the reset input in second `second` (R33,
R170). -/
def loseAll (s : State) (second : Nat) : State :=
  let s1 := ((s.cutBank.cutHistory).clearLoadMarks).interruptEpisodes second
  { s1 with
    fe := { s1.fe with round := none, nextStart := none }
    pubs := noPublications
    marks := []
    heldReads := []
    mon := s1.mon.mapIdx fun _ m => { m with overstayDue := false }
    ports := defaultEnables.map resetPort
    ctl := { s1.ctl with mode := .start, startRan := false, wakingCheck := false } }

/-- Main power fails (R170). -/
def powerFails (s : State) : State :=
  if !s.ctl.mainPower then s
  else
    let t := s.loseAll s.now
    { t with ctl := { t.ctl with mainPower := false, lossSecond := some s.now, startCause := .power } }

/-- The reset input is asserted (R166, R170). During a START whose cause is POWER the cause and the loss second stand. -/
def resetAsserted (s : State) : State :=
  if s.ctl.resetInput then s
  else if !s.ctl.mainPower then { s with ctl := { s.ctl with resetInput := true } }
  else
    let keep : Bool := s.ctl.mode == .start && s.ctl.startCause == .power
    let t := s.loseAll s.now
    { t with ctl := { t.ctl with
      resetInput := true
      lossSecond := if keep then s.ctl.lossSecond else some s.now
      startCause := if keep then .power else .reset } }

/-! ## START steps 1 and 2: validity and the settings load -/

/-- Whether the validity check finds the backup domain valid (R168). -/
def domainHolds (s : State) (found : StartInputs) : Bool := s.ctl.domainValid && !s.ctl.supplyFell && found.integrity

/-- The clearing before START's first step (R166, R198), and step 1. -/
def startBegins (s : State) (valid : Bool) : State :=
  { s with
    ports := defaultEnables.map resetPort
    ctl := { s.ctl with
      startRan := true
      startSecond := s.now
      commit := none
      warmUpEnd := none
      wakingCheck := false
      domainValid := valid
      startCause := if valid then s.ctl.startCause else .backupLost } }

/-- The counters and sets when neither copy of the counter block verifies (R185). -/
def emptyCounters : CounterBlock := { counter := 0, sectors := 0#16, blocks := 0#4 }

/-- The counter block values START goes on with: the merge with table memory, or the flash copy alone after backup loss
(R185). -/
def startCounters (s : State) (valid : Bool) : CounterBlock :=
  let f := (s.bank.counters.newest.map fun i => i.contents).getD emptyCounters
  let t := s.counterValues
  if valid then { counter := max t.counter f.counter, sectors := t.sectors ||| f.sectors, blocks := t.blocks ||| f.blocks }
  else f

/-- The counter block read at START; a rewrite is requested when the block lacked any value (R185). -/
def loadCounters (s : State) (valid : Bool) : State :=
  let v := s.startCounters valid
  let lacks : Bool := valid && v != (s.bank.counters.newest.map fun i => i.contents).getD emptyCounters
  let s1 : State := { s with
    claims := { s.claims with counter := v.counter }
    hand := { s.hand with retired := v.blocks } }
  if lacks then s1.requestRewrite else s1

/-- A compartment's monitor state after the load: its reports are off, and one put into use or out of it starts its estimate
afresh (R42, R61). -/
def loadComp (changed : Bool) (m : Compartment) : Compartment :=
  let m := { m with defrostReport := false, unitReport := false }
  if changed then { m with estimate := none, startDue := true } else m

/-- The settings load: the working settings take the committed copy, and the front end and the monitor the values R18 and R61
state (R166 step 2, R182). CONVERTER_FAULT is cleared here without a mark or event of its own: whether that leaves it in the
sense of R8, R18 does not say (log 47). -/
def loadSettings (s : State) : State :=
  let old := s.ctl.working.comps
  let new := s.committed
  let changed : Fin 4 → Bool := fun c => (old.read c).inUse != (new.comps.read c).inUse
  let s1 : State := { s with
    ctl := { s.ctl with working := new }
    fe := { s.fe with
      probes := Table.ofIdx fun p => freshProbe (assigned new.comps p)
      nextStart := none
      checkDue := 0
      checkRequest := false
      ref := { s.fe.ref with consecutive := 0, converterFault := false }
      round := none
      air := s.fe.air.mapIdx fun c x => if changed c then resetFrontEnd.air.read c else x
      lastStart := none }
    mon := s.mon.mapIdx fun c m => loadComp (changed c) m }
  s1.raiseIf s.bank.settings.newest.isNone .store

/-! ## START step 3: the history scan (R162) -/

end State

/-- The number of the stretch that a slot was filled in, counted from 1 in the order in which the stretches were begun: the last
one that began in the slot's sector at the slot or before it. -/
def stretchOf (xs : List (Fin 16 × Nat)) (p : Fin 16 × Nat) : Nat :=
  ((xs.zipIdx.filter fun y => y.1.1 == p.1 && decide (y.1.2 ≤ p.2)).getLast?.map fun y => y.2 + 1).getD 0

/-- Whether slot `q` of the history bank was written later than slot `p`: in a stretch begun later, or further on in the same one.
The writer goes round the bank in ring order, so the later written follows the other on its way (R162, log 27). -/
def laterFilled (xs : List (Fin 16 × Nat)) (p q : Fin 16 × Nat) : Bool :=
  decide (stretchOf xs p < stretchOf xs q) || (stretchOf xs p == stretchOf xs q && decide (p.2 < q.2))

/-- A sector found ERASING whose contents the scan of a lost backup reads: each slot as the erase left it (log 13). -/
def sectorLeft (k : Nat) (x : Sector) : Sector :=
  if x.touched then
    { x with
      touched := false
      slots := x.slots.zipIdx.map fun y => match y.1 with
        | .record r => .void (eraseLeft k y.2 r)
        | .void (.whole r) => .void (eraseLeft k y.2 r)
        | .void .garbage => .void (garbageLeft k y.2)
        | .void .erased => .void .erased }
  else x

/-- The record that a slot's bytes spell, where its check verifies. -/
def Slot.spells : Slot → Option Record
  | .record r => some r
  | .void (.whole r) => some r
  | .void .garbage => none
  | .void .erased => none

/-- Whether a slot reads as blank (R204). -/
def Slot.isBlank : Slot → Bool
  | .void .erased => true
  | _ => false

/-- One slot classed: a record at or below the bound, blank, or VOID (R162 step 3). -/
def Slot.classed (bound : Option Nat) (x : Slot) : Slot :=
  match x.spells with
  | some r => if (bound.map fun b => decide (r.sequence ≤ b)).getD true then .record r else .void (.whole r)
  | none => x

/-- A record that another slot, later written, carries the sequence of: it is classed VOID. `rs` lists every record as its place
and its sequence, `later` is the order of writing, and `p` is the slot's own place (R162 step 3). -/
def Slot.outdated (later : Fin 16 × Nat → Fin 16 × Nat → Bool) (rs : List ((Fin 16 × Nat) × Nat)) (p : Fin 16 × Nat) :
    Slot → Slot
  | .record r => if rs.any fun y => y.2 == r.sequence && later p y.1 then .void (.whole r) else .record r
  | x => x

/-- The slots without the blank ones at their end: the write position follows the last slot that is not blank. -/
def trimBlank (xs : List Slot) : List Slot := (xs.reverse.dropWhile Slot.isBlank).reverse

/-- The number of VOID slots in a list: neither records nor blank. -/
def voidCount (xs : List Slot) : Nat :=
  (xs.filter fun x => match x with | .void .erased => false | .void _ => true | .record _ => false).length

/-- The scan looks at a sector's slots (R162): not at a retired one, and not at one that stays ERASING. -/
def scanned (x : Sector) : Bool := x.state != .retired && x.state != .erasing

/-- The records in scanned sectors, each as its place and its sequence. -/
def placesOf (t : Table Sector 16) : List ((Fin 16 × Nat) × Nat) :=
  (List.finRange 16).flatMap fun i =>
    if scanned (t.read i) then
      (t.read i).slots.zipIdx.filterMap fun y => match y.1 with
        | .record r => some ((i, y.2), r.sequence)
        | .void _ => none
    else []

/-- The sectors after the first pass: retired ones, ERASING ones, and the rest with each slot classed against the bound. A
retired sector no longer named by any list is judged by its slots. -/
def classSectors (t : Table Sector 16) (retired : BitVec 16) (bound : Option Nat) (keepErasing : Bool) (k : Nat) :
    Table Sector 16 :=
  t.mapIdx fun i x =>
    if retired.getLsbD i.val then { x with state := .retired }
    else if keepErasing && x.state == .erasing then x
    else
      let y := sectorLeft (k + i.val) x
      { y with state := .full, touched := false, slots := y.slots.map (Slot.classed bound) }

/-- The sectors after the duplicates of a sequence have been judged, by the stretches in which their slots were filled, and the
void counts rebuilt (R162 steps 3 and 4). -/
def judgeSectors (stretches : List (Fin 16 × Nat)) (t : Table Sector 16) : Table Sector 16 :=
  let places := placesOf t
  t.mapIdx fun i x =>
    if scanned x then
      let ys := trimBlank (x.slots.zipIdx.map fun y => y.1.outdated (laterFilled stretches) places (i, y.2))
      { x with slots := ys, voids := voidCount ys, state := if ys.isEmpty then .ready else .full }
    else x

/-- The highest record sequence of a scanned sector. -/
def highestIn (x : Sector) : Option Nat := if scanned x then (x.records.map fun r => r.sequence).max? else none

/-- The sector that the scan leaves WRITING: the one with the highest record sequence, or the first usable one (R162 step 5,
log 23). -/
def scanCurrent (t : Table Sector 16) : Option (Fin 16) :=
  let top := ((t.toList.filterMap highestIn)).max?
  match top with
  | some n => t.findIdx? fun x => highestIn x == some n
  | none => t.findIdx? fun x => x.state != .retired

/-- The sectors with S set WRITING. With no record anywhere its write position is its first slot, also where its erase had
been cut short: its contents then count as blank (R162 step 5, log 23). So do VOID slots of a sector that was not ERASING,
whose rebuilt void count is kept (R162 step 4, log 66). -/
def openCurrent (t : Table Sector 16) : Table Sector 16 :=
  match scanCurrent t with
  | some i => t.modify i fun x =>
      if (highestIn x).isSome then { x with state := .writing }
      else { x with
        state := .writing
        slots := []
        voids := if x.state = .erasing then 0 else x.voids
        touched := false }
  | none => t

/-- The history store with S set WRITING where the scan leaves it, from the sectors `t` that it judged: what the writer fills
from there on is a new stretch (R162 step 5, log 27). -/
def History.resume (h : History) (t : Table Sector 16) : History :=
  let h1 : History := { h with sectors := openCurrent t, current := scanCurrent t }
  match scanCurrent t with
  | some i => h1.openStretch i (h1.sectors.read i).slots.length
  | none => h1

namespace State

/-- The history scan (R162). Upload-wanted is judged at its end: the marks in force are now the committed ones (R159). The pin
set is kept as it stood (R126), also where the sector found WRITING is not in it while a window grows (R114, log 59). -/
def scanHistory (s : State) (valid : Bool) (retired : BitVec 16) : State :=
  let h := s.hist
  let bound := if valid then some h.newest else none
  let t := judgeSectors h.stretches (classSectors h.sectors retired bound valid s.freeCount)
  let u := h.resume t
  let records := t.toList.flatMap fun x => if scanned x then x.records else []
  let seqs := records.map fun r => r.sequence
  let newest := if valid then h.newest else (seqs.max?).getD 0
  let s1 : State := { s with
    freeCount := s.freeCount + 16
    hist := { u with
      next := none
      eraseQueue := if valid then h.eraseQueue.filter fun i => (u.sectors.read i).state == .erasing else []
      secondErase := false
      newest := newest
      acked := if valid then h.acked else (seqs.min?.map fun n => n - 1).getD newest
      lostUnsent := if valid then h.lostUnsent else 0
      queue := []
      queuedSamples := 0
      queuedMarks := 0
      droppedSamples := if valid then min (h.droppedSamples + h.queuedSamples) 65535 else 0
      droppedMarks := if valid then min (h.droppedMarks + h.queuedMarks) 65535 else 0
      stalled := false
      degraded := if valid then h.degraded else decide (u.usable < 8)
      uploadWanted := valid && h.uploadWanted
      intervalCount := 0
      intervals := Table.const 4 none
      program := none
      gapDue := false } }
  s1.judgeUpload

/-- The record time of the newest record found, plus 1, or 0 (R169). Where that record's time is the largest, to which R169
gives no successor, recorder time holds there (log 64). -/
def timeFound (s : State) : Nat :=
  match s.hist.readable.find? fun r => r.sequence == s.hist.newest with
  | some r => min (r.time + 1) maxTime
  | none => 0

end State

/-! ## The receipt scan (R144) -/

/-- The receipt that a slot's bytes spell, where its check verifies. -/
def ReceiptSlot.spells : ReceiptSlot → Option Receipt
  | .receipt r => some r
  | .void (.whole r) => some r
  | _ => none

/-- One receipt slot classed against the bound. -/
def ReceiptSlot.classed (bound : Option Nat) (x : ReceiptSlot) : ReceiptSlot :=
  match x.spells with
  | some r => if (bound.map fun b => decide (r.number ≤ b)).getD true then .receipt r else .void (.whole r)
  | none => if x.readsErased then .empty else x

/-- A receipt that another slot, later written, carries the number of: it is classed VOID. `rs` lists every receipt as its place
and its number, `later` is the order of writing, and `p` is the slot's own place (R144). -/
def ReceiptSlot.outdated (later : Fin 4 × Fin 16 → Fin 4 × Fin 16 → Bool) (rs : List ((Fin 4 × Fin 16) × Nat))
    (p : Fin 4 × Fin 16) : ReceiptSlot → ReceiptSlot
  | .receipt r => if rs.any fun y => y.2 == r.number && later p y.1 then .void (.whole r) else .receipt r
  | x => x

namespace HandOver

/-- The turn at which a place was last programmed, counted from 1. -/
def turnOf (h : HandOver) (p : Fin 4 × Fin 16) : Nat := ((h.written.findIdx? fun y => y == p).map fun n => n + 1).getD 0

/-- Whether the slot at `q` was written later than the one at `p`. Receipts are written round the blocks in ring order, so the
later written follows the other on that way (R139, R144, log 27). -/
def laterWritten (h : HandOver) (p q : Fin 4 × Fin 16) : Bool := decide (h.turnOf p < h.turnOf q)

/-- The receipts of the blocks scanned, each as its place and its number. -/
def places (h : HandOver) : List ((Fin 4 × Fin 16) × Nat) :=
  (List.finRange 4).flatMap fun b => if h.isRetired b then [] else
    (List.finRange 16).filterMap fun i => match (h.blocks.read b).read i with
      | .receipt r => some ((b, i), r.number)
      | _ => none

/-- The unretired blocks with a function applied to each slot and its place. -/
def mapSlots (h : HandOver) (f : Fin 4 × Fin 16 → ReceiptSlot → ReceiptSlot) : HandOver :=
  { h with blocks := h.blocks.mapIdx fun b t =>
      if h.isRetired b then t else t.mapIdx fun i x => f (b, i) x }

/-- The highest-numbered RECEIPT slot with its place. -/
def highest (h : HandOver) : Option (Fin 4 × Fin 16 × Receipt) :=
  let rs := (List.finRange 4).flatMap fun b => if h.isRetired b then [] else h.receiptsOf b
  (rs.map fun r => r.number).max?.bind fun n => ({ h with erasing := none } : HandOver).locate n

/-- The write position moved past the VOID slots that follow (R144). -/
def skipVoid : Nat → HandOver → HandOver
  | 0, h => h
  | n + 1, h => match h.positionSlot with
    | .void _ => skipVoid n h.advance
    | _ => h

/-- The write position found by the scan (R144). -/
def findPosition (h : HandOver) : HandOver :=
  match h.highest with
  | some (b, i, r) => skipVoid 64 ({ h with block := b, slot := i, newest := r.number, chain := r.check } : HandOver).advance
  | none =>
    { h with
      block := ((List.finRange 4).find? fun b => !h.isRetired b).getD 0
      slot := 0
      newest := 0
      chain := Config.serialNumber }

/-- The receipt scan of START (R144, R145). -/
def scan (h : HandOver) (valid : Bool) : HandOver :=
  let bound := if valid then some h.newest else none
  let u := ({ h with erasing := none, secondErase := false } : HandOver).mapSlots fun _ x => x.classed bound
  let v := u.mapSlots fun p x => x.outdated u.laterWritten u.places p
  { v.findPosition with acked := if valid then h.acked else 0 }

end HandOver

/-! ## Backup loss, the check and the sampling -/

namespace State

/-- What the owners clear at backup loss before the scan (R19, R27, R39, R62, R105, R145). -/
def clearTables (s : State) : State :=
  { s with
    cons := Table.const 32 none
    hand := { s.hand with contexts := [] }
    lines := { s.lines with counters := Table.const 4 0#32, log := [], nextEpisode := 1 }
    fe := { s.fe with
      air := resetFrontEnd.air
      ref := resetFrontEnd.ref }
    mon := s.mon.mapIdx fun _ m => { m with setpoint := none, conflict := false, estimate := none, startDue := true } }

/-- The controller's own state at backup loss (R169). -/
def loseControl (s : State) : State :=
  { s with ctl := { s.ctl with
    time := s.timeFound
    startSecond := s.timeFound
    wallOffset := none
    lossSecond := none
    parkFlag := false
    serviceRound := false
    quiet := 0 } }

/-- The monitor's starting values of a compartment from the sampled indications (R61). A kept E_c is stepped on: its start is
not due, also where one was due before the loss; an absent E_c has its start due (R58). The elapsed count where no defrost
line is active, which R61 does not state, is 0 (log 39). -/
def sampledComp (s : State) (c : Fin 4) (m : Compartment) : Compartment :=
  let inUse := s.inUse c
  { m with
    door := if inUse && s.doorOpen c then .allow else .closed
    openStart := if inUse && s.doorOpen c then some s.now else none
    recovery := none
    overstayDue := false
    defrost := if inUse && s.defrostLine c then .allow else .none
    elapsed := 0
    excursion := .clear
    pending := 0
    estimate := if inUse then m.estimate else none
    startDue := !inUse || m.estimate.isNone
    conflict := s.conflictNow c }

/-- One line's fresh episode, when it is door-active at the sampling (R38). -/
def sampleDoor (s : State) (l : Fin 8) : State :=
  match s.doorActiveIn l with
  | some c => s.openEpisode l c s.now
  | none => s

/-- START's line sampling (R38, R61). Lines found door-active open their fresh episodes from L0 to L7, an order that the spec
does not state (log 35). -/
def sampleLines (s : State) : State :=
  let s1 : State := { s with lines := { s.lines with
    line := s.lines.line.mapIdx fun l x => { x with active := sampled (s.entry l) x, candidate := none }
    flags := { t := 0#8, f := 0#8, h := 0#8 } } }
  let s2 : State := { s1 with mon := s1.mon.mapIdx s1.sampledComp }
  (List.finRange 8).foldl sampleDoor s2

/-- START's steps after the validity check (R166 steps 2 to 6). -/
def startSteps (s : State) (valid : Bool) (found : StartInputs) : State :=
  let retired := (s.startCounters valid).sectors
  let s1 := ((s.loadCounters valid).loadSettings).clearLoadMarks
  let s2 := if valid then s1 else s1.clearTables
  let s3 := (s2.scanHistory valid retired).modHand fun h => h.scan valid
  let s4 := if valid then s3 else (s3.rebuildOrphans s3.claims.counter).loseControl
  (s4.completeCheck found.refA found.refB).sampleLines

/-- START runs its steps (R166). -/
def runStart (s : State) (found : StartInputs) : State :=
  let valid := s.domainHolds found
  (s.startBegins valid).startSteps valid found

/-! ## START completes (R198, R163, R144, R166, R167, R104) -/

end State

/-- The BUSY answer to a frame that completed during START, with its tag (R188). -/
def busyAnswer : List Byte → Option Response
  | _ :: tag :: _ => some { status := .busy, tag := tag, data := [] }
  | _ => none

/-- Every frame that waits on a port answered BUSY, in the order the frames completed. -/
def PortUnit.answerBusy (u : PortUnit) : PortUnit :=
  { u with received := [], responses := u.responses ++ u.received.filterMap busyAnswer }

namespace State

/-- Every frame that completed during START and was not yet taken is answered BUSY (R165, R198, log 46). -/
def answerStartFrames (s : State) : State := { s with ports := s.ports.map PortUnit.answerBusy }

/-- The store's part: the next sector, a new sector where S is full, and the start-up GAP with a valid backup (R163). A
STALL mark of the choice is requested ahead of the other marks of START (log 45). -/
def finishHistory (s : State) : State :=
  let s1 := s.chooseNext
  let s2 := match s1.readyNext with
    | some i => if s1.hist.hasFreeSlot then s1 else s1.beginSector i
    | none => s1
  s2.modHist fun h => { h with gapDue := s.ctl.startCause != .backupLost }

/-- Every context cancelled with cause POWER (R144). -/
def cancelContexts (s : State) : State := s.hand.contexts.foldl (fun t c => t.endContext c .power) s

/-- The controller's own marks (R166, R169). -/
def startMarks (s : State) : State :=
  let loss := s.ctl.lossSecond.getD 0
  match s.ctl.startCause with
  | .power => (s.request (.powerLoss loss s.ctl.heldMode)).request (.powerReturn (s.ctl.startSecond - loss))
  | .reset => s.request (.reset .resetInput loss s.ctl.heldMode)
  | .backupLost =>
    let r := s.ctl.lossReport.getD { readable := 0, rebuilt := 0, notRebuilt := 0, lowest := 0 }
    s.request (.backupLost s.ctl.startSecond r.readable s.hand.newest s.claims.counter r.rebuilt r.notRebuilt r.lowest)

/-- OUTAGE_SEEN on every consignment in custody, after a power loss (R104). -/
def markOutage (s : State) : State :=
  if s.ctl.startCause = .power then
    { s with cons := s.cons.mapIdx fun _ x => x.map fun y => { y with outageSeen := y.outageSeen || y.inCustody } }
  else s

/-- The restored mode (R167). -/
def restoredMode (s : State) : Mode :=
  if s.ctl.startCause = .backupLost then .setup
  else match s.ctl.heldMode with
    | .service => .service
    | .parked => .parked
    | .dormant => if s.custodySlots.isEmpty then .dormant else .parked
    | .waking => if s.custodySlots.isEmpty then .dormant else .parked
    | _ => .setup

/-- The restored mode is entered; a park condition found false ends parking or sleep at once (R167). -/
def enterRestored (s : State) : State :=
  let s1 := { s with ctl := { s.ctl with quiet := 0, domainValid := true, supplyFell := false, startRan := false } }
  let s2 := s1.enterMode s1.restoredMode .start
  if s2.parkCondition then s2 else s2.rouse .parkEnded

/-- START completes. The frames that completed during it are answered BUSY first (R165, R198). -/
def finishStart (s : State) : State :=
  let s1 := ((s.answerStartFrames.finishHistory).testBlocks).cancelContexts
  let s2 := ((s1.startMarks).markOutage).enterRestored
  let s3 := s2.raiseIf (s.ctl.wallOffset.isNone) .time
  let s4 := s3.raiseIf (s.ctl.startCause == .backupLost) .backupLost
  (s4.raiseIf (!s.hand.contexts.isEmpty) .handover).beginRound

end State

/-! ## Events -/

/-- MAIN_POWER_FAILURE (R170). -/
def execMainPowerFailure (s : State) : Host.Outcome State Fault Refusal := .next s.powerFails

/-- RESET_INPUT_ASSERTED (R170). -/
def execResetInputAsserted (s : State) : Host.Outcome State Fault Refusal := .next s.resetAsserted

/-- RESET_INPUT_RELEASED: START begins, when main power is there (R166, R170). -/
def execResetInputReleased (found : StartInputs) (s : State) : Host.Outcome State Fault Refusal :=
  .next (if s.ctl.resetInput then
      let t : State := { s with ctl := { s.ctl with resetInput := false } }
      if s.ctl.mainPower then t.runStart found else t
    else s)

/-- MAIN_POWER_RETURN: START begins, when the reset input is released (R166, R170). -/
def execMainPowerReturn (found : StartInputs) (s : State) : Host.Outcome State Fault Refusal :=
  .next (if s.ctl.mainPower then s
    else
      let t : State := { s with ctl := { s.ctl with mainPower := true } }
      if s.ctl.resetInput then t else t.runStart found)

/-- START_COMPLETE (R166, R167). -/
def execStartComplete (s : State) : Host.Outcome State Fault Refusal :=
  .next (if s.powered && s.ctl.mode == .start && s.ctl.startRan then s.finishStart else s)

/-- BACKUP_SUPPLY_FALL (R168): the retention monitor records the fall. -/
def execBackupSupplyFall (s : State) : Host.Outcome State Fault Refusal :=
  .next { s with ctl := { s.ctl with supplyFell := true } }

end Sys2Proof.Machine
end

