-- ==== Sys2Proof/Machine/Ports.lean ====
section
/-! DEFINITION. The port unit (file 10): framers, received frames, rights, events, status, and the responses sent. -/

namespace Sys2Proof.Machine

/-! ## Framers (R186, R187) -/

/-- The framer at rest. -/
def restFramer : Framer := { state := .rest, expected := 0, chars := [] }

/-- The framer discarding. -/
def discardFramer : Framer := { state := .discarding, expected := 0, chars := [] }

/-- The framer receiving a frame of body length `n`. -/
def newFrame (n : Nat) : Framer := { state := .receiving, expected := n, chars := [] }

/-- FRAME_ERROR answered with tag 0, and the ERROR count grown (R186). -/
def PortUnit.frameError (u : PortUnit) : PortUnit :=
  { u with
    errors := bump u.errors
    responses := u.responses ++ [{ status := .frameError, tag := 0#8, data := [] }] }

/-- A start character (R186). -/
def PortUnit.startChar (u : PortUnit) (v : Nat) : PortUnit :=
  let u := if u.framer.state = .receiving then { u with breaks := bump u.breaks } else u
  if 2 ≤ v ∧ v ≤ 250 then { u with framer := newFrame v }
  else { u.frameError with framer := discardFramer }

/-- Whether the characters of a completed frame verify: the last two are the CRC-16 over the length and the body (R186,
R210). -/
def frameVerifies (n : Nat) (chars : List Byte) : Bool :=
  unsignedOf (chars.drop n) == (crc16 (BitVec.ofNat 8 n :: chars.take n)).toNat

/-- A frame completes (R186): it is handed on as a received frame, or answered FRAME_ERROR. A frame whose check fails is so
answered in START too, where R165 and R198 speak of every frame that completes (log 77). -/
def PortUnit.complete (u : PortUnit) (n : Nat) (chars : List Byte) : PortUnit :=
  let u := { u with framer := restFramer }
  if frameVerifies n chars then { u with received := u.received ++ [chars.take n] } else u.frameError

/-- A character whose ninth bit is clear (R186). -/
def PortUnit.bodyChar (u : PortUnit) (b : Byte) : PortUnit :=
  match u.framer.state with
  | .rest => { u with strays := bump u.strays }
  | .discarding => u
  | .receiving =>
    let cs := u.framer.chars ++ [b]
    if u.framer.expected + 2 ≤ cs.length then u.complete u.framer.expected cs
    else { u with framer := { u.framer with chars := cs } }

/-- A character at a framer (R186). -/
def PortUnit.character (u : PortUnit) (ninth : Bool) (b : Byte) : PortUnit :=
  if ninth then u.startChar b.toNat else u.bodyChar b

/-- Four character times of silence at a framer (R187). -/
def PortUnit.silence (u : PortUnit) : PortUnit :=
  if u.framer.state = .receiving then { u with framer := restFramer, timeouts := bump u.timeouts } else u

/-- The transmitter finishes sending the first queued response (R188, R200). -/
def PortUnit.sendFirst (u : PortUnit) : PortUnit :=
  match u.responses with
  | [] => u
  | r :: rest => { u with responses := rest, sent := frameOf r.body }

/-! ## Commands of the port unit -/

/-- SET_RIGHTS (R191). -/
def cmdSetRights (h : Header) (readings handoverBegin receiptRead historyRead : Byte) (s : State) : State :=
  s.take .config h fun s => s.edit h fun s =>
    match yesNo readings, yesNo handoverBegin, yesNo receiptRead, yesNo historyRead with
    | some a, some b, some c, some d =>
      let g : Grants := { readings := a, handoverBegin := b, receiptRead := c, historyRead := d }
      ({ s with ctl := { s.ctl with working := { s.ctl.working with grants := g } } } : State).respond h .ok
        (flag a ++ flag b ++ flag c ++ flag d)
    | _, _, _, _ => s.respond h .badArgument []

/-- A mask of event kinds: bits 12 to 15 name none (R202). -/
def kindsOf (w : BitVec 16) : Option (BitVec 12) := if w.toNat < 4096 then some (w.setWidth 12) else none

/-- A set of event kinds in a response: its two-byte mask (R201). -/
def kindBytes (x : BitVec 12) : List Byte := u16 x.toNat

/-- Kinds added to a port's enable set; enabling DOOR while a door-change flag is set also sets DOOR pending (R34, R193). -/
def PortUnit.enableKinds (u : PortUnit) (k : BitVec 12) (flags : BitVec 8) : PortUnit :=
  let door : Bool := hasKind k .door && !hasKind u.enable .door && flags != 0#8
  PortUnit.sync { u with
    enable := u.enable ||| k
    pending := if door then u.pending ||| EventKind.door.mask else u.pending }

/-- Kinds removed from a port's enable set (R193). -/
def PortUnit.disableKinds (u : PortUnit) (k : BitVec 12) : PortUnit := PortUnit.sync { u with enable := without u.enable k }

/-- Kinds removed from a port's pending set (R194). -/
def PortUnit.ackKinds (u : PortUnit) (k : BitVec 12) : PortUnit := PortUnit.sync { u with pending := without u.pending k }

/-- ENABLE_SET (R193). -/
def cmdEnableSet (h : Header) (kinds : BitVec 16) (s : State) : State :=
  s.take .events h fun s =>
    match kindsOf kinds with
    | some k =>
      let s1 := s.modPort h.port fun u => u.enableKinds k (s.lines.flags.at h.port)
      s1.respond h .ok (kindBytes (s1.ports.at h.port).enable ++ kindBytes (s1.ports.at h.port).pending)
    | none => s.respond h .badArgument []

/-- ENABLE_CLEAR (R193). -/
def cmdEnableClear (h : Header) (kinds : BitVec 16) (s : State) : State :=
  s.take .events h fun s =>
    match kindsOf kinds with
    | some k =>
      let s1 := s.modPort h.port fun u => u.disableKinds k
      s1.respond h .ok (kindBytes (s1.ports.at h.port).enable ++ kindBytes (s1.ports.at h.port).pending)
    | none => s.respond h .badArgument []

/-- ACK_EVENTS (R194). -/
def cmdAckEvents (h : Header) (kinds : BitVec 16) (s : State) : State :=
  s.take .events h fun s =>
    match kindsOf kinds with
    | some k =>
      let s1 := s.modPort h.port fun u => u.ackKinds k
      s1.respond h .ok (kindBytes (s1.ports.at h.port).pending)
    | none => s.respond h .badArgument []

/-- The top reason in a response: the kind's place in the priority order from 0, or 255 for NONE (R196, log 15). -/
def reasonByte (k : Option EventKind) : List Byte := u8 ((k.map EventKind.bit).getD 255)

/-- READ_EVENTS (R196). -/
def cmdReadEvents (h : Header) (s : State) : State :=
  s.take .events h fun s =>
    let u := s.ports.at h.port
    s.respond h .ok (kindBytes u.pending ++ kindBytes u.enable ++ kindBytes (u.pending &&& u.enable) ++
      reasonByte (topReason (u.pending &&& u.enable)))

/-- The data of an answer to READ_STATUS (R197, log 15). -/
def State.statusBytes (s : State) (p : Port) : List Byte :=
  let u := s.ports.at p
  [u16 Config.vendorCode.toNat, u16 Config.partCode.toNat, u8 Config.revision.toNat, word32 Config.serialNumber,
    u8 s.ctl.mode.code, flag s.ctl.parkFlag, flag s.parkCondition, flag s.ctl.commit.isSome, u16 s.fe.ref.codeA.toNat,
    u16 s.fe.ref.codeB.toNat, flag (!s.fe.ref.pass), u8 s.fe.ref.consecutive, flag s.fe.ref.converterFault,
    u8 s.hist.usable, u8 (setSize s.claims.pins), u8 (16 - s.hist.usable), flag s.hist.degraded, flag s.hist.stalled,
    u32 s.hist.lostUnsent, u32 s.hist.newest, u32 s.hist.acked, flag s.hist.uploadWanted, u32 s.hand.newest,
    u32 s.hand.acked, u8 (setSize s.hand.retired), u8 s.occupied, u8 s.custodySlots.length, u8 s.claimCount,
    u8 s.hand.contexts.length, flag s.ctl.wallOffset.isNone, u16 u.timeouts, u16 u.breaks, u16 u.strays, u16 u.errors].flatten

/-- READ_STATUS (R197). -/
def cmdReadStatus (h : Header) (s : State) : State :=
  s.take .readStatus h fun s => s.respond h .ok (s.statusBytes h.port)

/-! ## A received frame (R188) -/

/-- The command a frame carries, taken as the command's own row takes it. An event row is no command. -/
def runCommand (i : Instr) (s : State) : State :=
  match i with
  | .setProbe h p o g => cmdSetProbe h p o g s
  | .readProbes h => cmdReadProbes h s
  | .setLine h l k v d c => cmdSetLine h l k v d c s
  | .readDoors h => cmdReadDoors h s
  | .readDoorLog h f n => cmdReadDoorLog h f n s
  | .setCompartment h c u z p q => cmdSetCompartment h c u z p q s
  | .setZone h z fs => cmdSetZone h z fs s
  | .reportDefrost h c r => cmdReportDefrost h c r s
  | .reportUnit h c r => cmdReportUnit h c r s
  | .reportSetpoint h c v => cmdReportSetpoint h c v s
  | .readAir h => cmdReadAir h s
  | .list h i c p d k r e => cmdList h i c p d k r e s
  | .load h i e => cmdLoad h i e s
  | .move h i c => cmdMove h i c s
  | .unload h i => cmdUnload h i s
  | .drop h i => cmdDrop h i s
  | .readConsignment h w => cmdReadConsignment h w s
  | .settleClaim h n => cmdSettleClaim h n s
  | .withdrawClaim h n => cmdWithdrawClaim h n s
  | .readClaim h w => cmdReadClaim h w s
  | .beginHandover h i => cmdBeginHandover h i s
  | .cancelHandover h i => cmdCancelHandover h i s
  | .getSummary h i => cmdGetSummary h i s
  | .decide h i o r m => cmdDecide h i o r m s
  | .readReceipt h n => cmdReadReceipt h n s
  | .ackReceipt h n => cmdAckReceipt h n s
  | .readHistory h f n => cmdReadHistory h f n s
  | .ackHistory h n => cmdAckHistory h n s
  | .setMarks h u l => cmdSetMarks h u l s
  | .setInterval h n => cmdSetInterval h n s
  | .enterService h => cmdEnterService h s
  | .leaveService h => cmdLeaveService h s
  | .park h => cmdPark h s
  | .wake h => cmdWake h s
  | .setTime h w => cmdSetTime h w s
  | .restart h => cmdRestart h s
  | .commitSetup h => cmdCommitSetup h s
  | .factoryClear h => cmdFactoryClear h s
  | .setRights h a b c d => cmdSetRights h a b c d s
  | .enableSet h k => cmdEnableSet h k s
  | .enableClear h k => cmdEnableClear h k s
  | .ackEvents h k => cmdAckEvents h k s
  | .readEvents h => cmdReadEvents h s
  | .readStatus h => cmdReadStatus h s
  | _ => s

/-- The code of RESTART (R200). -/
def restartCode : Nat := 36

/-- Whether a command code is taken in a mode, where its rule checks the mode before the form (R87, R199). -/
def modeTakes (m : Mode) (code : Nat) : Bool :=
  match code with
  | 1 | 3 | 6 | 7 | 29 | 30 | 31 | 37 | 38 | 39 => m == .setup
  | 32 => m == .service || m == .parked
  | 12 => m.takesList
  | 13 | 14 => m.takesLoad
  | 21 => m == .service || m == .parked || m == .waking
  | _ => true

/-- Whether a command code is answered BUSY while a commit is in flight (R183). -/
def commitHolds (code : Nat) : Bool :=
  match code with
  | 1 | 3 | 6 | 7 | 29 | 30 | 31 | 37 | 38 | 39 => true
  | _ => false

/-- The answer to a frame whose argument bytes do not fit its command: the form check stands after the mode and BUSY checks
of the command's rule (R87, R188, log 28). -/
def State.formFailure (s : State) (h : Header) (code : Nat) : State :=
  if !modeTakes s.ctl.mode code then s.respond h .wrongMode []
  else if commitHolds code && s.ctl.commit.isSome then s.respond h .busy []
  else s.respond h .badArgument []

/-- A received frame, checked in the order of R188. -/
def State.takeFrame (s : State) (h : Header) (code : Nat) (args : List Byte) : State :=
  let exempt : Bool := h.port == .t && code == restartCode
  if s.ctl.mode = .start then s.respond h .busy []
  else if (s.ports.at h.port).inFlight.isSome && !exempt then s.respond h .busy []
  else match commandGroup code with
    | none => s.respond h .badArgument []
    | some g =>
      if !holdsGroup s.ctl.working.grants g h.port then s.respond h .denied []
      else match parseCommand h code args with
        | some i => runCommand i s
        | none => s.formFailure h code

/-- The next received frame of a port is taken, where there is one (R188). -/
def State.receive (s : State) (p : Port) : State :=
  match (s.ports.at p).received with
  | [] => s
  | body :: rest =>
    let s1 := s.modPort p fun u => { u with received := rest }
    match body with
    | code :: tag :: args => if s.powered then s1.takeFrame { port := p, tag := tag } code.toNat args else s1
    | _ => s1

/-- SET_RIGHTS taken (R191). -/
def execSetRights (h : Header) (readings handoverBegin receiptRead historyRead : Byte) (s : State) :
    Host.Outcome State Fault Refusal := .next (cmdSetRights h readings handoverBegin receiptRead historyRead s)

/-- ENABLE_SET taken (R193). -/
def execEnableSet (h : Header) (kinds : BitVec 16) (s : State) : Host.Outcome State Fault Refusal :=
  .next (cmdEnableSet h kinds s)

/-- ENABLE_CLEAR taken (R193). -/
def execEnableClear (h : Header) (kinds : BitVec 16) (s : State) : Host.Outcome State Fault Refusal :=
  .next (cmdEnableClear h kinds s)

/-- ACK_EVENTS taken (R194). -/
def execAckEvents (h : Header) (kinds : BitVec 16) (s : State) : Host.Outcome State Fault Refusal :=
  .next (cmdAckEvents h kinds s)

/-- READ_EVENTS taken (R196). -/
def execReadEvents (h : Header) (s : State) : Host.Outcome State Fault Refusal := .next (cmdReadEvents h s)

/-- READ_STATUS taken (R197). -/
def execReadStatus (h : Header) (s : State) : Host.Outcome State Fault Refusal := .next (cmdReadStatus h s)

/-! ## Events -/

/-- CHARACTER_RECEIVED (R186). A part that is not running takes no character (R170). -/
def execCharacterReceived (p : Port) (ninth : Bool) (value : Byte) (s : State) : Host.Outcome State Fault Refusal :=
  .next (if s.powered then s.modPort p fun u => u.character ninth value else s)

/-- FRAME_RECEIVED (R188). -/
def execFrameReceived (p : Port) (s : State) : Host.Outcome State Fault Refusal := .next (s.receive p)

/-- FRAME_TIMEOUT (R187). -/
def execFrameTimeout (p : Port) (s : State) : Host.Outcome State Fault Refusal :=
  .next (s.modPort p PortUnit.silence)

/-- RESPONSE_SENT (R188). -/
def execResponseSent (p : Port) (s : State) : Host.Outcome State Fault Refusal :=
  .next (s.modPort p PortUnit.sendFirst)

end Sys2Proof.Machine
end

