-- ==== Sys2Proof/Machine/Dispatch.lean ====
section
/-! DEFINITION. The dispatch: one arm for each constructor of `Instr`, each a direct call of its meaning. -/

namespace Sys2Proof.Machine

/-- What a command or an event does to everything but the queue it stood in. -/
def exec (i : Instr) (s : State) : Host.Outcome State Fault Refusal :=
  match i with
  | .setProbe a b c d => Sys2Proof.Machine.execSetProbe a b c d s
  | .readProbes a => Sys2Proof.Machine.execReadProbes a s
  | .setLine a b c d e f => Sys2Proof.Machine.execSetLine a b c d e f s
  | .readDoors a => Sys2Proof.Machine.execReadDoors a s
  | .readDoorLog a b c => Sys2Proof.Machine.execReadDoorLog a b c s
  | .setCompartment a b c d e f => Sys2Proof.Machine.execSetCompartment a b c d e f s
  | .setZone a b c => Sys2Proof.Machine.execSetZone a b c s
  | .reportDefrost a b c => Sys2Proof.Machine.execReportDefrost a b c s
  | .reportUnit a b c => Sys2Proof.Machine.execReportUnit a b c s
  | .reportSetpoint a b c => Sys2Proof.Machine.execReportSetpoint a b c s
  | .readAir a => Sys2Proof.Machine.execReadAir a s
  | .list a b c d e f g h => Sys2Proof.Machine.execList a b c d e f g h s
  | .load a b c => Sys2Proof.Machine.execLoad a b c s
  | .move a b c => Sys2Proof.Machine.execMove a b c s
  | .unload a b => Sys2Proof.Machine.execUnload a b s
  | .drop a b => Sys2Proof.Machine.execDrop a b s
  | .readConsignment a b => Sys2Proof.Machine.execReadConsignment a b s
  | .settleClaim a b => Sys2Proof.Machine.execSettleClaim a b s
  | .withdrawClaim a b => Sys2Proof.Machine.execWithdrawClaim a b s
  | .readClaim a b => Sys2Proof.Machine.execReadClaim a b s
  | .beginHandover a b => Sys2Proof.Machine.execBeginHandover a b s
  | .cancelHandover a b => Sys2Proof.Machine.execCancelHandover a b s
  | .getSummary a b => Sys2Proof.Machine.execGetSummary a b s
  | .decide a b c d e => Sys2Proof.Machine.execDecide a b c d e s
  | .readReceipt a b => Sys2Proof.Machine.execReadReceipt a b s
  | .ackReceipt a b => Sys2Proof.Machine.execAckReceipt a b s
  | .readHistory a b c => Sys2Proof.Machine.execReadHistory a b c s
  | .ackHistory a b => Sys2Proof.Machine.execAckHistory a b s
  | .setMarks a b c => Sys2Proof.Machine.execSetMarks a b c s
  | .setInterval a b => Sys2Proof.Machine.execSetInterval a b s
  | .enterService a => Sys2Proof.Machine.execEnterService a s
  | .leaveService a => Sys2Proof.Machine.execLeaveService a s
  | .park a => Sys2Proof.Machine.execPark a s
  | .wake a => Sys2Proof.Machine.execWake a s
  | .setTime a b => Sys2Proof.Machine.execSetTime a b s
  | .restart a => Sys2Proof.Machine.execRestart a s
  | .commitSetup a => Sys2Proof.Machine.execCommitSetup a s
  | .factoryClear a => Sys2Proof.Machine.execFactoryClear a s
  | .setRights a b c d e => Sys2Proof.Machine.execSetRights a b c d e s
  | .enableSet a b => Sys2Proof.Machine.execEnableSet a b s
  | .enableClear a b => Sys2Proof.Machine.execEnableClear a b s
  | .ackEvents a b => Sys2Proof.Machine.execAckEvents a b s
  | .readEvents a => Sys2Proof.Machine.execReadEvents a s
  | .readStatus a => Sys2Proof.Machine.execReadStatus a s
  | .characterReceived a b c => Sys2Proof.Machine.execCharacterReceived a b c s
  | .frameReceived a => Sys2Proof.Machine.execFrameReceived a s
  | .frameTimeout a => Sys2Proof.Machine.execFrameTimeout a s
  | .responseSent a => Sys2Proof.Machine.execResponseSent a s
  | .roundStart => Sys2Proof.Machine.execRoundStart s
  | .readingsPublished a => Sys2Proof.Machine.execReadingsPublished a s
  | .converterFault a => Sys2Proof.Machine.execConverterFault a s
  | .probeLost a b => Sys2Proof.Machine.execProbeLost a b s
  | .probeRecovered a b => Sys2Proof.Machine.execProbeRecovered a b s
  | .rawLevelChange a b c => Sys2Proof.Machine.execRawLevelChange a b c s
  | .lineEvent a b => Sys2Proof.Machine.execLineEvent a b s
  | .secondAdvance => Sys2Proof.Machine.execSecondAdvance s
  | .doorOverstay a => Sys2Proof.Machine.execDoorOverstay a s
  | .handoverExpiry a => Sys2Proof.Machine.execHandoverExpiry a s
  | .warmUpEnd => Sys2Proof.Machine.execWarmUpEnd s
  | .wakingComplete a b => Sys2Proof.Machine.execWakingComplete a b s
  | .airExcursionEvaluation => Sys2Proof.Machine.execAirExcursionEvaluation s
  | .excursionActive a => Sys2Proof.Machine.execExcursionActive a s
  | .recoveryEnd a => Sys2Proof.Machine.execRecoveryEnd a s
  | .defrostOverrun a => Sys2Proof.Machine.execDefrostOverrun a s
  | .episodePeakUpdate => Sys2Proof.Machine.execEpisodePeakUpdate s
  | .exposureStep => Sys2Proof.Machine.execExposureStep s
  | .claimRequest => Sys2Proof.Machine.execClaimRequest s
  | .lateAllocation => Sys2Proof.Machine.execLateAllocation s
  | .parkTest => Sys2Proof.Machine.execParkTest s
  | .quietCount => Sys2Proof.Machine.execQuietCount s
  | .enterDormant => Sys2Proof.Machine.execEnterDormant s
  | .historyIntervalUpdate => Sys2Proof.Machine.execHistoryIntervalUpdate s
  | .sample => Sys2Proof.Machine.execSample s
  | .markRequest => Sys2Proof.Machine.execMarkRequest s
  | .historyProgramStart => Sys2Proof.Machine.execHistoryProgramStart s
  | .historyProgramComplete => Sys2Proof.Machine.execHistoryProgramComplete s
  | .historyProgramFailure => Sys2Proof.Machine.execHistoryProgramFailure s
  | .beginNewSector => Sys2Proof.Machine.execBeginNewSector s
  | .sectorEraseComplete => Sys2Proof.Machine.execSectorEraseComplete s
  | .sectorEraseFailure => Sys2Proof.Machine.execSectorEraseFailure s
  | .receiptWriteStart => Sys2Proof.Machine.execReceiptWriteStart s
  | .receiptWriteCompletion => Sys2Proof.Machine.execReceiptWriteCompletion s
  | .receiptProgramFailure => Sys2Proof.Machine.execReceiptProgramFailure s
  | .receiptBlockEraseStart => Sys2Proof.Machine.execReceiptBlockEraseStart s
  | .receiptBlockEraseComplete => Sys2Proof.Machine.execReceiptBlockEraseComplete s
  | .receiptBlockEraseFailure => Sys2Proof.Machine.execReceiptBlockEraseFailure s
  | .counterBlockRewriteStart => Sys2Proof.Machine.execCounterBlockRewriteStart s
  | .counterBlockRewriteEnd a => Sys2Proof.Machine.execCounterBlockRewriteEnd a s
  | .commitStart => Sys2Proof.Machine.execCommitStart s
  | .commitEnd a => Sys2Proof.Machine.execCommitEnd a s
  | .mainPowerFailure => Sys2Proof.Machine.execMainPowerFailure s
  | .resetInputAsserted => Sys2Proof.Machine.execResetInputAsserted s
  | .resetInputReleased a => Sys2Proof.Machine.execResetInputReleased a s
  | .mainPowerReturn a => Sys2Proof.Machine.execMainPowerReturn a s
  | .startComplete => Sys2Proof.Machine.execStartComplete s
  | .backupSupplyFall => Sys2Proof.Machine.execBackupSupplyFall s

end Sys2Proof.Machine
end

