-- ==== Sys2Proof/Safety.lean ====
section
/-! DEFINITION. What claims are stated in: the port, group and tag of a serial command, when a command is taken, and the
invariants that every step keeps. -/

namespace Sys2Proof.Machine

/-- The header of a serial command: one of the first 44 rows of the table. An event has none. -/
def header? : Instr → Option Header
  | .setProbe h .. | .readProbes h | .setLine h .. | .readDoors h | .readDoorLog h .. | .setCompartment h ..
  | .setZone h .. | .reportDefrost h .. | .reportUnit h .. | .reportSetpoint h .. | .readAir h | .list h .. | .load h ..
  | .move h .. | .unload h _ | .drop h _ | .readConsignment h _ | .settleClaim h _ | .withdrawClaim h _ | .readClaim h _
  | .beginHandover h _ | .cancelHandover h _ | .getSummary h _ | .decide h .. | .readReceipt h _ | .ackReceipt h _
  | .readHistory h .. | .ackHistory h _ | .setMarks h .. | .setInterval h _ | .enterService h | .leaveService h | .park h
  | .wake h | .setTime h _ | .restart h | .commitSetup h | .factoryClear h | .setRights h .. | .enableSet h _
  | .enableClear h _ | .ackEvents h _ | .readEvents h | .readStatus h => some h
  | _ => none

/-- The rights group of a serial command (R190, R199). -/
def group? : Instr → Option Group
  | .setProbe .. | .setLine .. | .setCompartment .. | .setZone .. | .setMarks .. | .setInterval .. | .commitSetup ..
  | .factoryClear .. | .setRights .. => some .config
  | .readProbes .. | .readDoors .. | .readDoorLog .. | .readAir .. | .readConsignment .. => some .readings
  | .reportDefrost .. | .reportUnit .. | .reportSetpoint .. => some .unitReport
  | .list .. | .load .. | .move .. | .unload .. | .drop .. => some .manifest
  | .settleClaim .. | .withdrawClaim .. | .readClaim .. => some .claims
  | .beginHandover .. | .cancelHandover .. => some .handoverBegin
  | .getSummary .. => some .summary
  | .decide .. => some .handoverDecide
  | .readReceipt .. => some .receiptRead
  | .ackReceipt .. => some .receiptAck
  | .readHistory .. => some .historyRead
  | .ackHistory .. => some .historyAck
  | .enterService .. | .leaveService .. | .park .. | .wake .. | .setTime .. | .restart .. => some .mode
  | .enableSet .. | .enableClear .. | .ackEvents .. | .readEvents .. => some .events
  | .readStatus .. => some .readStatus
  | _ => none

/-- Whether an instruction is RESTART on the T-port, which is taken even while a command is in flight there (R188). -/
def isTerminalRestart : Instr → Bool
  | .restart h => h.port == .t
  | _ => false

/-- A command of group `g` with header `h` passes the port unit's checks: the part is running, not in START, no command is in
flight on the port, and the port holds the group (R188, R190). -/
structure Taken (g : Group) (h : Header) (s : State) : Prop where
  powered : s.powered = true
  mode : s.ctl.mode ≠ .start
  idle : (s.ports.at h.port).inFlight = none
  rights : holdsGroup s.ctl.working.grants g h.port = true

/-- A settings edit is taken: the command passes the port's checks in SETUP with no commit in flight (R182, R183). -/
structure Editable (h : Header) (s : State) : Prop extends Taken .config h s where
  setup : s.ctl.mode = .setup
  free : s.ctl.commit = none

/-- The consignment slot that a LOAD mark names (R206). -/
def Body.loadSlot? : Body → Option (Fin 32)
  | .mark (.load slot ..) => some slot
  | _ => none

/-- From `s` to `t` one response has joined the queue of the port that the command with header `h` came on (R188). -/
def State.answered (s t : State) (h : Header) (st : Status) (data : List Byte) : Prop :=
  (t.ports.at h.port).responses = (s.ports.at h.port).responses ++ [{ status := st, tag := h.tag, data := data }]

/-- The records that a READ_HISTORY answers with (R157): the first readable ones from a sequence upward, ascending, at most
`n` of them. -/
structure History.FirstRecords (h : History) (fromSequence n : Nat) (rs : List Record) : Prop where
  readable : ∀ r ∈ rs, r ∈ h.readable ∧ fromSequence ≤ r.sequence
  count : rs.length ≤ n
  ascending : rs.Pairwise fun a b => a.sequence ≤ b.sequence
  first : ∀ r ∈ h.readable, fromSequence ≤ r.sequence → r ∉ rs → rs.length = n ∧ ∀ a ∈ rs, a.sequence ≤ r.sequence

/-- From `s` to `t` every held READ_HISTORY has been answered on its port, in the order in which they were held, with what
stands in `t`, and is no longer in flight (R157, R189). -/
structure State.ReadsAnswered (s t : State) : Prop where
  none : t.heldReads = []
  answers : ∃ records : HeldRead → List Record,
    (∀ r ∈ s.heldReads, t.hist.FirstRecords r.fromSequence (max 1 (min 7 r.count)) (records r)) ∧
    ∀ q, (t.ports.at q).responses = (s.ports.at q).responses ++ (s.heldReads.filter fun r => r.port == q).map fun r =>
      { status := if r.count = max 1 (min 7 r.count) then .ok else .clamped
        tag := r.tag
        data := optNumber t.hist.oldest ++ u32 t.hist.newest ++ u32 t.hist.acked ++ u32 (t.hist.newest - t.hist.acked) ++
          flag t.hist.uploadWanted ++ flag t.hist.stalled ++ members (records r) Record.bytes }
  landed : s.heldReads ≠ [] → ∀ q f, (t.ports.at q).inFlight = some f → f.command ≠ .readHistory

/-- From `s` to `t` sector `n` alone has stopped being readable, and its unsent records, if it holds any, are lost: LOST_UNSENT
counts them, the acknowledged sequence moves to the sector's highest, and STORE is raised (R149). -/
def State.UnsentLost (s : State) (n : Fin 16) (t : State) : Prop :=
  ∀ (seqs : List Nat) (lost : Nat), seqs = ((s.hist.sectors.read n).records.map fun r => r.sequence) →
    lost = (seqs.filter fun q => s.hist.acked < q).length →
    (lost = 0 → t.hist.lostUnsent = s.hist.lostUnsent ∧ t.hist.acked = s.hist.acked) ∧
    (0 < lost → t.hist.lostUnsent = min (s.hist.lostUnsent + lost) 4294967295 ∧ t.hist.acked ∈ seqs ∧
      (∀ q ∈ seqs, q ≤ t.hist.acked) ∧ ∀ q, hasKind (t.ports.at q).pending .store = true)

/-! ## Invariants -/

/-- The pending queue of the history store holds at most eight records (R155). -/
def State.queueBounded (s : State) : Prop := s.hist.queue.length ≤ 8

/-- Attention is asserted exactly while some kind is both pending and enabled (R195), and the four link counts stay within
65,535 (R186, R187). -/
structure PortUnit.Sound (u : PortUnit) : Prop where
  attention : u.attention = (u.pending &&& u.enable != 0#12)
  timeouts : u.timeouts ≤ 65535
  breaks : u.breaks ≤ 65535
  strays : u.strays ≤ 65535
  errors : u.errors ≤ 65535

/-- Every port is sound. -/
def State.portsSound (s : State) : Prop := ∀ p, (s.ports.at p).Sound

/-- At most four hand-over contexts stand (R127, R128). -/
def State.contextsBounded (s : State) : Prop := s.hand.contexts.length ≤ 4

/-- The reference-check record is consistent (R6, R8): the consecutive count holds at 3, a passing result comes with count 0,
and CONVERTER_FAULT stands only on a failed result whose count is 3. -/
structure RefRecord.Sound (r : RefRecord) : Prop where
  count : r.consecutive ≤ 3
  passed : r.pass = true → r.consecutive = 0
  fault : r.converterFault = true → r.pass = false ∧ r.consecutive = 3

/-- The counts of a consignment stay within their ranges: a bucket at 16,777,215 (R72), the own heat-shock count at 255
(R75). -/
structure Consignment.Bounded (x : Consignment) : Prop where
  other : x.exposure.buckets.other ≤ maxBucket
  door : x.exposure.buckets.door ≤ maxBucket
  defrost : x.exposure.buckets.defrost ≤ maxBucket
  unit : x.exposure.buckets.unit ≤ maxBucket
  shocks : x.exposure.shocks ≤ 255

/-- Every consignment is bounded. -/
def State.dosesBounded (s : State) : Prop := ∀ j x, s.cons.read j = some x → x.Bounded

/-- What never falls while a consignment occupies its slot (R72, R54, R79, R104): `y` is the same consignment as `x`, seen
later in its occupancy. -/
structure Consignment.Since (x y : Consignment) : Prop where
  id : y.id = x.id
  carriedDose : y.carriedDose = x.carriedDose
  carriedShocks : y.carriedShocks = x.carriedShocks
  source : y.source = x.source
  other : x.exposure.buckets.other ≤ y.exposure.buckets.other
  door : x.exposure.buckets.door ≤ y.exposure.buckets.door
  defrost : x.exposure.buckets.defrost ≤ y.exposure.buckets.defrost
  unit : x.exposure.buckets.unit ≤ y.exposure.buckets.unit
  shocks : x.exposure.shocks ≤ y.exposure.shocks
  triggered : x.exposure.triggered &&& y.exposure.triggered = x.exposure.triggered
  saturated : x.exposure.saturated = true → y.exposure.saturated = true
  outage : x.outageSeen = true → y.outageSeen = true
  conflict : x.conflictSeen = true → y.conflictSeen = true

/-- Every consignment of `a` is gone from its slot, or is still there with what it had. -/
def tableSince (a b : Table (Option Consignment) 32) : Prop :=
  ∀ j x, a.read j = some x → b.read j = none ∨ ∃ y, b.read j = some y ∧ x.Since y

/-- What a run of the part never leaves: the invariants together. -/
structure State.Safe (s : State) : Prop where
  queue : s.queueBounded
  ports : s.portsSound
  contexts : s.contextsBounded
  reference : s.fe.ref.Sound
  doses : s.dosesBounded

end Sys2Proof.Machine
end

