-- ==== Sys2Proof/WellFormed.lean ====
section
/-! DEFINITION. What a term of `Instr` must satisfy to be a command a partner can send. -/

namespace Sys2Proof

/-- A command whose arguments a frame can carry (R200, R201): the body of a frame has at most 250 bytes, of which two are the
code and the tag and one the zone, and a customer mark that is given has 16 bytes. Every other command has arguments of
fixed widths, which its constructor's types hold. -/
def Instr.wellFormed : Instr → Bool
  | .setZone _ _ fields => 3 + 5 * fields.length ≤ 250
  | .decide _ _ _ _ (some mark) => mark.length == 16
  | _ => true

end Sys2Proof
end

