-- ==== Sys2Proof/Certificates/Slice0/Obligations.lean ====
section
/-! DEFINITION. The statements for the provers. Each docstring names the rule or section of the spec it formalises. A record
update `{ s with … }` in a conclusion is the frame: every field it does not name is as before. -/

open Sys2Proof Sys2Proof.Machine

/-! ## The step and the port unit's checks -/

/-- The model's step (log 3): the command or event at the front of the queue is taken with the queue's rest, and on an empty
queue the part idles. -/
def Obligations.FrontOfTheQueueIsTaken : Prop :=
  (∀ (c : Instr) (rest : List Instr) (s : State),
    step { s with pending := c :: rest } = exec c { s with pending := rest }) ∧
  ∀ s : State, step { s with pending := [] } = .next { s with pending := [] }

/-- Every command and event has a meaning in every state: none faults, none is refused, and none touches the queue of
commands that wait. The queue is the model's (log 3), and so is that an event row completes, with no effect, in a state where
its condition does not hold (log 4). -/
def Obligations.EveryRowCompletesAndLeavesTheQueue : Prop :=
  ∀ (i : Instr) (s : State), ∃ t, exec i s = .next t ∧ t.pending = s.pending

/-- R188: the checks that the port unit makes before a command's own rule, in their order. In START a command is answered
BUSY; so is one on a port with a command in flight, but for RESTART on the T-port; one outside the port's rights is answered
DENIED. The refused command changes nothing but the response queue of its port. -/
def Obligations.PortChecksComeFirst : Prop :=
  ∀ (i : Instr) (h : Header) (g : Group) (s : State), header? i = some h → group? i = some g → s.powered = true →
    (s.ctl.mode = .start → exec i s = .next (s.respond h .busy [])) ∧
    (s.ctl.mode ≠ .start → isTerminalRestart i = false → (s.ports.at h.port).inFlight ≠ none →
      exec i s = .next (s.respond h .busy [])) ∧
    (s.ctl.mode ≠ .start → (s.ports.at h.port).inFlight = none → holdsGroup s.ctl.working.grants g h.port = false →
      exec i s = .next (s.respond h .denied []))

/-- R182: the working settings change only in SETUP and at the settings load of START. In every other mode no command and no
event but the two that begin START changes any setting. -/
def Obligations.SettingsChangeOnlyInSetup : Prop :=
  ∀ (i : Instr) (s t : State), s.ctl.mode ≠ .setup → (∀ f, i ≠ .mainPowerReturn f) → (∀ f, i ≠ .resetInputReleased f) →
    exec i s = .next t → t.ctl.working = s.ctl.working

/-- R127, R155: the pending queue of the history store never holds more than eight records, and at most four hand-over
contexts stand. -/
def Obligations.QueueAndContextsStayBounded : Prop :=
  ∀ s t : State, step s = .next t → (s.queueBounded → t.queueBounded) ∧ (s.contextsBounded → t.contextsBounded)

/-- R195 and the link counts of R186 and R187: attention is asserted on each port exactly while some kind is both pending and
enabled, and no link count passes 65,535. -/
def Obligations.AttentionFollowsTheSets : Prop :=
  ∀ s t : State, s.portsSound → step s = .next t → t.portsSound

/-- R6, R8: the consecutive count holds at 3 and is 0 after a pass, and CONVERTER_FAULT stands only on a failed result with
count 3. -/
def Obligations.ReferenceRecordStaysConsistent : Prop :=
  ∀ s t : State, s.fe.ref.Sound → step s = .next t → t.fe.ref.Sound

/-- R72 and the sentence that closes its section, with R79, R54 and R104: while a consignment occupies its slot, none of its
four dose buckets and neither of its heat-shock counts falls, no cause leaves its triggered set, SATURATED, OUTAGE_SEEN and
SETPOINT_CONFLICT_SEEN stay set, and its id, its carried dose, its carried heat-shock count and its carried source receipt
number (R86) are kept. The counts also stay within their ranges. -/
def Obligations.DosesNeverFallWhileTheSlotIsOccupied : Prop :=
  ∀ s t : State, s.dosesBounded → step s = .next t → t.dosesBounded ∧ tableSince s.cons t.cons

/-- The model's state after reset (its values are the model's choice for a part never powered, log 2, with the reading of
reset in log 1) meets the invariants. -/
def Obligations.ResetIsSafe : Prop := State.reset.Safe

/-- R199, R200, R201: the body of a command frame spells the command it was formed from, with every operand at every value a
frame can carry. -/
def Obligations.CommandFramesReadBack : Prop :=
  ∀ (i : Instr) (h : Header) (code : Nat), header? i = some h → commandCode i = some code → i.wellFormed = true →
    parseCommand h code (commandBytes i) = some i

/-! ## The measurement front end (file 01) -/

/-- R16: SET_PROBE is refused outside SETUP and while a commit is in flight. Taken, it stores the offset clamped to −200 to
+200 and the gain clamped to −327 to +327 in the working settings, and answers with the probe number and the two stored
values, CLAMPED when a clamp changed a value. Nothing else changes, and settings that were the committed ones then differ
from them unless the stored values equal the committed ones. A probe number outside 0 to 7 is refused. A round takes the
working trims at its start, and its publication reads with the trims taken then. -/
def Obligations.ProbeTrimsAreStoredClamped : Prop :=
  (∀ (h : Header) (probe : Byte) (offset gain : BitVec 16) (s : State), Taken .config h s →
    (s.ctl.mode ≠ .setup → exec (.setProbe h probe offset gain) s = .next (s.respond h .wrongMode [])) ∧
    (s.ctl.mode = .setup → s.ctl.commit ≠ none → exec (.setProbe h probe offset gain) s = .next (s.respond h .busy [])) ∧
    (s.ctl.mode = .setup → s.ctl.commit = none →
      (∀ (p : Fin 8) (o g : Int), probe.toNat = p.val → o = max (-200) (min 200 offset.toInt) →
        g = max (-327) (min 327 gain.toInt) →
        ∃ t : State, t = { s with ctl := { s.ctl with working := { s.ctl.working with
            trims := s.ctl.working.trims.write p { offset := o, gain := g } } } } ∧
          exec (.setProbe h probe offset gain) s = .next (t.respond h
            (if o = offset.toInt ∧ g = gain.toInt then .ok else .clamped) (u8 probe.toNat ++ i16 o ++ i16 g)) ∧
          (s.ctl.working = s.committed →
            (t.ctl.working ≠ t.committed ↔ s.committed.trims.read p ≠ { offset := o, gain := g }))) ∧
      (8 ≤ probe.toNat → exec (.setProbe h probe offset gain) s = .next (s.respond h .badArgument [])))) ∧
  ∀ s : State, s.powered = true → s.ctl.mode = .setup ∨ s.ctl.mode = .service ∨ s.ctl.mode = .parked →
    (∀ n, s.fe.nextStart = some n → n ≤ s.now → s.fe.round = none →
      ∃ t r, exec .roundStart s = .next t ∧ t.fe.round = some r ∧ r.trims = s.ctl.working.trims) ∧
    ∀ (r : Round) (conv : Conversion) (p : Fin 8), s.fe.round = some r → r.start + 2 ≤ s.now → r.converted.read p = true →
      (s.fe.probes.read p).status ≠ .unused → ∃ t, exec (.readingsPublished conv) s = .next t ∧
        (t.fe.probes.read p).reading = some (readingOf (conv.codes.read p) (r.trims.read p) t.fe.ref)

/-- R4, R5, R8, R14, R15: a code of 0 or 65,535, and every code in CONVERTER_FAULT, reads FAULT; any other code reads
floor((L + 2) / 4) − 5,500, trimmed by offset and gain with the gain term rounded to nearest, halves up, and clamped to
−5,500 to +8,500 with CLAMPED when the clamp changed it. SUSPECT stands while the latest check has failed once or twice. The
air of a compartment is the higher of the values its two probes contribute, with the flags of all contributing values; with
no contribution the compartment is SENSOR_LOST and keeps its value and flags. -/
def Obligations.CodesBecomeReadingsAndAir : Prop :=
  (∀ (code : BitVec 16) (t : Trim) (r : RefRecord),
    (code.toNat = 0 ∨ code.toNat = 65535 ∨ r.converterFault = true → readingOf code t r = .fault) ∧
    (code.toNat ≠ 0 → code.toNat ≠ 65535 → r.converterFault = false →
      ∃ v c u, readingOf code t r = .valid v c u ∧
        (let b : Int := ((code.toNat : Int) + 2) / 4 - 5500
         let x : Int := b + t.offset + (b * t.gain + 8192) / 16384
         v = max (-5500) (min 8500 x) ∧ (c = true ↔ x < -5500 ∨ 8500 < x)) ∧
        (u = true ↔ r.pass = false ∧ (r.consecutive = 1 ∨ r.consecutive = 2)))) ∧
  ∀ (g : CompConfig) (probes : Table Probe 8) (before : AirRecord) (p q : Fin 8), g.primary = some p → g.secondary = some q →
    match (probes.read p).contribution, (probes.read q).contribution with
    | some (a, c, u, k), some (b, c', u', k') =>
        airOf g probes before =
          { a := some (max a b), clamped := c || c', suspect := u || u', held := k || k', lost := false, contributors := [p, q] }
    | some (a, c, u, k), none =>
        airOf g probes before = { a := some a, clamped := c, suspect := u, held := k, lost := false, contributors := [p] }
    | none, some (b, c, u, k) =>
        airOf g probes before = { a := some b, clamped := c, suspect := u, held := k, lost := false, contributors := [q] }
    | none, none => airOf g probes before = { before with lost := true, contributors := [] }

/-- R1, R3, R7, R9: a due round starts in SETUP, SERVICE or PARKED. Its kind is the mode's, the next-start second advances by
10 or 60, its trims are the working ones, it makes a check when 60 round-equivalents have passed, the latest check failed or
one is requested, and it converts the probes that are primary or secondary of a compartment in use. -/
def Obligations.DueRoundStarts : Prop :=
  ∀ (s : State) (n : Nat), s.powered = true → s.ctl.mode = .setup ∨ s.ctl.mode = .service ∨ s.ctl.mode = .parked →
    s.fe.nextStart = some n → n ≤ s.now → s.fe.round = none →
    ∃ r, exec .roundStart s = .next { s with fe := { s.fe with
          nextStart := some (n + if s.ctl.mode = .parked then 60 else 10)
          round := some r } } ∧
      (r.parked = true ↔ s.ctl.mode = .parked) ∧ r.startedIn = s.ctl.mode ∧ r.start = s.now ∧
      r.trims = s.ctl.working.trims ∧
      (r.check = true ↔ 60 ≤ s.fe.checkDue ∨ s.fe.ref.pass = false ∨ s.fe.checkRequest = true) ∧
      ∀ p, r.converted.read p = true ↔
        ∃ c, (s.config c).inUse = true ∧ ((s.config c).primary = some p ∨ (s.config c).secondary = some p)

/-- R3 with R6, R7, R8, R10 to R12, R14 and R15: the readings-published event of a round that has come to its second. The
check, when the round makes one, is taken first, and a passing one clears the check request; every probe that the round
converts steps on its reading by the table of probe statuses; the round ends; the check-due count grows by the
round-equivalents; and the publication, with the statuses, the readings and the air of the compartments in use as they then
stand, is handed to each of the six blocks that take it. A compartment in use that enters or leaves SENSOR_LOST makes SENSOR
pending on every port; the ports are left alone where none does, no probe changes its status and CONVERTER_FAULT stands as it
stood. That the first publication after START compares with the flag kept from before the reset is log 42's choice. That a
faulted reading counts none in LOST, and that a held value carries no flag but HELD, are the model's choices (log 41, log
16). -/
def Obligations.RoundIsPublished : Prop :=
  (∀ (x y : RefRecord) (a b : BitVec 16), x.check a b = y →
    y.codeA = a ∧ y.codeB = b ∧
    (y.pass = true ↔ 12784 ≤ a.toNat ∧ a.toNat ≤ 12816 ∧ 51184 ≤ b.toNat ∧ b.toNat ≤ 51216) ∧
    y.consecutive = (if y.pass then 0 else min (x.consecutive + 1) 3) ∧
    (y.converterFault = true ↔ y.pass = false ∧ (x.converterFault = true ∨ y.consecutive = 3))) ∧
  (∀ (x : Probe) (code : BitVec 16),
    (∀ (v : Int) (c u : Bool) (y : Probe), y = { x with raw := some code, reading := some (.valid v c u) } →
      (x.status = .unknown ∨ x.status = .good ∨ x.status = .held ∨ (x.status = .recovering ∧ 2 ≤ x.run) →
        x.step code (.valid v c u) = { y with status := .good, run := 0, held := some v }) ∧
      (x.status = .lost → x.step code (.valid v c u) = { y with status := .recovering, run := 1 }) ∧
      (x.status = .recovering → x.run < 2 → x.step code (.valid v c u) = { y with run := x.run + 1 })) ∧
    (∀ y : Probe, y = { x with raw := some code, reading := some .fault } →
      (x.status = .unknown → x.step code .fault = { y with status := .held, run := 1, held := none }) ∧
      (x.status = .good → x.step code .fault = { y with status := .held, run := 1 }) ∧
      (x.status = .held → x.run < 2 → x.step code .fault = { y with run := x.run + 1 }) ∧
      (x.status = .recovering ∨ (x.status = .held ∧ 2 ≤ x.run) → x.step code .fault = { y with status := .lost, run := 0 }) ∧
      (x.status = .lost → x.step code .fault = y)) ∧
    (∀ v c u, x.status = .good → x.reading = some (.valid v c u) → x.contribution = some (v, c, u, false)) ∧
    (x.status = .held → x.contribution = x.held.map fun v => (v, false, false, true)) ∧
    (x.status ≠ .good → x.status ≠ .held → x.contribution = none)) ∧
  ∀ (s : State) (r : Round) (conv : Conversion), s.fe.round = some r → r.start + 2 ≤ s.now → s.powered = true →
    s.ctl.mode = .setup ∨ s.ctl.mode = .service ∨ s.ctl.mode = .parked →
    ∃ t p, exec (.readingsPublished conv) s = .next t ∧
      t = { s with fe := t.fe, pubs := t.pubs, marks := t.marks, ports := t.ports } ∧
      t.fe.ref = (if r.check then s.fe.ref.check conv.refA conv.refB else s.fe.ref) ∧
      t.fe.round = none ∧ t.fe.lastStart = some r.start ∧ t.fe.nextStart = s.fe.nextStart ∧
      t.fe.checkDue = (if r.check then 0 else s.fe.checkDue) + (if r.parked then 6 else 1) ∧
      t.fe.checkRequest = (s.fe.checkRequest && !(r.check && t.fe.ref.pass)) ∧
      (∀ i, t.fe.probes.read i =
        if r.converted.read i = true ∧ (s.fe.probes.read i).status ≠ .unused then
          (s.fe.probes.read i).step (conv.codes.read i) (readingOf (conv.codes.read i) (r.trims.read i) t.fe.ref)
        else s.fe.probes.read i) ∧
      (∀ c, t.fe.air.read c = if s.inUse c then airOf (s.config c) t.fe.probes (s.fe.air.read c) else s.fe.air.read c) ∧
      p.parked = r.parked ∧ p.startedIn = r.startedIn ∧ p.start = r.start ∧ p.second = s.now ∧
      p.check = (if r.check then some t.fe.ref.pass else none) ∧
      (∀ i, p.probes.read i = ((t.fe.probes.read i).status, (t.fe.probes.read i).reading)) ∧
      (∀ c, p.air.read c = if s.inUse c then some (t.fe.air.read c) else none) ∧
      t.pubs = { line := s.pubs.line ++ [p], monitor := s.pubs.monitor ++ [p], engine := s.pubs.engine ++ [p],
                 claims := s.pubs.claims ++ [p], control := s.pubs.control ++ [p], store := s.pubs.store ++ [p] } ∧
      ((∃ c, s.inUse c = true ∧ (t.fe.air.read c).lost ≠ (s.fe.air.read c).lost) →
        ∀ q, hasKind (t.ports.at q).pending .sensor = true) ∧
      ((∀ c, s.inUse c = true → (t.fe.air.read c).lost = (s.fe.air.read c).lost) →
        (∀ i, (t.fe.probes.read i).status = (s.fe.probes.read i).status) →
        t.fe.ref.converterFault = s.fe.ref.converterFault → t.ports = s.ports)

/-- R4, R8, R11, R12, R13: the publication at which a HELD probe takes its third faulted reading in a row (a code of 0 or
65,535, or any code in CONVERTER_FAULT as it stands after the round's check) makes it LOST with its held value kept, and the
one at which a RECOVERING probe takes its third valid reading makes it GOOD with the reading as held value. Each requests the
probe's mark and makes SENSOR pending on every port. The rows PROBE_LOST and PROBE_RECOVERED are that publication itself
(log 6). -/
def Obligations.ThirdReadingLosesOrRecoversAProbe : Prop :=
  ∀ (s : State) (r : Round) (conv : Conversion) (p : Fin 8) (ref : RefRecord), s.fe.round = some r → r.start + 2 ≤ s.now →
    s.powered = true → s.ctl.mode = .setup ∨ s.ctl.mode = .service ∨ s.ctl.mode = .parked → r.converted.read p = true →
    (s.fe.probes.read p).run = 2 → ref = (if r.check then s.fe.ref.check conv.refA conv.refB else s.fe.ref) →
    ((s.fe.probes.read p).status = .held →
      (conv.codes.read p).toNat = 0 ∨ (conv.codes.read p).toNat = 65535 ∨ ref.converterFault = true →
      ∃ t, exec (.probeLost p conv) s = .next t ∧ (t.fe.probes.read p).status = .lost ∧ (t.fe.probes.read p).run = 0 ∧
        (t.fe.probes.read p).held = (s.fe.probes.read p).held ∧ Mark.probe p .held .lost ∈ t.marks ∧
        ∀ q, hasKind (t.ports.at q).pending .sensor = true) ∧
    ((s.fe.probes.read p).status = .recovering → ref.converterFault = false → (conv.codes.read p).toNat ≠ 0 →
      (conv.codes.read p).toNat ≠ 65535 →
      ∃ t v c u, exec (.probeRecovered p conv) s = .next t ∧
        readingOf (conv.codes.read p) (r.trims.read p) ref = .valid v c u ∧
        (t.fe.probes.read p).status = .good ∧ (t.fe.probes.read p).run = 0 ∧ (t.fe.probes.read p).held = some v ∧
        Mark.probe p .recovering .good ∈ t.marks ∧ ∀ q, hasKind (t.ports.at q).pending .sensor = true)

/-- R6, R8: the check that fails for the third time running enters CONVERTER_FAULT. A check passes when each code lies within
16 codes of 12,800 and of 51,200. The record takes the codes, the check-due count starts again, a REFCHECK mark is requested
and SENSOR becomes pending on every port. The row CONVERTER_FAULT is the publication that makes the check (log 6). Every
check, of a round or of waking, requests one REFCHECK mark where its result differs from the previous one or CONVERTER_FAULT
is entered or left, and none otherwise; entering and leaving make SENSOR pending. -/
def Obligations.ThirdFailedCheckEntersConverterFault : Prop :=
  (∀ (s : State) (r : Round) (conv : Conversion), s.fe.round = some r → r.start + 2 ≤ s.now → s.powered = true →
    s.ctl.mode = .setup ∨ s.ctl.mode = .service ∨ s.ctl.mode = .parked → s.ctl.wakingCheck = false → r.check = true →
    s.fe.ref.consecutive = 2 → s.fe.ref.converterFault = false →
    (conv.refA.toNat < 12784 ∨ 12816 < conv.refA.toNat ∨ conv.refB.toNat < 51184 ∨ 51216 < conv.refB.toNat) →
    ∃ t, exec (.converterFault conv) s = .next t ∧
      t.fe.ref = { codeA := conv.refA, codeB := conv.refB, pass := false, consecutive := 3, converterFault := true } ∧
      t.fe.checkDue = (if r.parked then 6 else 1) ∧ Mark.refcheck conv.refA conv.refB false 3 true ∈ t.marks ∧
      ∀ q, hasKind (t.ports.at q).pending .sensor = true) ∧
  ∀ (s : State) (a b : BitVec 16) (y : RefRecord) (own : List Mark), s.powered = true → s.fe.ref.check a b = y →
    own = (if s.fe.ref.pass = y.pass ∧ s.fe.ref.converterFault = y.converterFault then []
      else [.refcheck a b y.pass y.consecutive y.converterFault]) →
    (∀ (r : Round) (conv : Conversion), s.fe.round = some r → r.start + 2 ≤ s.now →
      s.ctl.mode = .setup ∨ s.ctl.mode = .service ∨ s.ctl.mode = .parked → r.check = true → conv.refA = a → conv.refB = b →
      ∃ t probes, exec (.readingsPublished conv) s = .next t ∧ t.fe.ref = y ∧ t.marks = s.marks ++ own ++ probes ∧
        (∀ m ∈ probes, ∃ p old new, m = .probe p old new) ∧
        (s.fe.ref.converterFault ≠ y.converterFault → ∀ q, hasKind (t.ports.at q).pending .sensor = true)) ∧
    (s.ctl.mode = .waking → s.ctl.wakingCheck = true →
      ∃ t, exec (.wakingComplete a b) s = .next t ∧ t.fe.ref = y ∧ t.fe.checkDue = 0 ∧
        t.marks = s.marks ++ own ++ [.mode .waking t.ctl.mode .wakingDone] ∧
        (s.fe.ref.converterFault ≠ y.converterFault → ∀ q, hasKind (t.ports.at q).pending .sensor = true))

/-! ## The line unit (file 02) -/

/-- R23, R24, R25, R34, R35, R46, R49, R50, R173: SET_LINE stores the entry with its debounce clamped to 255 and answers with
the entry and the line's debounced state. When the entry changes, the line's candidate is discarded and the debounced state
follows from the present raw level at once; a line that becomes door-active, ceases to be, or moves between compartments
while active opens an episode, closes its own, or does both, sets its door-change flag on every port, and the door phases of
the compartments in use follow; an edit without a door event changes none of these. In a compartment in use a defrost
indication that the edit changes starts ALLOW with count 0 or ends the phase, with its DEFROST mark, and a changed unit-fault
indication requests its UNIT mark and makes UNIT pending; no other mark is requested, and a changed park condition acts on no
mode in SETUP. Other lines, the door-second counters, and the monitor's state of compartments the line neither left nor came
to stay. DOOR and DEFROST without a compartment are refused. The byte of the debounced state (log 15), and the elapsed count
kept at the end of a phase (log 39), are the model's. -/
def Obligations.LineEditsTakeEffectAtOnce : Prop :=
  ∀ (h : Header) (line kind lvl : Byte) (debounce : BitVec 16) (comp : Option Byte) (s : State), Editable h s →
    ∀ (l : Fin 8) (k : LineKind) (high : Bool), line.toNat = l.val → lineKind kind = some k → level lvl = some high →
    ((k = .door ∨ k = .defrost) ∧ comp.bind (index 4) = none →
      exec (.setLine h line kind lvl debounce comp) s = .next (s.respond h .badArgument [])) ∧
    (∀ e : LineEntry, e = { kind := k, activeHigh := high, debounce := min 255 debounce.toNat, comp := e.comp } →
      (k = .door ∨ k = .defrost → e.comp ≠ none ∧ e.comp = comp.bind (index 4)) →
      (k ≠ .door → k ≠ .defrost → e.comp = none) →
      ∃ t : State, exec (.setLine h line kind lvl debounce comp) s = .next t ∧
        s.answered t h (if debounce.toNat ≤ 255 then .ok else .clamped)
          (u8 l.val ++ u8 k.code ++ u8 (if high then 0 else 1) ++ u16 e.debounce ++ present e.comp 1 (fun i => u8 i.val) ++
            flag (t.lines.line.read l).active) ∧
        t = { s with
          ctl := { s.ctl with working := { s.ctl.working with lines := s.ctl.working.lines.write l e } }
          lines := t.lines, mon := t.mon, cons := t.cons, marks := t.marks, ports := t.ports } ∧
        t.lines.counters = s.lines.counters ∧
        (s.entry l = e → t.lines = s.lines ∧ t.mon = s.mon ∧ t.cons = s.cons ∧ t.marks = s.marks) ∧
        (s.entry l ≠ e →
          t.lines.line = s.lines.line.write l
            { high := (s.lines.line.read l).high
              active := k != .unused && (s.lines.line.read l).high == high
              candidate := none } ∧
          (∀ c, (s.entry l).comp ≠ some c → e.comp ≠ some c → t.mon.read c = s.mon.read c) ∧
          (∀ c, s.inUse c = false ∨ t.defrostIndication c = s.defrostIndication c →
            (t.mon.read c).defrost = (s.mon.read c).defrost ∧ (t.mon.read c).elapsed = (s.mon.read c).elapsed) ∧
          (∀ c, s.inUse c = true → s.defrostIndication c = false → t.defrostIndication c = true →
            (t.mon.read c).defrost = .allow ∧ (t.mon.read c).elapsed = 0 ∧ Mark.defrost c .allow 0 ∈ t.marks) ∧
          (∀ c, s.inUse c = true → s.defrostIndication c = true → t.defrostIndication c = false →
            (t.mon.read c).defrost = .none ∧ (t.mon.read c).elapsed = (s.mon.read c).elapsed ∧
            ((s.mon.read c).defrost ≠ .none → Mark.defrost c .none (s.mon.read c).elapsed ∈ t.marks)) ∧
          (∀ c, s.inUse c = true → s.unitFault c ≠ t.unitFault c →
            Mark.unit c .unitFault (t.unitFault c) 0 ∈ t.marks ∧ ∀ q, hasKind (t.ports.at q).pending .unit = true) ∧
          ((∀ c, s.inUse c = true → t.defrostIndication c = s.defrostIndication c ∧ t.unitFault c = s.unitFault c) →
            t.marks = s.marks) ∧
          (∀ old new : Option (Fin 4), old = s.doorActiveIn l →
            new = (if k = .door ∧ (s.lines.line.read l).high = high then e.comp else none) →
            (old = new → t.lines.log = s.lines.log ∧ t.lines.nextEpisode = s.lines.nextEpisode ∧
              t.lines.flags = s.lines.flags) ∧
            (old ≠ new →
              (∀ q, t.lines.flags.at q = s.lines.flags.at q ||| (1#8 <<< l.val)) ∧
              (∀ q, hasKind (s.ports.at q).enable .door = true → hasKind (t.ports.at q).pending .door = true) ∧
              (∀ log, log = (if old = none then s.lines.log
                  else s.lines.log.map fun x => if x.line = l ∧ x.stop = none then { x with stop := some s.now } else x) →
                (new = none → t.lines.log = log ∧ t.lines.nextEpisode = s.lines.nextEpisode) ∧
                ∀ c, new = some c → t.lines.nextEpisode = nextNumber s.lines.nextEpisode ∧
                  t.lines.log = makeRoom log ++ [{
                    number := s.lines.nextEpisode, line := l, comp := c, start := s.now, stop := none, peak := none,
                    overstay := (s.mon.read c).door == .overstay, interrupted := false }]) ∧
              (∀ c, new = some c → s.inUse c = true → (∀ i, i ≠ l → s.doorActive c i = false) →
                (s.mon.read c).door = .closed ∨ (s.mon.read c).door = .recovery →
                (t.mon.read c).door = .allow ∧ (t.mon.read c).openStart = some s.now ∧ (t.mon.read c).recovery = none) ∧
              ∀ c z, old = some c → s.inUse c = true → s.zoneOf c = some z → (∀ i, i ≠ l → s.doorActive c i = false) →
                (s.mon.read c).door = .allow ∨ (s.mon.read c).door = .overstay →
                (t.mon.read c).door = (if z.recovery ≤ 0 then .closed else .recovery) ∧ (t.mon.read c).openStart = none ∧
                  (t.mon.read c).recovery = if z.recovery ≤ 0 then none else some z.recovery.toNat))))

/-- R22, for a line in use that is watched and whose raw level changes while no candidate has run out: a level that agrees
again with the debounced state discards the candidate; one opposite to it forms a candidate with its instant, or, where the
debounce is 0, makes the line event at once. Nothing else changes while no line event is made. That lines are watched from
START's sampling onward is read from R38 (log 19), and the instants in milliseconds are the model's (log 10). -/
def Obligations.RawLevelsAreDebounced : Prop :=
  ∀ (l : Fin 8) (high : Bool) (instant : Nat) (s : State) (x : Line), s.linesWatched = true → (s.entry l).kind ≠ .unused →
    s.lines.line.read l = x → x.high ≠ high → s.debounced l instant = none →
    ((high == (s.entry l).activeHigh) = x.active →
      exec (.rawLevelChange l high instant) s = .next { s with lines := { s.lines with
        line := s.lines.line.write l { high := high, active := x.active, candidate := none } } }) ∧
    ((high == (s.entry l).activeHigh) ≠ x.active → 0 < (s.entry l).debounce → x.candidate = none →
      exec (.rawLevelChange l high instant) s = .next { s with lines := { s.lines with
        line := s.lines.line.write l
          { high := high, active := x.active, candidate := some { active := !x.active, instant := instant } } } }) ∧
    ((high == (s.entry l).activeHigh) ≠ x.active → (s.entry l).debounce = 0 →
      ∃ t, exec (.rawLevelChange l high instant) s = .next t ∧ t.lines.counters = s.lines.counters ∧
        t.lines.line = s.lines.line.write l { high := high, active := !x.active, candidate := none })

/-- R22, R24, R25, R28, R29, R34, R46, R49, R50, R95, R173, R176, R178: the line event of a line, once its candidate has
stood for the debounce time. DOOR: The debounced state becomes the candidate's, the line's door-change flag is set on every
port, and DOOR becomes pending where it is enabled. An opening opens an episode and counts against every consignment in
custody there. In a compartment in use it starts the ALLOW phase when it is the first and ends parking or sleep, and a last
closing starts RECOVERY with the zone's recovery count; in one that is not in use neither the phase nor the mode changes. A
closing closes the line's episode. DEFROST: a changed defrost indication of a compartment in use starts ALLOW with count 0 or
ends the phase, with its DEFROST mark. UNIT_FAULT: each compartment in use whose unit-fault indication changes has its UNIT
mark, and one UNIT event covers them. PARK: a park condition that becomes false takes a PARKED part to SERVICE and a DORMANT
one to WAKING. The order of the UNIT marks (log 35), the elapsed count kept at a phase's end (log 39), the watching from
START's sampling on (log 19) and the instants (log 10) are the model's. -/
def Obligations.LineEventsReachTheirConsumers : Prop :=
  (∀ (l : Fin 8) (instant : Nat) (s : State) (x : Line) (k : Candidate) (c : Fin 4), s.linesWatched = true →
    (s.entry l).kind = .door → (s.entry l).comp = some c → s.lines.line.read l = x →
    x.candidate = some k → k.active = !x.active → k.instant + 10 * (s.entry l).debounce ≤ instant →
    ∃ t, exec (.lineEvent l instant) s = .next t ∧
      t = { s with lines := t.lines, mon := t.mon, cons := t.cons, ports := t.ports, ctl := t.ctl, fe := t.fe, marks := t.marks } ∧
      t.lines.line = s.lines.line.write l { high := x.high, active := k.active, candidate := none } ∧
      t.lines.counters = s.lines.counters ∧
      (∀ q, (t.lines.flags.at q).getLsbD l.val = true) ∧
      (∀ q, hasKind (s.ports.at q).enable .door = true → hasKind (t.ports.at q).pending .door = true) ∧
      (∀ d, d ≠ c → t.mon.read d = s.mon.read d) ∧
      (s.inUse c = false → t.mon = s.mon ∧ t.ctl = s.ctl ∧ t.fe = s.fe ∧ t.marks = s.marks) ∧
      (k.active = true →
        t.lines.nextEpisode = nextNumber s.lines.nextEpisode ∧
        t.lines.log = makeRoom s.lines.log ++ [{
          number := s.lines.nextEpisode, line := l, comp := c, start := s.now, stop := none, peak := none,
          overstay := (s.mon.read c).door == .overstay, interrupted := false }] ∧
        (∀ j, t.cons.read j = (s.cons.read j).map fun y =>
          if y.inCustody && y.comp == c then { y with episodes := min (y.episodes + 1) 255 } else y) ∧
        (s.inUse c = true →
          ((∀ i, i ≠ l → s.doorActive c i = false) → (s.mon.read c).door = .closed ∨ (s.mon.read c).door = .recovery →
            t.mon.read c = { s.mon.read c with door := .allow, openStart := some s.now, recovery := none }) ∧
          t.ctl.mode = (if s.ctl.mode = .parked then .service else if s.ctl.mode = .dormant then .waking else s.ctl.mode) ∧
          (s.ctl.mode ≠ .parked → s.ctl.mode ≠ .dormant → t.ctl = s.ctl ∧ t.fe = s.fe ∧ t.marks = s.marks))) ∧
      (k.active = false →
        t.ctl = s.ctl ∧ t.fe = s.fe ∧ t.marks = s.marks ∧ t.cons = s.cons ∧ t.lines.nextEpisode = s.lines.nextEpisode ∧
        t.lines.log = s.lines.log.map (fun y => if y.line = l ∧ y.stop = none then { y with stop := some s.now } else y) ∧
        ∀ z, s.inUse c = true → s.zoneOf c = some z → (∀ i, i ≠ l → s.doorActive c i = false) →
          (s.mon.read c).door = .allow ∨ (s.mon.read c).door = .overstay →
          t.mon.read c =
            if z.recovery ≤ 0 then { s.mon.read c with door := .closed, openStart := none, recovery := none, overstayDue := false }
            else { s.mon.read c with
              door := .recovery, openStart := none, recovery := some z.recovery.toNat, overstayDue := false })) ∧
  ∀ (l : Fin 8) (instant : Nat) (s : State) (x : Line) (k : Candidate) (lines : LineUnit), s.linesWatched = true →
    s.lines.line.read l = x → x.candidate = some k → k.active = !x.active →
    k.instant + 10 * (s.entry l).debounce ≤ instant →
    lines = { s.lines with line := s.lines.line.write l { high := x.high, active := k.active, candidate := none } } →
    (∀ c, (s.entry l).kind = .defrost → (s.entry l).comp = some c →
      ∃ t, exec (.lineEvent l instant) s = .next t ∧
        t = { s with lines := lines, mon := t.mon, marks := t.marks } ∧ (∀ d, d ≠ c → t.mon.read d = s.mon.read d) ∧
        (s.inUse c = false ∨ t.defrostIndication c = s.defrostIndication c → t.mon = s.mon ∧ t.marks = s.marks) ∧
        (s.inUse c = true → s.defrostIndication c = false → t.defrostIndication c = true →
          t.mon.read c = { s.mon.read c with defrost := .allow, elapsed := 0 } ∧
          t.marks = s.marks ++ [.defrost c .allow 0]) ∧
        (s.inUse c = true → s.defrostIndication c = true → t.defrostIndication c = false →
          t.mon.read c = { s.mon.read c with defrost := .none } ∧
          t.marks = s.marks ++ if (s.mon.read c).defrost = .none then [] else [.defrost c .none (s.mon.read c).elapsed])) ∧
    ((s.entry l).kind = .unitFault → ∃ t, exec (.lineEvent l instant) s = .next t ∧
      t = { s with lines := lines, marks := t.marks, ports := t.ports } ∧
      t.marks = s.marks ++ ((List.finRange 4).filter fun c => s.inUse c && s.unitFault c != t.unitFault c).map (fun c =>
        .unit c .unitFault (t.unitFault c) 0) ∧
      ((∀ c, s.inUse c = true → t.unitFault c = s.unitFault c) → t.ports = s.ports) ∧
      ((∃ c, s.inUse c = true ∧ t.unitFault c ≠ s.unitFault c) → t.ports = (s.raise .unit).ports)) ∧
    ((s.entry l).kind = .park → ∃ t, exec (.lineEvent l instant) s = .next t ∧
      t = { s with lines := lines, ctl := t.ctl, fe := t.fe, marks := t.marks, ports := t.ports } ∧
      (s.parkCondition = false ∨ t.parkCondition = true ∨ (s.ctl.mode ≠ .parked ∧ s.ctl.mode ≠ .dormant) →
        t = { s with lines := lines }) ∧
      (s.parkCondition = true → t.parkCondition = false → ∀ m, s.ctl.mode = .parked ∧ m = .service ∨
          s.ctl.mode = .dormant ∧ m = .waking →
        t.ctl.mode = m ∧ t.ctl.heldMode = m ∧ t.marks = s.marks ++ [.mode s.ctl.mode m .parkEnded] ∧
        t.ctl.warmUpEnd = (if m = .waking then some (s.now + 5) else none) ∧
        ∀ q, hasKind (t.ports.at q).pending .mode = true))

/-! ## Zones and the compartment monitor (file 03) -/

/-- R9, R41, R42, R52: SET_COMPARTMENT stores the entry and answers with it and the assignment lists of the probes it names.
A probe whose list of served compartments changes starts UNKNOWN, or becomes UNUSED when it serves none; every other probe is
kept. A compartment put into use starts from the indications that stand; one taken out of use closes its phases and loses its
interval state; SETPOINT_CONFLICT is decided again. A secondary without a primary, or equal to it, is refused. The lists'
members (compartment and role) are laid out by log 15, and that the elapsed count is kept while the defrost phase is NONE is
log 39's choice; the run count 0 of an UNUSED probe is log 56's, and that SENSOR_LOST is gone without an event is log 57's.
-/
def Obligations.CompartmentEditsTakeEffectAtOnce : Prop :=
  ∀ (h : Header) (comp inUse : Byte) (zone primary secondary : Option Byte) (s : State) (c : Fin 4) (e : CompConfig),
    Editable h s → comp.toNat = c.val → yesNo inUse = some e.inUse → optIndex 4 zone = some e.zone →
    optIndex 8 primary = some e.primary → optIndex 8 secondary = some e.secondary →
    (e.secondary ≠ none ∧ (e.primary = none ∨ e.primary = e.secondary) →
      exec (.setCompartment h comp inUse zone primary secondary) s = .next (s.respond h .badArgument [])) ∧
    (e.secondary = none ∨ (e.primary ≠ none ∧ e.primary ≠ e.secondary) →
      ∃ t : State, exec (.setCompartment h comp inUse zone primary secondary) s = .next t ∧
        s.answered t h .ok (flag e.inUse ++ present e.zone 1 (fun i => u8 i.val) ++
          present e.primary 1 (fun i => u8 i.val) ++ present e.secondary 1 (fun i => u8 i.val) ++
          ((List.finRange 8).filter fun i => e.primary = some i ∨ e.secondary = some i).flatMap
            (assignmentBytes (s.ctl.working.comps.write c e))) ∧
        t = { s with
          ctl := { s.ctl with working := { s.ctl.working with comps := s.ctl.working.comps.write c e } }
          fe := { s.fe with probes := t.fe.probes, round := t.fe.round, air := t.fe.air }
          mon := t.mon
          cons := t.cons
          hist := { s.hist with intervals := t.hist.intervals }
          marks := t.marks
          ports := t.ports } ∧
        (∀ p, t.fe.probes.read p =
          if (assignment s.ctl.working.comps p).map Prod.fst = (assignment (s.ctl.working.comps.write c e) p).map Prod.fst then
            s.fe.probes.read p
          else { status := if assigned (s.ctl.working.comps.write c e) p then .unknown else .unused, run := 0, raw := none,
                 reading := none, held := none }) ∧
        (∀ d, d ≠ c → t.mon.read d = { s.mon.read d with conflict := s.conflictNow d } ∧
          t.fe.air.read d = s.fe.air.read d ∧ t.hist.intervals.read d = s.hist.intervals.read d) ∧
        ((t.mon.read c).conflict = true ↔ e.inUse = true ∧ ∃ z v, e.zone = some z ∧ (s.mon.read c).setpoint = some v ∧
          (s.ctl.working.zones.read z).nominal < v) ∧
        (e.inUse = s.inUse c → t.mon.read c = { s.mon.read c with conflict := (t.mon.read c).conflict } ∧
          t.fe.air.read c = s.fe.air.read c ∧ t.hist.intervals.read c = s.hist.intervals.read c) ∧
        (e.inUse = true → s.inUse c = false →
          t.mon.read c = { s.mon.read c with
            door := if s.doorOpen c then .allow else .closed
            openStart := if s.doorOpen c then some s.now else none
            recovery := none
            overstayDue := false
            defrost := if s.defrostIndication c then .allow else .none
            elapsed := if s.defrostIndication c then 0 else (s.mon.read c).elapsed
            excursion := .clear
            pending := 0
            estimate := none
            startDue := true
            conflict := (t.mon.read c).conflict } ∧
          t.fe.air.read c =
            { a := none, clamped := false, suspect := false, held := false, lost := false, contributors := [] }) ∧
        (e.inUse = false → s.inUse c = true →
          t.mon.read c = { s.mon.read c with
            door := .closed
            openStart := none
            recovery := none
            overstayDue := false
            defrost := .none
            excursion := .clear
            pending := 0
            estimate := none
            startDue := true
            conflict := false } ∧
          t.hist.intervals.read c = none))

/-- R43, R45: SET_ZONE clamps each field given to its own range, keeps the fields not given, then raises the door and defrost
allowances to the nominal limit and the soften temperature to theta. The status is CLAMPED when a field given is not stored
as given or a raise changed a field. The answer is the whole profile. No field, a field named twice and a field outside the
sixteen are refused. -/
def Obligations.ZoneEditsAreClampedInTwoPasses : Prop :=
  ∀ (h : Header) (zone : Byte) (fields : List (Byte × BitVec 32)) (s : State) (z : Fin 4), Editable h s →
    zone.toNat = z.val →
    ((fields = [] ∨ ¬ (fields.map Prod.fst).Nodup ∨ ∃ x ∈ fields, 16 ≤ x.1.toNat) →
      exec (.setZone h zone fields) s = .next (s.respond h .badArgument [])) ∧
    (fields ≠ [] → (fields.map Prod.fst).Nodup → (∀ x ∈ fields, x.1.toNat < 16) →
      ∃ (t : State) (first : ZoneField → Int) (new : Zone), exec (.setZone h zone fields) s = .next t ∧
        (∀ f, ((∀ x ∈ fields, zoneField x.1 ≠ some f) → first f = (s.ctl.working.zones.read z).field f) ∧
          ∀ x ∈ fields, zoneField x.1 = some f → first f = max f.range.1 (min f.range.2 x.2.toInt)) ∧
        (∀ f, new.field f =
          if f = .doorAllowance ∨ f = .defrostAllowance then max (first f) (first .nominal)
          else if f = .soften then max (first f) (first .theta)
          else first f) ∧
        t = { s with
          ctl := { s.ctl with working := { s.ctl.working with zones := s.ctl.working.zones.write z new } }
          mon := t.mon, cons := t.cons, marks := t.marks, ports := t.ports } ∧
        (∀ c, t.mon.read c = { s.mon.read c with conflict := t.conflictNow c }) ∧
        ∃ st, s.answered t h st (ZoneField.all.flatMap fun f => i32 (new.field f)) ∧ (st = .ok ∨ st = .clamped) ∧
          (st = .clamped ↔ (∃ f, new.field f ≠ first f) ∨
            ∃ x ∈ fields, ∃ f, zoneField x.1 = some f ∧ new.field f ≠ x.2.toInt))

/-- R49, R50, R51, in every mode but START: REPORT_DEFROST and REPORT_UNIT set the compartment's report. Where the
compartment is in use and its indication (line or report) changes, the defrost phase starts at ALLOW with count 0 or ends,
with its DEFROST mark; a changed unit-fault indication requests its UNIT mark and makes UNIT pending on every port. That the
elapsed count is kept at the end of the phase, and carried by the mark of that end, is log 39's choice. -/
def Obligations.RefrigerationReportsDriveTheIndications : Prop :=
  ∀ (h : Header) (comp report : Byte) (s : State) (c : Fin 4) (on : Bool) (m : Compartment), Taken .unitReport h s →
    comp.toNat = c.val → yesNo report = some on → s.mon.read c = m →
    (s.inUse c = true → s.defrostIndication c = false → on = true →
      exec (.reportDefrost h comp report) s = .next (({ s with
        mon := s.mon.write c { m with defrostReport := true, defrost := .allow, elapsed := 0 }
        marks := s.marks ++ [.defrost c .allow 0] } : State).respond h .ok (u8 c.val ++ flag true ++ flag true ++ u8 1))) ∧
    (s.inUse c = true → s.defrostIndication c = true → s.defrostLine c = false → on = false →
      exec (.reportDefrost h comp report) s = .next (({ s with
        mon := s.mon.write c { m with defrostReport := false, defrost := .none }
        marks := s.marks ++ if m.defrost = .none then [] else [.defrost c .none m.elapsed] } : State).respond h .ok
          (u8 c.val ++ flag false ++ flag false ++ u8 0))) ∧
    (s.inUse c = false ∨ (s.defrostLine c || on) = s.defrostIndication c →
      exec (.reportDefrost h comp report) s = .next (({ s with mon := s.mon.write c { m with defrostReport := on } } : State).respond
        h .ok (u8 c.val ++ flag on ++ flag (s.defrostLine c || on) ++ u8 m.defrost.code))) ∧
    (s.inUse c = true → (s.unitLine || on) ≠ s.unitFault c →
      exec (.reportUnit h comp report) s = .next (({ s with
        mon := s.mon.write c { m with unitReport := on }
        marks := s.marks ++ [.unit c .unitFault (s.unitLine || on) 0]
        ports := (s.raise .unit).ports } : State).respond h .ok
          (u8 c.val ++ flag on ++ flag (s.unitLine || on) ++ flag (s.unitLine || on)))) ∧
    (s.inUse c = false ∨ (s.unitLine || on) = s.unitFault c →
      exec (.reportUnit h comp report) s = .next (({ s with mon := s.mon.write c { m with unitReport := on } } : State).respond h
        .ok (u8 c.val ++ flag on ++ flag (s.unitLine || on) ++ flag (s.unitLine || on))))

/-- R52, R53, R54, in every mode but START: REPORT_SETPOINT stores the setpoint clamped to −5,500 to +8,500. SETPOINT_CONFLICT
stands in a compartment in use whose setpoint lies above its zone's nominal limit; its rise sets SETPOINT_CONFLICT_SEEN on
every consignment in custody there and makes UNIT pending, and a changed setpoint or conflict requests one SETPOINT mark. That
the value 0x8000 is clamped as any other is the model's choice (log 69). -/
def Obligations.SetpointReportsDecideTheConflict : Prop :=
  ∀ (h : Header) (comp : Byte) (value : BitVec 16) (s : State) (c : Fin 4) (z : Zone) (v : Int) (rise : Bool),
    Taken .unitReport h s → comp.toNat = c.val → s.inUse c = true → s.zoneOf c = some z →
    v = max (-5500) (min 8500 value.toInt) → rise = (!(s.mon.read c).conflict && decide (z.nominal < v)) →
    exec (.reportSetpoint h comp value) s = .next (({ s with
        mon := s.mon.write c { s.mon.read c with setpoint := some v, conflict := decide (z.nominal < v) }
        cons := s.cons.mapIdx fun _ x => x.map fun y =>
          if rise ∧ y.inCustody = true ∧ y.comp = c then { y with conflictSeen := true } else y
        marks := s.marks ++ if (s.mon.read c).setpoint ≠ some v ∨ (s.mon.read c).conflict ≠ decide (z.nominal < v)
          then [.setpoint c (some v) (decide (z.nominal < v))] else []
        ports := if rise then (s.raise .unit).ports else s.ports } : State).respond h
      (if v = value.toInt then .ok else .clamped)
      (u8 c.val ++ i16 v ++ flag (decide (z.nominal < v)) ++ i16 z.nominal))

/-- R31, R32, R47: an advance that brought recorder time past the door open limit takes the compartment's door phase from
ALLOW to OVERSTAY, with a UNIT event, a UNIT mark that carries the open start second (its new-state byte is log 15's), and
OVERSTAY on every open episode there. A publication raises the peak of every open episode whose compartment has an air value
and is not SENSOR_LOST. -/
def Obligations.OverstayAndPeaksReachTheEpisodes : Prop :=
  (∀ (c : Fin 4) (s : State) (z : Zone) (b : Nat), (s.mon.read c).overstayDue = true → s.inUse c = true →
    s.zoneOf c = some z → (s.mon.read c).door = .allow → (s.mon.read c).openStart = some b → (b : Int) + z.doorOpenLimit < (s.now : Int) →
    exec (.doorOverstay c) s = .next { s with
      mon := s.mon.write c { s.mon.read c with door := .overstay, overstayDue := false }
      lines := { s.lines with
        log := s.lines.log.map fun e => if e.comp = c ∧ e.stop = none then { e with overstay := true } else e }
      marks := s.marks ++ [.unit c .doorOverstay true b]
      ports := (s.raise .unit).ports }) ∧
  ∀ (s : State) (p : Publication) (rest : List Publication), s.pubs.line = p :: rest →
    ∃ t, exec .episodePeakUpdate s = .next t ∧
      t = { s with pubs := { s.pubs with line := rest }, lines := { s.lines with log := t.lines.log } } ∧
      t.lines.log.length = s.lines.log.length ∧
      ∀ (i : Nat) (e : Episode), s.lines.log[i]? = some e →
        (∀ r a, e.stop = none → p.air.read e.comp = some r → r.lost = false → r.a = some a →
          t.lines.log[i]? = some { e with peak := some (match e.peak with | none => a | some q => max q a) }) ∧
        (e.stop ≠ none ∨ p.air.read e.comp = none ∨ (∃ r, p.air.read e.comp = some r ∧ (r.lost = true ∨ r.a = none)) →
          t.lines.log[i]? = some e)

/-- R40, R55, R56, R57, R58. A compartment not in use, without a zone or without a primary probe has no limit in effect. For
one in use with both and with an air value, at a publication taken in SERVICE or PARKED: the limit in effect is the highest of
the nominal limit and the allowances that stand, and the excursion state, the pending count and ALARM follow the table of R56:
ALARM is raised where ACTIVE is entered, and is as it was where no compartment enters it. The estimate takes the air when its
start is due; otherwise a service round makes one filter step and a parked round six, each on the same air. One that is
SENSOR_LOST or without air in the publication, or without a zone, keeps excursion state, count, estimate and due start. The
row EXCURSION_ACTIVE is that publication where it brings ACTIVE about (log 6). -/
def Obligations.AirIsJudgedAgainstTheLimit : Prop :=
  (∀ (s : State) (c : Fin 4), s.inUse c = false ∨ s.zoneOf c = none ∨ (s.config c).primary = none → s.limit c = none) ∧
  (∀ (s : State) (p : Publication) (rest : List Publication) (c : Fin 4), s.pubs.monitor = p :: rest →
    s.zoneOf c = none ∨ (∀ r, p.air.read c = some r → r.lost = true ∨ r.a = none) →
    ∃ t, exec .airExcursionEvaluation s = .next t ∧ (t.mon.read c).excursion = (s.mon.read c).excursion ∧
      (t.mon.read c).pending = (s.mon.read c).pending ∧ (t.mon.read c).estimate = (s.mon.read c).estimate ∧
      (t.mon.read c).startDue = (s.mon.read c).startDue) ∧
  ∀ (s : State) (p : Publication) (rest : List Publication) (c : Fin 4) (z : Zone) (r : AirRecord) (a l : Int) (m : Compartment),
    s.pubs.monitor = p :: rest → s.ctl.mode = .service ∨ s.ctl.mode = .parked → s.inUse c = true → s.zoneOf c = some z →
    (s.config c).primary ≠ none → p.air.read c = some r → r.lost = false → r.a = some a → s.mon.read c = m →
    l = max (if m.door = .allow ∨ m.door = .recovery then max z.nominal z.doorAllowance else z.nominal)
      (if m.defrost = .allow then z.defrostAllowance else z.nominal) →
    s.limit c = some l ∧ ∃ t, exec .airExcursionEvaluation s = .next t ∧
      t = { s with pubs := { s.pubs with monitor := rest }, mon := t.mon, marks := t.marks, ports := t.ports } ∧
      (m.excursion = .clear → a ≤ l → (t.mon.read c).excursion = .clear ∧ (t.mon.read c).pending = m.pending) ∧
      (m.excursion = .clear → l < a → z.alarmDelay ≠ 0 →
        (t.mon.read c).excursion = .pending ∧ (t.mon.read c).pending = 0) ∧
      (m.excursion = .pending → l < a → ((min (m.pending + if p.parked then 6 else 1) 60 : Nat) : Int) < z.alarmDelay →
        (t.mon.read c).excursion = .pending ∧ (t.mon.read c).pending = min (m.pending + if p.parked then 6 else 1) 60) ∧
      (m.excursion = .pending → a ≤ l → (t.mon.read c).excursion = .clear ∧ (t.mon.read c).pending = 0) ∧
      (m.excursion = .active → a ≤ l - z.hysteresis → (t.mon.read c).excursion = .clear ∧ (t.mon.read c).pending = 0) ∧
      (m.excursion = .active → l - z.hysteresis < a →
        (t.mon.read c).excursion = .active ∧ (t.mon.read c).pending = m.pending) ∧
      ((m.excursion = .clear ∧ l < a ∧ z.alarmDelay = 0) ∨ (m.excursion = .pending ∧ l < a ∧
          z.alarmDelay ≤ ((min (m.pending + if p.parked then 6 else 1) 60 : Nat) : Int)) →
        exec (.excursionActive c) s = .next t ∧ (t.mon.read c).excursion = .active ∧
          (t.mon.read c).pending = (if m.excursion = .clear then 0 else min (m.pending + if p.parked then 6 else 1) 60) ∧
          ∀ q, hasKind (t.ports.at q).pending .alarm = true) ∧
      ((∀ d, (t.mon.read d).excursion = .active → (s.mon.read d).excursion = .active) →
        ∀ q, hasKind (t.ports.at q).pending .alarm = hasKind (s.ports.at q).pending .alarm) ∧
      (t.mon.read c).startDue = false ∧
      ∀ f : Int → Int, f = (fun e => e + ((a - e) * z.k + 128) / 256) → (t.mon.read c).estimate =
        match m.startDue, m.estimate with
        | false, some e => some (if p.parked then f (f (f (f (f (f e))))) else f e)
        | _, _ => some a

/-- R48, R49: each publication counts the recovery of a compartment in use down and its defrost count up (to 540) by the
round-equivalents. The recovery that comes to 0 ends in CLOSED; the defrost phase ALLOW whose count reaches the zone's
maximum becomes OVERRUN, with its mark and a UNIT event. RECOVERY_END and DEFROST_OVERRUN are that publication (log 6). -/
def Obligations.RecoveryAndDefrostAreCounted : Prop :=
  ∀ (s : State) (p : Publication) (rest : List Publication) (c : Fin 4) (n : Nat), s.pubs.monitor = p :: rest →
    s.inUse c = true → n = (if p.parked then 6 else 1) →
    (∀ k, (s.mon.read c).door = .recovery → (s.mon.read c).recovery = some k →
      (k ≤ n → ∃ t, exec (.recoveryEnd c) s = .next t ∧
        t = { s with pubs := { s.pubs with monitor := rest }, mon := t.mon, marks := t.marks, ports := t.ports } ∧
        (t.mon.read c).door = .closed ∧ (t.mon.read c).recovery = none) ∧
      (n < k → ∃ t, exec .airExcursionEvaluation s = .next t ∧ (t.mon.read c).door = .recovery ∧
        (t.mon.read c).recovery = some (k - n))) ∧
    (∀ z, s.zoneOf c = some z → (s.mon.read c).defrost = .allow →
      (z.defrostMax ≤ ((min ((s.mon.read c).elapsed + n) 540 : Nat) : Int) → ∃ t, exec (.defrostOverrun c) s = .next t ∧
        t = { s with pubs := { s.pubs with monitor := rest }, mon := t.mon, marks := t.marks, ports := t.ports } ∧
        (t.mon.read c).defrost = .overrun ∧ (t.mon.read c).elapsed = min ((s.mon.read c).elapsed + n) 540 ∧
        Mark.defrost c .overrun (min ((s.mon.read c).elapsed + n) 540) ∈ t.marks ∧
        ∀ q, hasKind (t.ports.at q).pending .unit = true) ∧
      (((min ((s.mon.read c).elapsed + n) 540 : Nat) : Int) < z.defrostMax → ∃ t, exec .airExcursionEvaluation s = .next t ∧
        (t.mon.read c).defrost = .allow ∧ (t.mon.read c).elapsed = min ((s.mon.read c).elapsed + n) 540))

/-! ## The exposure engine (file 04) -/

/-- R64 to R69, R72, R74, R75, R77: one sub-step of a consignment. With an air value the estimate is filtered, or set with
armed decided when there was none; while the compartment is SENSOR_LOST (`air` none) it is frozen and the lost count grows.
Then the increment goes into the bucket of the class, which holds at 16,777,215 with SATURATED, and the heat-shock state and
the peak follow. Without an estimate the later stages do not run. -/
def Obligations.SubStepRunsTheFiveStages : Prop :=
  ∀ (x y : Exposure) (z : Zone) (air : Option Int) (k : DoseClass), x.subStep z air k = y →
    y.triggered = x.triggered ∧
    (∀ a e, air = some a → x.e = some e → y.e = some (e + ((a - e) * z.k + 128) / 256)) ∧
    (∀ a, air = some a → x.e = none → y.e = some a) ∧
    (air ≠ none → y.lost = x.lost ∧ y.lostSeen = x.lostSeen) ∧
    (air = none → y.e = x.e ∧ y.lost = min (x.lost + 1) 65535 ∧ y.lostSeen = true) ∧
    (y.e = none → y = { x with lost := min (x.lost + 1) 65535, lostSeen := true }) ∧
    ∀ (e : Int) (inc : Nat) (armed : Bool), y.e = some e →
      inc = (if e ≤ z.theta then 0 else ((8 * (min e z.soften - z.theta) + z.weight * max 0 (e - z.soften) + 4) / 8).toNat) →
      armed = (if x.e = none then decide (e ≤ z.soften) else x.armed) →
      (∀ q, y.buckets.at q = if q = k then min (x.buckets.at q + inc) 16777215 else x.buckets.at q) ∧
      y.saturated = (x.saturated || decide (16777215 < x.buckets.at k + inc)) ∧
      (armed = true → z.soften < e → y.shocks = min (x.shocks + 1) 255 ∧ y.armed = false) ∧
      (armed = true → e ≤ z.soften → y.shocks = x.shocks ∧ y.armed = true) ∧
      (armed = false → e ≤ z.soften - z.shockHysteresis → y.shocks = x.shocks ∧ y.armed = true) ∧
      (armed = false → z.soften - z.shockHysteresis < e → y.shocks = x.shocks ∧ y.armed = false) ∧
      y.peak = some (match x.peak with | none => e | some q => max q e)

/-- R64, R71, R73, R76, R78, R79: the engine takes a publication. Every consignment in custody is stepped by one sub-step
(O27), or by six in succession on a parked round, all on one air and in the class that stands; each cause whose limit is
passed joins the triggered set, and each cause newly triggered is handed on as a claim request. A consignment out of custody
is left alone. -/
def Obligations.EngineStepsEveryConsignmentInCustody : Prop :=
  ∀ (s : State) (p : Publication) (rest : List Publication), s.pubs.engine = p :: rest →
    ∃ t, exec .exposureStep s = .next t ∧
      t = { s with
        pubs := { s.pubs with engine := rest }
        cons := t.cons
        claims := { s.claims with requests := t.claims.requests } } ∧
      s.claims.requests <+: t.claims.requests ∧
      (∀ j, s.cons.read j = none → t.cons.read j = none) ∧
      (∀ j x, s.cons.read j = some x → x.inCustody = false → t.cons.read j = some x) ∧
      ∀ (j : Fin 32) (x : Consignment) (z : Zone) (r : AirRecord) (k : DoseClass) (w : Exposure) (past : BitVec 5)
        (f : Exposure → Exposure), s.cons.read j = some x → x.inCustody = true → s.zoneOf x.comp = some z →
        p.air.read x.comp = some r →
        r.lost = true ∨ r.a ≠ none →
        k = (if s.unitFault x.comp then .unit else if (s.mon.read x.comp).defrost ≠ .none then .defrost
          else if (s.mon.read x.comp).door ≠ .closed then .door else .other) →
        f = (fun y => y.subStep z (if r.lost then none else r.a) k) →
        w = (if p.parked then f (f (f (f (f (f x.exposure))))) else f x.exposure) →
        past = (if z.doseLimit < ((x.carriedDose.getD 0 + (w.buckets.other + w.buckets.door + w.buckets.defrost + w.buckets.unit)
              : Nat) : Int) then causeDose else 0#5) |||
            (match w.e with | some e => if z.hardLimit < e then causeHard else 0#5 | none => 0#5) |||
            (if z.shockLimit < ((min (x.carriedShocks.getD 0 + w.shocks) 255 : Nat) : Int) then causeShock else 0#5) |||
            (if 30 ≤ w.lost then causeSensor else 0#5) →
        t.cons.read j = some { x with exposure := { w with triggered := x.exposure.triggered ||| past } } ∧
        ∀ i : Fin 5, past.getLsbD i.val = true → x.exposure.triggered.getLsbD i.val = false →
          ({ slot := j, id := x.id, cause := single i, comp := x.comp, second := p.second } : ClaimRequest) ∈ t.claims.requests

/-! ## The manifest (file 05) -/

/-- R85 to R88, R200: LIST, in SETUP, SERVICE or PARKED, of a new id into a compartment in use fills the lowest-numbered free
slot with a LISTED consignment that carries the arguments, the carried dose clamped to 16,777,215 and the load estimate to
−5,500 to +8,500; an estimate of 0x8000 counts as omitted. Nothing else changes. That armed is no until E is set is log 44's
choice. -/
def Obligations.ListFillsTheLowestFreeSlot : Prop :=
  ∀ (h : Header) (id : BitVec 32) (comp stop : Byte) (dose : Option (BitVec 32)) (shock : Option Byte)
    (source : Option (BitVec 32)) (estimate : Option (BitVec 16)) (s : State) (c : Fin 4) (j : Fin 32) (d : Option Nat)
    (e : Option Int), Taken .manifest h s → s.ctl.mode = .setup ∨ s.ctl.mode = .service ∨ s.ctl.mode = .parked →
    comp.toNat = c.val → s.inUse c = true → stop ≠ 0#8 → source ≠ some 0#32 →
    (∀ i x, s.cons.read i = some x → x.id ≠ id) → s.cons.read j = none → (∀ i, i < j → s.cons.read i ≠ none) →
    d = dose.map (fun w => min 16777215 w.toNat) →
    e = (if estimate = some 0x8000#16 then none else estimate.map fun w => max (-5500) (min 8500 w.toInt)) →
    exec (.list h id comp stop dose shock source estimate) s = .next
      (({ s with cons := s.cons.write j (some
          { id := id, state := .listed, comp := c, stop := stop.toNat, carriedDose := d,
            carriedShocks := shock.map BitVec.toNat, source := source.map BitVec.toNat, loadEstimate := e,
            custodyStart := none, custodyEnd := none, startSequence := none, loadMarkOutstanding := false,
            doorSeconds := 0, doorBase := none, episodes := 0, claimed := 0#5, claim := none, outageSeen := false,
            conflictSeen := false, claimOverflow := false, lastContextExpired := false, receipt := none,
            exposure :=
              { e := none, armed := false, shocks := 0, buckets := { other := 0, door := 0, defrost := 0, unit := 0 },
                peak := none, lost := 0, triggered := 0#5, saturated := false, lostSeen := false } }) } : State).respond h
        (if d = dose.map BitVec.toNat ∧ (estimate = none ∨ estimate = some 0x8000#16 ∨ e = estimate.map BitVec.toInt)
          then .ok else .clamped)
        (u8 j.val ++ word32 id ++ u8 c.val ++ u8 stop.toNat ++ present d 4 u32 ++
          present (shock.map BitVec.toNat) 1 u8 ++ optNumber (source.map BitVec.toNat) ++ temp e ++ u8 0))

/-- R54, R63, R89, R90, R178: LOAD, in SERVICE, PARKED, WAKING or DORMANT, of a LISTED consignment whose compartment is in
use takes it ABOARD: custody starts, the door base is read, a LOAD mark is requested and outstanding, a standing conflict
flags it, and a load estimate (the command's, or the listed one) sets E, the peak and armed. In DORMANT the part wakes. That
the LOAD mark comes before the MODE mark is log 49's choice. -/
def Obligations.LoadTakesCustody : Prop :=
  ∀ (h : Header) (id : BitVec 32) (estimate : Option (BitVec 16)) (s : State) (j : Fin 32) (x : Consignment) (z : Zone)
    (g v : Option Int), Taken .manifest h s →
    s.ctl.mode = .service ∨ s.ctl.mode = .parked ∨ s.ctl.mode = .waking ∨ s.ctl.mode = .dormant →
    s.byId id = some (j, x) → x.state = .listed → s.inUse x.comp = true → s.zoneOf x.comp = some z →
    g = (if estimate = some 0x8000#16 then none else estimate.map fun w => max (-5500) (min 8500 w.toInt)) →
    v = (match g with | some a => some a | none => x.loadEstimate) →
    ∃ t : State, exec (.load h id estimate) s = .next t ∧
      t = { s with cons := t.cons, marks := t.marks, ctl := t.ctl, fe := t.fe, ports := t.ports } ∧
      t.cons = s.cons.write j (some { x with
        state := .aboard
        loadEstimate := v
        custodyStart := some s.now
        doorBase := some (s.lines.counters.read x.comp)
        loadMarkOutstanding := true
        conflictSeen := x.conflictSeen || (s.mon.read x.comp).conflict
        exposure := match v with
          | some a => { x.exposure with e := some a, peak := some a, armed := decide (a ≤ z.soften) }
          | none => x.exposure }) ∧
      s.answered t h
        (if estimate = none ∨ estimate = some 0x8000#16 ∨ g = estimate.map BitVec.toInt then .ok else .clamped)
        (u8 j.val ++ u8 1 ++ u32 s.now ++ temp (match v with | some a => some a | none => x.exposure.e) ++ temp v) ∧
      (s.ctl.mode ≠ .dormant → t.ctl = s.ctl ∧ t.fe = s.fe ∧ t.marks = s.marks ++ [.load j x.comp id x.stop s.now v]) ∧
      (s.ctl.mode = .dormant → t.ctl.mode = .waking ∧ t.ctl.warmUpEnd = some (s.now + 5) ∧
        t.marks = s.marks ++ [.load j x.comp id x.stop s.now v, .mode .dormant .waking .load])

/-- R54, R87, R92, R93, R97: MOVE of a consignment ABOARD or RETURNED into a compartment in use closes off its door seconds
against the old compartment's counter, reads the new one's as base, requests a MOVE mark and answers with both compartments.
A consignment HANDING_OVER is answered BUSY, one out of custody BAD_STATE. The four-byte door seconds of the answer are
log 15's. -/
def Obligations.MoveClosesOffTheDoorSeconds : Prop :=
  ∀ (h : Header) (id : BitVec 32) (comp : Byte) (s : State) (j : Fin 32) (x : Consignment) (c : Fin 4), Taken .manifest h s →
    s.ctl.mode = .service ∨ s.ctl.mode = .parked ∨ s.ctl.mode = .waking ∨ s.ctl.mode = .dormant →
    comp.toNat = c.val → s.byId id = some (j, x) →
    (x.state = .handingOver → exec (.move h id comp) s = .next (s.respond h .busy [])) ∧
    (x.state = .listed ∨ x.state = .delivered ∨ x.state = .unloaded →
      exec (.move h id comp) s = .next (s.respond h .badState [])) ∧
    (x.state = .aboard ∨ x.state = .returned → s.inUse c = false →
      exec (.move h id comp) s = .next (s.respond h .badArgument [])) ∧
    ∀ (b : BitVec 32) (n : Nat), x.state = .aboard ∨ x.state = .returned → s.inUse c = true → x.doorBase = some b →
      n = min (x.doorSeconds + (s.lines.counters.read x.comp - b).toNat) 4294967295 →
      exec (.move h id comp) s = .next (({ s with
          cons := s.cons.write j (some { x with
            comp := c
            doorSeconds := n
            doorBase := some (s.lines.counters.read c)
            conflictSeen := x.conflictSeen || (s.mon.read c).conflict })
          marks := s.marks ++ [.move j c x.comp id n] } : State).respond h .ok
        (u8 j.val ++ u8 x.comp.val ++ u8 c.val ++ u32 n ++ word32 (s.lines.counters.read c)))

/-- R87, R93, R99, R100, R118: UNLOAD of a consignment ABOARD or RETURNED, with no claim request outstanding, ends its
custody: the door seconds are closed off, a GATHERING claim is frozen to OPEN with its snapshot, and an UNLOAD mark is
requested; a claim that is not GATHERING is left as it is. DROP frees the slot of a consignment out of custody without a
claim reference. The four-byte custody and door seconds of the answer are log 15's. -/
def Obligations.UnloadAndDropEndTheOccupancy : Prop :=
  ∀ (h : Header) (id : BitVec 32) (s : State) (j : Fin 32) (x : Consignment), Taken .manifest h s → s.byId id = some (j, x) →
    (x.state = .handingOver → exec (.unload h id) s = .next (s.respond h .busy []) ∧
      exec (.drop h id) s = .next (s.respond h .busy [])) ∧
    (x.state = .listed ∨ x.state = .delivered ∨ x.state = .unloaded →
      exec (.unload h id) s = .next (s.respond h .badState []) ∧
      (x.claim ≠ none → exec (.drop h id) s = .next (s.respond h .claimHeld [])) ∧
      (x.claim = none → exec (.drop h id) s = .next
        (({ s with cons := s.cons.write j none } : State).respond h .ok (u8 j.val ++ word32 id)))) ∧
    (x.state = .aboard ∨ x.state = .returned → exec (.drop h id) s = .next (s.respond h .badState []) ∧
      ∀ (b : BitVec 32) (n start : Nat) (y : Consignment), s.claims.requests = [] → x.doorBase = some b →
        x.custodyStart = some start → x.custodyEnd = none →
        n = min (x.doorSeconds + (s.lines.counters.read x.comp - b).toNat) 4294967295 →
        y = { x with doorSeconds := n, doorBase := none, custodyEnd := some s.now, state := .unloaded } →
        ((∀ i k, s.claimOf x = some (i, k) → k.state ≠ .gathering) → exec (.unload h id) s = .next (({ s with
            cons := s.cons.write j (some y)
            marks := s.marks ++ [.unload j x.comp x.id (s.now - start) n x.episodes x.ownDose x.totalDose] } : State).respond
          h .ok (u8 j.val ++ u8 5 ++ u32 (s.now - start) ++ u32 n ++ optNumber x.claim))) ∧
        ∀ (i : Fin 16) (k : Claim), s.claimOf x = some (i, k) → k.state = .gathering →
          exec (.unload h id) s = .next (({ s with
            cons := s.cons.write j (some y)
            claims := { s.claims with table := s.claims.table.write i (some { k with
              state := .opened
              last := some (k.last.getD s.hist.newest)
              snapshot := some { buckets := x.exposure.buckets, shocks := x.totalShocks, peak := x.exposure.peak,
                                 e := x.exposure.e }
              receipt := none }) }
            marks := s.marks ++ [.claimFrozen k.number .opened (k.last.getD s.hist.newest) k.frontCut k.endCut 0,
              .unload j x.comp x.id (s.now - start) n x.episodes x.ownDose x.totalDose] } : State).respond
          h .ok (u8 j.val ++ u8 5 ++ u32 (s.now - start) ++ u32 n ++ optNumber x.claim)))

/-! ## Claims (file 06) -/

/-- R106, R108, R109, R112, R114, R115, R122, while the part runs: the next claim request, of a consignment in custody.
Without a claim it opens one in the lowest free slot, with the next number and every cause not yet claimed. Its window starts
at the start sequence or the lowest covered-back one, whichever is higher; past the newest while the LOAD mark is outstanding;
or, where that mark was lost, at the lowest covered-back record of the custody's time. Where its sectors do not fit the budget
it starts at the first sequence of a sector, or past the newest, at the lowest of these places that fits, and where none fits
it is empty. A GATHERING claim takes the cause with a mark, once; any other claim is left as it is. With no free slot
CLAIM_OVERFLOW is set. For a cause claimed already, by a claim that is gone, nothing follows (log 58). Opening and adding
raise CLAIM, and so does the overflow. Covered back, beyond the newest record, is read in log 21. That no sector counts as
being written while none is WRITING, after a FACTORY_CLEAR, is the model's choice (log 73). -/
def Obligations.ClaimRequestsOpenOrExtendAClaim : Prop :=
  ∀ (s : State) (r : ClaimRequest) (rest : List ClaimRequest) (x : Consignment), s.powered = true →
    s.claims.requests = r :: rest → s.cons.read r.slot = some x → x.id = r.id → x.inCustody = true →
    (x.claim = none → x.claimed &&& r.cause = r.cause →
      exec .claimRequest s = .next { s with claims := { s.claims with requests := rest } }) ∧
    (∀ i, x.claim = none → x.claimed &&& r.cause ≠ r.cause → s.claims.table.read i = none →
      (∀ a, a < i → s.claims.table.read a ≠ none) →
      ∃ t k, exec .claimRequest s = .next t ∧
        t = { s with
          claims := { table := s.claims.table.write i (some k), counter := k.number, pins := t.claims.pins, requests := rest }
          cons := s.cons.write r.slot (some { x with claim := some k.number, claimed := x.claimed ||| k.causes })
          bank := { s.bank with queue := t.bank.queue }
          marks := s.marks ++ [.claimOpen k.number r.slot x.id x.comp k.causes k.first k.frontCut k.endCut none]
          ports := (s.raise .claim).ports } ∧
        k = { k with
          number := nextNumber s.claims.counter
          cons := some (r.slot, x.id)
          comp := x.comp
          causes := r.cause ||| (x.exposure.triggered &&& ~~~ x.claimed)
          state := .gathering
          opened := s.now
          snapshot := none
          receipt := none
          reason := none } ∧
        BankOp.counterRewrite ∈ t.bank.queue ∧
        ∀ (first : Nat) (cut : Bool) (pinned : Nat → BitVec 16) (fit : Nat → Prop) (starts : Nat → Prop),
          (∀ q, x.startSequence = some q → first = max q s.hist.coveredFrom ∧ (cut = true ↔ q < s.hist.coveredFrom)) →
          (x.startSequence = none → x.loadMarkOutstanding = true → first = s.hist.newest + 1 ∧ cut = false) →
          (x.startSequence = none → x.loadMarkOutstanding = false → cut = true ∧
            ∀ timed : Record → Prop, timed = (fun q => q ∈ s.hist.readable ∧ s.hist.coveredFrom ≤ q.sequence ∧
                x.custodyStart.getD 0 ≤ q.time) →
              (∃ q, timed q ∧ q.sequence = first ∧ ∀ p, timed p → first ≤ p.sequence) ∨
                ((∀ q, ¬ timed q) ∧ first = s.hist.newest + 1)) →
          pinned = (fun f => s.claims.pins ||| (s.hist.sectorsHolding f s.hist.newest ||| s.hist.writingSet)) →
          fit = (fun f => pinned f = s.claims.pins ∨ setSize (pinned f) ≤ s.hist.usable - 4) →
          starts = (fun f => f = s.hist.newest + 1 ∨ ∃ a, ∃ q ∈ (s.hist.sectors.read a).readable, q.sequence = f ∧
            first ≤ f ∧ f ≤ s.hist.newest ∧ ∀ p ∈ (s.hist.sectors.read a).readable, first ≤ p.sequence → f ≤ p.sequence) →
          (fit first → k.first = first ∧ k.frontCut = cut ∧ k.last = none ∧ k.endCut = false ∧ t.claims.pins = pinned first) ∧
          (¬ fit first → ∀ f, starts f → fit f → (∀ g, starts g → fit g → f ≤ g) →
            k.first = f ∧ k.frontCut = true ∧ k.last = none ∧ k.endCut = false ∧ t.claims.pins = pinned f) ∧
          (¬ fit first → ¬ fit (s.hist.newest + 1) → k.first = s.hist.newest + 1 ∧ k.frontCut = true ∧
            k.last = some s.hist.newest ∧ k.endCut = true ∧ t.claims.pins = s.claims.pins)) ∧
    (∀ i k, s.claimOf x = some (i, k) → k.state ≠ .gathering →
      exec .claimRequest s = .next { s with claims := { s.claims with requests := rest } }) ∧
    (∀ i k, s.claimOf x = some (i, k) → k.state = .gathering →
      (k.causes &&& r.cause = r.cause →
        exec .claimRequest s = .next { s with claims := { s.claims with requests := rest } }) ∧
      (k.causes &&& r.cause ≠ r.cause →
        exec .claimRequest s = .next { s with
          claims := { s.claims with
            table := s.claims.table.write i (some { k with causes := k.causes ||| r.cause })
            requests := rest }
          cons := s.cons.write r.slot (some { x with claimed := x.claimed ||| r.cause })
          marks := s.marks ++ [.claimCause k.number r.cause none]
          ports := (s.raise .claim).ports })) ∧
    (x.claim = none → x.claimed &&& r.cause ≠ r.cause → (∀ i, s.claims.table.read i ≠ none) →
      exec .claimRequest s = .next { s with
        claims := { s.claims with requests := rest }
        cons := s.cons.write r.slot (some { x with claimOverflow := true })
        ports := (s.raise .claim).ports })

/-- R110: at a publication the claims unit gives the lowest free slot to the lowest-numbered consignment in custody that has
an unclaimed triggered cause and no claim; with none of these it only takes the publication. -/
def Obligations.LateAllocationServesTheLowestSlotFirst : Prop :=
  ∀ (s : State) (p : Publication) (rest : List Publication), s.pubs.claims = p :: rest →
    ((∀ j x, s.cons.read j = some x → x.inCustody = false ∨ x.claim ≠ none ∨ x.exposure.triggered &&& ~~~ x.claimed = 0#5) →
      exec .lateAllocation s = .next { s with pubs := { s.pubs with claims := rest } }) ∧
    ∀ (i : Fin 16) (j : Fin 32) (x : Consignment), s.cons.read j = some x → x.inCustody = true → x.claim = none →
      x.exposure.triggered &&& ~~~ x.claimed ≠ 0#5 →
      (∀ a y, a < j → s.cons.read a = some y →
        y.inCustody = false ∨ y.claim ≠ none ∨ y.exposure.triggered &&& ~~~ y.claimed = 0#5) →
      s.claims.table.read i = none → (∀ a, a < i → s.claims.table.read a ≠ none) →
      ∃ t k, exec .lateAllocation s = .next t ∧
        t = { s with
          pubs := { s.pubs with claims := rest }, claims := t.claims, cons := t.cons,
          bank := { s.bank with queue := t.bank.queue }, marks := t.marks, ports := t.ports } ∧
        t.claims.table.read i = some k ∧ k.number = nextNumber s.claims.counter ∧ k.cons = some (j, x.id) ∧
        k.causes = x.exposure.triggered &&& ~~~ x.claimed ∧ k.state = .gathering ∧
        t.cons.read j = some { x with claim := some k.number, claimed := x.claimed ||| k.causes } ∧
        ∀ q, hasKind (t.ports.at q).pending .claim = true

/-- R114, R117, R121, R122, while the store is not STALLED: SETTLE_CLAIM removes a frozen or orphaned claim whose last is
acknowledged, WITHDRAW_CLAIM one that is not PRESENTED and whose consignment is not DECIDING. The consignment loses its
reference, the pins become those the claims left require, and a CLAIM_CLOSED mark is requested. That a growing window requires
no sector being written while none is WRITING, after a FACTORY_CLEAR, is the model's choice (log 73). -/
def Obligations.RemovedClaimsGiveUpTheirPins : Prop :=
  ∀ (h : Header) (number : BitVec 32) (s : State) (i : Fin 16) (k : Claim), Taken .claims h s →
    s.claimByNumber number.toNat = some (i, k) → s.hist.stalled = false →
    (k.state = .gathering → exec (.settleClaim h number) s = .next (s.respond h .badState [])) ∧
    (k.state ≠ .gathering → s.hist.acked < k.last.getD s.hist.newest → exec (.settleClaim h number) s =
      .next (s.respond h .notUploaded (u32 (k.last.getD s.hist.newest) ++ u32 s.hist.acked))) ∧
    (k.state = .presented → exec (.withdrawClaim h number) s = .next (s.respond h .badState [])) ∧
    (k.state = .gathering → s.claimDeciding k = true →
      exec (.withdrawClaim h number) s = .next (s.respond h .busy [])) ∧
    ∀ (i' : Instr) (settled : Bool),
      (i' = .settleClaim h number ∧ settled = true ∧ k.state ≠ .gathering ∧ k.last.getD s.hist.newest ≤ s.hist.acked) ∨
      (i' = .withdrawClaim h number ∧ settled = false ∧ k.state ≠ .presented ∧
        (k.state = .gathering → s.claimDeciding k = false)) →
      ∃ t, exec i' s = .next t ∧
        t = { s with
          claims := { s.claims with table := s.claims.table.write i none, pins := t.pinsRequired }
          cons := t.cons
          marks := s.marks ++ [.claimClosed k.number settled]
          ports := t.ports } ∧
        s.answered t h .ok (u32 k.number ++ u8 i.val ++ u8 (setSize t.claims.pins)) ∧
        ∀ j, t.cons.read j = (s.cons.read j).map fun y =>
          if k.cons.map Prod.fst = some j ∧ y.claim = some k.number then { y with claim := none } else y

/-! ## Hand-over and receipts (file 07) -/

/-- R127, R128: BEGIN_HANDOVER, in SERVICE, PARKED or WAKING, of a consignment ABOARD or RETURNED opens a WAITING context
that expires 600 s later, held at the largest time; OUT_OF_ORDER tells that another consignment ABOARD has a lower stop. The
consignment becomes HANDING_OVER, and a mark and HANDOVER follow. With four contexts it is FULL. -/
def Obligations.BeginOpensAContext : Prop :=
  ∀ (h : Header) (id : BitVec 32) (s : State) (j : Fin 32) (x : Consignment) (oo : Bool), Taken .handoverBegin h s →
    s.ctl.mode = .service ∨ s.ctl.mode = .parked ∨ s.ctl.mode = .waking → s.byId id = some (j, x) →
    (oo = true ↔ ∃ i y, i ≠ j ∧ s.cons.read i = some y ∧ y.state = .aboard ∧ y.stop < x.stop) →
    (x.state ≠ .aboard → x.state ≠ .returned → exec (.beginHandover h id) s = .next (s.respond h .badState [])) ∧
    (x.state = .aboard ∨ x.state = .returned →
      (4 ≤ s.hand.contexts.length → exec (.beginHandover h id) s = .next (s.respond h .full [])) ∧
      (s.hand.contexts.length < 4 → exec (.beginHandover h id) s = .next (({ s with
          cons := s.cons.write j (some { x with state := .handingOver, lastContextExpired := false })
          hand := { s.hand with contexts := s.hand.contexts ++
            [{ slot := j, begunBy := h.port, begin := s.now, previous := x.state, outOfOrder := oo,
               state := .waiting (min (s.now + 600) 4294967295) false }] }
          marks := s.marks ++
            [.handoverBegin j id x.stop h.port x.state oo (min (s.now + 600) 4294967295)]
          ports := (s.raise .handover).ports } : State).respond h .ok
        (u8 j.val ++ u8 x.state.code ++ u32 (min (s.now + 600) 4294967295) ++ flag oo ++
          u8 (s.hand.contexts.length + 1)))))

/-- R129, R130: CANCEL_HANDOVER of a WAITING context, and its expiry, outside START with the part running, once recorder time
has been advanced to the expiry second, return the consignment to its previous state and remove the context, with a
HANDOVER_END mark and HANDOVER; the expiry is remembered. A context that the T-port began is cancelled on the T-port alone,
and one that is DECIDING not at all. That DENIED comes before BUSY is log 51's reading. -/
def Obligations.WaitingContextsEndByCancelOrExpiry : Prop :=
  ∀ (s : State) (j : Fin 32) (x : Consignment) (c : Context), s.cons.read j = some x → s.contextOf j = some c →
    (∀ (h : Header) (id : BitVec 32), Taken .handoverBegin h s → s.slotOf id = some j →
      (c.begunBy = .t → h.port ≠ .t → exec (.cancelHandover h id) s = .next (s.respond h .denied [])) ∧
      (c.begunBy ≠ .t ∨ h.port = .t →
        (∀ n d, c.state = .deciding n d → exec (.cancelHandover h id) s = .next (s.respond h .busy [])) ∧
        ∀ e due, c.state = .waiting e due → exec (.cancelHandover h id) s = .next (({ s with
            cons := s.cons.write j (some { x with state := c.previous })
            hand := { s.hand with contexts := s.hand.contexts.filter fun q => q.slot != j }
            marks := s.marks ++ [.handoverEnd j x.id .cancelled 0]
            ports := (s.raise .handover).ports } : State).respond h .ok (u8 j.val ++ u8 c.previous.code)))) ∧
    ∀ e, s.powered = true → s.ctl.mode ≠ .start → c.state = .waiting e true → e ≤ s.now → exec (.handoverExpiry j) s = .next { s with
      cons := s.cons.write j (some { x with state := c.previous, lastContextExpired := true })
      hand := { s.hand with contexts := s.hand.contexts.filter fun q => q.slot != j }
      marks := s.marks ++ [.handoverEnd j x.id .expired 0]
      ports := (s.raise .handover).ports }

/-- R108, R109, R111, R132, R133, R136, R137, R138: DECIDE on a WAITING context. Its checks come in the order stated. Taken, it
closes off the door seconds, fixes the receipt from what stands, with the previous receipt's check and its own CRC-32, puts
the context in DECIDING with the seconds it had left, and requests the receipt write; the command is in flight. ACCEPT acts
on no claim and names the one referred to. With the other two outcomes a GATHERING claim takes CUSTOMER and the reason, with
a mark and CLAIM, and is named; a frozen one is named unchanged; without a claim one is opened with CUSTOMER and named, with
its reference, its mark, CLAIM and the counter's rewrite, or, with no free slot, CLAIM_NOT_OPENED is set. -/
def Obligations.DecideFixesTheReceipt : Prop :=
  ∀ (h : Header) (id : BitVec 32) (outcome reason : Byte) (mark : Option (List Byte)) (s : State), Taken .handoverDecide h s →
    (verdict outcome = none → exec (.decide h id outcome reason mark) s = .next (s.respond h .badArgument [])) ∧
    ∀ v, verdict outcome = some v →
    ((v = .accept ∧ reason ≠ 0#8) ∨ (v ≠ .accept ∧ (reason = 0#8 ∨ 15 < reason.toNat)) ∨
        (∃ m, mark = some m ∧ m.length ≠ 16) →
      exec (.decide h id outcome reason mark) s = .next (s.respond h .badArgument [])) ∧
    ((v = .accept ↔ reason = 0#8) → reason.toNat ≤ 15 → (∀ m, mark = some m → m.length = 16) →
      (s.byId id = none → exec (.decide h id outcome reason mark) s = .next (s.respond h .notFound [])) ∧
      ∀ (j : Fin 32) (x : Consignment), s.byId id = some (j, x) →
      (s.contextOf j = none → exec (.decide h id outcome reason mark) s =
        .next (s.respond h (if x.lastContextExpired then .expired else .notFound) [])) ∧
      ∀ c, s.contextOf j = some c →
      (s.deciding ≠ none → exec (.decide h id outcome reason mark) s = .next (s.respond h .busy [])) ∧
      (s.deciding = none → s.hand.writable = false →
        exec (.decide h id outcome reason mark) s = .next (s.respond h .receiptsFull [])) ∧
      ∀ (e : Nat) (due : Bool) (b : BitVec 32) (start n : Nat) (y : Consignment), s.deciding = none →
        s.hand.writable = true → c.state = .waiting e due → x.inCustody = true → x.doorBase = some b →
        x.custodyStart = some start → x.custodyEnd = none →
        n = min (x.doorSeconds + (s.lines.counters.read x.comp - b).toNat) 4294967295 →
        y = { x with doorSeconds := n, doorBase := some (s.lines.counters.read x.comp) } →
        ∃ (t : State) (r : Receipt), exec (.decide h id outcome reason mark) s = .next t ∧
          t = { s with cons := t.cons, claims := t.claims, hand := { s.hand with contexts := t.hand.contexts }, bank := t.bank,
                       marks := t.marks, ports := t.ports } ∧
          t.hand.contexts = s.hand.contexts.map (fun q => if q.slot = j then
            { q with state := .deciding (e - s.now) { receipt := r, secondAttempt := false, tag := h.tag } } else q) ∧
          (t.ports.at h.port).inFlight = some { command := .decide, tag := h.tag } ∧
          BankOp.receiptWrite ∈ t.bank.queue ∧
          r = { r with
            number := nextNumber s.hand.newest, time := s.now, wall := s.ctl.wallOffset, id := x.id, source := x.source,
            stop := x.stop, comp := x.comp, verdict := v, reason := reason.toNat,
            shocks := min (x.carriedShocks.getD 0 + x.exposure.shocks) 255, episodes := x.episodes,
            carriedDose := x.carriedDose.getD 0, buckets := x.exposure.buckets, doorSeconds := min n 65535,
            peak := x.exposure.peak, e := x.exposure.e, custodySeconds := s.now - start, startSequence := x.startSequence,
            mark := mark.getD [], previous := s.hand.chain, check := crc32 r.head } ∧
          r.flags.getLsbD 0 = x.exposure.saturated ∧ r.flags.getLsbD 1 = x.outageSeen ∧ r.flags.getLsbD 2 = x.conflictSeen ∧
          r.flags.getLsbD 3 = x.exposure.lostSeen ∧ r.flags.getLsbD 5 = c.outOfOrder ∧
          r.flags.getLsbD 6 = s.ctl.wallOffset.isNone ∧ r.flags.getLsbD 7 = mark.isNone ∧
          (v = .accept → t.cons = s.cons.write j (some y) ∧ t.claims = s.claims ∧ t.marks = s.marks ∧
            r.claim = x.claim.getD 0 ∧ r.flags.getLsbD 4 = false) ∧
          (∀ i k, s.claimOf x = some (i, k) →
            r.claim = k.number ∧ r.flags.getLsbD 4 = false ∧ r.flags.getLsbD 8 = k.frontCut ∧ r.flags.getLsbD 9 = k.endCut ∧
            (v ≠ .accept → k.state = .gathering →
              t.cons = s.cons.write j (some { y with claimed := x.claimed ||| causeCustomer }) ∧
              t.claims = { s.claims with table := s.claims.table.write i (some { k with
                causes := k.causes ||| causeCustomer, reason := some reason.toNat }) } ∧
              t.marks = s.marks ++ [.claimCause k.number causeCustomer (some reason.toNat)] ∧
              ∀ q, hasKind (t.ports.at q).pending .claim = true) ∧
            (v ≠ .accept → k.state ≠ .gathering →
              t.cons = s.cons.write j (some y) ∧ t.claims = s.claims ∧ t.marks = s.marks)) ∧
          (v ≠ .accept → x.claim = none → (∀ i, s.claims.table.read i ≠ none) →
            t.cons = s.cons.write j (some y) ∧ t.claims = s.claims ∧ t.marks = s.marks ∧ r.claim = 0 ∧ r.flags.getLsbD 4 = true) ∧
          ∀ i, v ≠ .accept → x.claim = none → s.claims.table.read i = none → (∀ a, a < i → s.claims.table.read a ≠ none) →
            (∀ a q, s.claims.table.read a = some q → q.number ≠ nextNumber s.claims.counter) →
            ∃ k, t.claims = { s.claims with
                table := s.claims.table.write i (some k), counter := k.number, pins := t.claims.pins } ∧
              t.cons = s.cons.write j (some { y with claim := some k.number, claimed := x.claimed ||| k.causes }) ∧
              t.marks = s.marks ++
                [.claimOpen k.number j x.id x.comp k.causes k.first k.frontCut k.endCut (some reason.toNat)] ∧
              BankOp.counterRewrite ∈ t.bank.queue ∧ (∀ q, hasKind (t.ports.at q).pending .claim = true) ∧
              k.cons = some (j, x.id) ∧ k.comp = x.comp ∧ k.opened = s.now ∧ k.snapshot = none ∧ k.receipt = none ∧
              k.number = nextNumber s.claims.counter ∧
              k.causes = causeCustomer ||| (x.exposure.triggered &&& ~~~ x.claimed) ∧ k.reason = some reason.toNat ∧
              k.state = .gathering ∧ r.claim = k.number ∧ r.flags.getLsbD 4 = false ∧ r.flags.getLsbD 8 = k.frontCut ∧
              r.flags.getLsbD 9 = k.endCut)

/-- R119, R134, R135, R139: the receipt write starts when it is first at the bank, its slot is blank and its block is not due
for erase; while the block is due, it waits. Its completion, with no claim request outstanding, makes the consignment
DELIVERED, or RETURNED after REFUSE, stores the receipt at the write position, makes it the newest and its check the chain's,
freezes a GATHERING claim to PRESENTED with the values fixed at the decision, leaves any other claim as it is, removes the
context, requests the CLAIM_FROZEN mark of that claim, the RECEIPT mark and the HANDOVER_END mark in this order, raises
RECEIPT and HANDOVER, and answers the DECIDE. -/
def Obligations.ReceiptWritesEndTheHandOver : Prop :=
  (∀ (s : State) (rest : List BankOp), s.powered = true → s.bank.busy = none → s.bank.queue = .receiptWrite :: rest →
    s.hand.isRetired s.hand.block = false → (s.hand.blocks.read s.hand.block).read s.hand.slot = .empty →
    (s.hand.due s.hand.block = false →
      exec .receiptWriteStart s = .next { s with bank := { s.bank with queue := rest, busy := some .receiptWrite } }) ∧
    (s.hand.due s.hand.block = true → exec .receiptWriteStart s = .next s)) ∧
  ∀ (s : State) (c : Context) (n : Nat) (d : Decision) (x : Consignment) (b : BitVec 32) (ds : Nat), s.bank.busy = some .receiptWrite →
    s.claims.requests = [] → s.deciding = some c → c.state = .deciding n d →
    (∀ q ∈ s.hand.contexts, q.isDeciding = true → q = c) → s.cons.read c.slot = some x → x.inCustody = true →
    x.doorBase = some b → ds = min (x.doorSeconds + (s.lines.counters.read x.comp - b).toNat) 4294967295 →
    ∃ t, exec .receiptWriteCompletion s = .next t ∧
      t = { s with cons := t.cons, claims := t.claims, hand := t.hand, bank := { s.bank with busy := none, queue := t.bank.queue },
                   marks := t.marks, ports := t.ports } ∧
      t.cons = s.cons.write c.slot (some
        (if d.receipt.verdict = .refuse then
          { x with
            state := .returned, receipt := some d.receipt.number, doorSeconds := ds,
            doorBase := some (s.lines.counters.read x.comp) }
        else
          { x with
            state := .delivered, receipt := some d.receipt.number, doorSeconds := ds, doorBase := none,
            custodyEnd := some s.now })) ∧
      (t.hand.blocks.read s.hand.block).read s.hand.slot = .receipt d.receipt ∧ t.hand.newest = d.receipt.number ∧
      t.hand.chain = d.receipt.check ∧ t.hand.acked = s.hand.acked ∧
      (∀ hl : s.hand.slot.val + 1 < 16, t.hand.block = s.hand.block ∧ t.hand.slot = ⟨s.hand.slot.val + 1, hl⟩) ∧
      (s.hand.slot.val = 15 → t.hand.slot = 0 ∧ t.hand.block = s.hand.nextBlock.getD s.hand.block) ∧
      t.hand.contexts = s.hand.contexts.filter (fun q => q.slot != c.slot) ∧
      (∀ q, hasKind (t.ports.at q).pending .receipt = true ∧ hasKind (t.ports.at q).pending .handover = true) ∧
      t.ports.h.responses = s.ports.h.responses ++ [{
        status := .ok, tag := d.tag,
        data := u32 d.receipt.number ++ word32 d.receipt.check ++ u8 (if d.receipt.verdict = .refuse then 4 else 3) ++
          u32 d.receipt.claim }] ∧
      (∀ f, (t.ports.h).inFlight = some f → f.command ≠ .decide) ∧
      ∀ ends : List Mark, ends = [
        .receipt d.receipt.number d.receipt.id d.receipt.verdict d.receipt.reason d.receipt.claim d.receipt.check,
        .handoverEnd c.slot d.receipt.id .receipt d.receipt.number] →
      ((∀ i k, s.claimOf x = some (i, k) → k.state ≠ .gathering) → t.claims = s.claims ∧ t.marks = s.marks ++ ends) ∧
      ∀ i k, s.claimOf x = some (i, k) → k.state = .gathering →
        t.marks = s.marks ++
          .claimFrozen k.number .presented (k.last.getD s.hist.newest) k.frontCut k.endCut d.receipt.number :: ends ∧
        t.claims = { s.claims with table := s.claims.table.write i (some { k with
          state := .presented
          last := some (k.last.getD s.hist.newest)
          snapshot := some { buckets := d.receipt.buckets, shocks := d.receipt.shocks, peak := d.receipt.peak, e := d.receipt.e }
          receipt := some d.receipt.number }) }

/-- R134, where the following slot is blank: the receipt program that fails for the first time leaves its slot VOID, moves the
write position on, and is requested again; failing a second time, it ends the DECIDE with STORE_FAULT and a STORE event, and
the context returns to WAITING with the seconds it had left. That the second write is requested of the bank anew and does not
keep its turn is the model's choice (log 76). What the slot reads as is a free value (log 12), and the new expiry second holds
at the largest time (log 53). -/
def Obligations.FailedReceiptWritesAreMadeTwice : Prop :=
  ∀ (s : State) (c : Context) (n : Nat) (d : Decision) (hl : s.hand.slot.val + 1 < 16), s.bank.busy = some .receiptWrite →
    s.deciding = some c → c.state = .deciding n d →
    (∀ q ∈ s.hand.contexts, q.isDeciding = true → q = c) → s.hand.isRetired s.hand.block = false →
    (s.hand.blocks.read s.hand.block).read ⟨s.hand.slot.val + 1, hl⟩ = .empty →
    ∃ t left, exec .receiptProgramFailure s = .next t ∧
      t = { s with hand := t.hand, bank := { s.bank with busy := none, queue := t.bank.queue }, ports := t.ports, cons := t.cons,
                   marks := t.marks, freeCount := s.freeCount + 1 } ∧
      (t.hand.blocks.read s.hand.block).read s.hand.slot = .void left ∧ t.hand.block = s.hand.block ∧
      t.hand.slot = ⟨s.hand.slot.val + 1, hl⟩ ∧ t.hand.newest = s.hand.newest ∧ t.hand.chain = s.hand.chain ∧
      (d.secondAttempt = false → BankOp.receiptWrite ∈ t.bank.queue ∧ t.ports = s.ports ∧ t.cons = s.cons ∧ t.marks = s.marks ∧
        t.hand.contexts = s.hand.contexts.map (fun q => if q.slot = c.slot then
          { q with state := .deciding n { d with secondAttempt := true } } else q)) ∧
      (d.secondAttempt = true → 0 < n → BankOp.receiptWrite ∉ t.bank.queue ∧ t.cons = s.cons ∧ t.marks = s.marks ∧
        t.hand.contexts = s.hand.contexts.map (fun q => if q.slot = c.slot then
          { q with state := .waiting (min (s.now + n) 4294967295) false } else q) ∧
        t.ports.h.responses = s.ports.h.responses ++ [{ status := .storeFault, tag := d.tag, data := u8 c.slot.val }] ∧
        (∀ q, hasKind (t.ports.at q).pending .store = true) ∧ ∀ f, t.ports.h.inFlight = some f → f.command ≠ .decide)

/-- R140, R141, R143, R185, with no context DECIDING: the erase of a receipt block starts when it is first at the bank, and
its receipts stop being readable; its completion makes every slot EMPTY; its first failure makes the erase a second time; its
second retires the block, requests a rewrite of the counter block, raises STORE, and moves a write position in the block to
the first slot of the following usable block. ACK_RECEIPT raises the acknowledged number to the one given, taken no higher
than the newest, never lowers it, and requests the erase that is then due (a block of VOID slots alone counts among the
acknowledged ones, log 54). The count of usable slots in its answer is read by log 60. -/
def Obligations.BlocksAreErasedOnceAcknowledged : Prop :=
  (∀ (s : State) (b : Fin 4), s.deciding = none →
    (∀ rest, s.powered = true → s.bank.busy = none → s.bank.queue = .blockErase b :: rest →
      exec .receiptBlockEraseStart s = .next { s with
        bank := { s.bank with queue := rest, busy := some (.blockErase b) }
        hand := { s.hand with erasing := some b, secondErase := false } }) ∧
    (s.bank.busy = some (.blockErase b) →
      (∃ t, exec .receiptBlockEraseComplete s = .next t ∧
        t = { s with
          bank := { s.bank with busy := none, queue := t.bank.queue }
          hand := { s.hand with erasing := none, blocks := t.hand.blocks } } ∧
        (∀ i, (t.hand.blocks.read b).read i = .empty) ∧ ∀ a, a ≠ b → t.hand.blocks.read a = s.hand.blocks.read a) ∧
      (s.hand.secondErase = false →
        exec .receiptBlockEraseFailure s = .next { s with hand := { s.hand with secondErase := true } }) ∧
      (s.hand.secondErase = true → ∃ t, exec .receiptBlockEraseFailure s = .next t ∧
        t = { s with
          bank := { s.bank with busy := none, queue := t.bank.queue }
          hand := { s.hand with
            erasing := none
            retired := s.hand.retired ||| single b
            blocks := t.hand.blocks
            block := t.hand.block
            slot := t.hand.slot }
          ports := (s.raise .store).ports
          freeCount := s.freeCount + 1 } ∧
        (∀ a, a ≠ b → t.hand.blocks.read a = s.hand.blocks.read a) ∧
        BankOp.counterRewrite ∈ t.bank.queue ∧
        (s.hand.block ≠ b → t.hand.block = s.hand.block ∧ t.hand.slot = s.hand.slot) ∧
        (s.hand.block = b → t.hand.slot = 0 ∧
          ∀ (a : Fin 4) (k : Nat), 0 < k → k < 4 → a.val = (b.val + k) % 4 → s.hand.isRetired a = false →
            (∀ (d : Fin 4) (m : Nat), 0 < m → m < k → d.val = (b.val + m) % 4 → s.hand.isRetired d = true) →
            t.hand.block = a)))) ∧
  ∀ (h : Header) (through : BitVec 32) (s : State), Taken .receiptAck h s → s.deciding = none →
    ∃ t, exec (.ackReceipt h through) s = .next t ∧
      t = { s with
        hand := { s.hand with acked := max s.hand.acked (min through.toNat s.hand.newest) }
        bank := { s.bank with queue := t.bank.queue }
        ports := t.ports } ∧
      s.answered t h (if through.toNat ≤ s.hand.newest then .ok else .clamped)
        (u32 t.hand.acked ++ u32 s.hand.newest ++ u8 t.hand.usableSlots) ∧
      (t.hand.due s.hand.block = true → BankOp.blockErase s.hand.block ∈ t.bank.queue) ∧
      ∀ b, t.hand.due s.hand.block = false → t.hand.nextBlock = some b → t.hand.due b = true →
        BankOp.blockErase b ∈ t.bank.queue

/-! ## The history store (file 08) -/

/-- R157, R158, R159: READ_HISTORY answers at once with the readable records from the sequence given upward, ascending, at
most 1 to 7 of them, when there are any, or nothing is queued, or the store is STALLED; otherwise its answer is held and the
command is in flight. ACK_HISTORY raises the acknowledged sequence to the one given, taken no higher than the newest, and
never lowers it; upload-wanted is judged again. The four-byte unsent counts of the answers are log 15's. -/
def Obligations.HistoryIsReadAndAcknowledged : Prop :=
  (∀ (h : Header) (fromSequence : BitVec 32) (count : Byte) (s : State) (n : Nat), Taken .historyRead h s →
    n = max 1 (min 7 count.toNat) →
    ∃ rs : List Record,
      (∀ r ∈ rs, r ∈ s.hist.readable ∧ fromSequence.toNat ≤ r.sequence) ∧ rs.length ≤ n ∧
      rs.Pairwise (fun a b => a.sequence ≤ b.sequence) ∧
      (∀ r ∈ s.hist.readable, fromSequence.toNat ≤ r.sequence → r ∉ rs → rs.length = n ∧ ∀ a ∈ rs, a.sequence ≤ r.sequence) ∧
      (rs ≠ [] ∨ s.hist.queue = [] ∨ s.hist.stalled = true →
        exec (.readHistory h fromSequence count) s = .next (s.respond h (if count.toNat = n then .ok else .clamped)
          (optNumber s.hist.oldest ++ u32 s.hist.newest ++ u32 s.hist.acked ++ u32 (s.hist.newest - s.hist.acked) ++
            flag s.hist.uploadWanted ++ flag s.hist.stalled ++ members rs Record.bytes))) ∧
      (rs = [] → s.hist.queue ≠ [] → s.hist.stalled = false →
        exec (.readHistory h fromSequence count) s = .next { s with
          heldReads := s.heldReads ++
            [{ port := h.port, tag := h.tag, fromSequence := fromSequence.toNat, count := count.toNat }]
          ports := s.ports.put h.port
            { s.ports.at h.port with inFlight := some { command := .readHistory, tag := h.tag } } })) ∧
  ∀ (h : Header) (through : BitVec 32) (s : State) (a : Nat), Taken .historyAck h s →
    a = max s.hist.acked (min through.toNat s.hist.newest) →
    ∃ t w, exec (.ackHistory h through) s = .next t ∧
      t = { s with hist := { s.hist with acked := a, uploadWanted := w }, ports := t.ports } ∧
      s.answered t h (if through.toNat ≤ s.hist.newest then .ok else .clamped)
        (u32 a ++ u32 s.hist.newest ++ u32 (s.hist.newest - a) ++ flag w) ∧
      (s.hist.degraded = false →
        (w = true ↔ if s.hist.uploadWanted then s.ctl.working.lower < s.hist.newest - a
          else s.ctl.working.upper ≤ s.hist.newest - a) ∧
        (s.hist.uploadWanted = false → w = true → ∀ q, hasKind (t.ports.at q).pending .upload = true))

/-- R91, R154, R155, R166: outside START the store creates the next mark requested. It joins the queue; with eight records
there it displaces the newest SAMPLE, a head being programmed included, or, where the queue holds marks alone, is dropped and
counted, and the drop of a LOAD mark clears load mark outstanding. Drop counts hold at 65,535. The program of a displaced
head goes on without a place in the queue (log 22). In START requests wait (log 45). -/
def Obligations.MarksDisplaceTheNewestSample : Prop :=
  ∀ (s : State) (m : Mark) (rest : List Mark), s.marks = m :: rest →
    (s.ctl.mode = .start → exec .markRequest s = .next s) ∧
    (s.ctl.mode ≠ .start →
      (s.hist.queue.length < 8 → exec .markRequest s = .next { s with
        marks := rest
        hist := { s.hist with
          queue := s.hist.queue ++ [{ time := s.now, body := .mark m }], queuedMarks := s.hist.queuedMarks + 1 } }) ∧
      (∀ a q b, 8 ≤ s.hist.queue.length → s.hist.queue = a ++ q :: b → q.isSample = true → (∀ y ∈ b, y.isSample = false) →
        exec .markRequest s = .next { s with
          marks := rest
          hist := { s.hist with
            queue := a ++ b ++ [{ time := s.now, body := .mark m }]
            queuedSamples := s.hist.queuedSamples - 1
            queuedMarks := s.hist.queuedMarks + 1
            droppedSamples := min (s.hist.droppedSamples + 1) 65535
            program := if a = [] then s.hist.program.map Program.displace else s.hist.program } }) ∧
      (8 ≤ s.hist.queue.length → (∀ y ∈ s.hist.queue, y.isSample = false) →
        ∃ t, exec .markRequest s = .next t ∧
          t = { s with
            marks := rest, cons := t.cons
            hist := { s.hist with droppedMarks := min (s.hist.droppedMarks + 1) 65535 } } ∧
          ∀ j, t.cons.read j = (s.cons.read j).map fun x =>
            if (Body.mark m).loadSlot? = some j then { x with loadMarkOutstanding := false } else x))

/-- R91, R147, R156, R157, with a free slot in the WRITING sector: the writer programs a GAP with the drop counts before the
head of the queue. A completed head takes the next sequence, leaves the queue, and a LOAD mark's sequence becomes the start
sequence; a completed GAP takes its counts back; a completed SAMPLE that a mark has displaced since takes its sequence and
nothing from the queue (log 22). Every completion answers the READ_HISTORY commands that are held, each with the first
readable records from its sequence upward. A failed program leaves a VOID slot, one more in the void count, and the queue as
it was. -/
def Obligations.HistoryProgramsCompleteOrVoidASlot : Prop :=
  ∀ (s : State) (i : Fin 16) (x : Sector), s.hist.current = some i → s.hist.sectors.read i = x →
    (s.powered = true → s.ctl.mode ≠ .start → s.hist.program = none → x.slots.length < 512 →
      (s.hist.gapDue = true ∨ s.hist.droppedSamples ≠ 0 ∨ s.hist.droppedMarks ≠ 0 →
        exec .historyProgramStart s = .next { s with hist := { s.hist with
          program := some (.gap s.now s.hist.droppedSamples s.hist.droppedMarks) } }) ∧
      (∀ q rest, s.hist.gapDue = false → s.hist.droppedSamples = 0 → s.hist.droppedMarks = 0 → s.hist.queue = q :: rest →
        exec .historyProgramStart s = .next { s with hist := { s.hist with program := some (.head q) } })) ∧
    (∀ (q : Queued) (r : Record), s.hist.program = some (.head q) →
      r = { sequence := nextNumber s.hist.newest, time := q.time, body := q.body } →
      (∃ t, exec .historyProgramComplete s = .next t ∧
        t = { s with hist := t.hist, cons := t.cons, ports := t.ports, heldReads := [] } ∧
        t.hist = { s.hist with
          sectors := s.hist.sectors.write i { x with slots := x.slots ++ [.record r] }
          newest := r.sequence
          program := none
          queue := s.hist.queue.drop 1
          queuedSamples := if q.isSample then s.hist.queuedSamples - 1 else s.hist.queuedSamples
          queuedMarks := if q.isSample then s.hist.queuedMarks else s.hist.queuedMarks - 1
          uploadWanted := t.hist.uploadWanted } ∧
        ∀ j, t.cons.read j = (s.cons.read j).map fun y =>
          if y.loadMarkOutstanding = true ∧ q.body.loadSlot? = some j then
            { y with loadMarkOutstanding := false, startSequence := some r.sequence } else y)) ∧
    (∀ (q : Queued), s.hist.program = some (.displaced q) → q.isSample = true →
      ∃ t, exec .historyProgramComplete s = .next t ∧ t = { s with hist := t.hist, ports := t.ports, heldReads := [] } ∧
        t.hist = { s.hist with
          sectors := s.hist.sectors.write i { x with slots := x.slots ++
            [.record { sequence := nextNumber s.hist.newest, time := q.time, body := q.body }] }
          newest := nextNumber s.hist.newest
          program := none
          uploadWanted := t.hist.uploadWanted }) ∧
    (∀ (time samples marks : Nat), s.hist.program = some (.gap time samples marks) →
      ∃ t, exec .historyProgramComplete s = .next t ∧ t.cons = s.cons ∧ t.hist.queue = s.hist.queue ∧
        t.hist.droppedSamples = s.hist.droppedSamples - samples ∧ t.hist.droppedMarks = s.hist.droppedMarks - marks ∧
        t.hist.gapDue = false ∧ t.hist.newest = nextNumber s.hist.newest ∧
        t.hist.sectors = s.hist.sectors.write i { x with slots := x.slots ++
          [.record { sequence := nextNumber s.hist.newest, time := time, body := .gap samples marks }] }) ∧
    (∀ p, s.hist.program = some p → ∃ t, exec .historyProgramComplete s = .next t ∧ s.ReadsAnswered t) ∧
    ∀ p, s.hist.program = some p → ∃ left, exec .historyProgramFailure s = .next { s with
      freeCount := s.freeCount + 1
      hist := { s.hist with
        program := none
        sectors := s.hist.sectors.write i { x with slots := x.slots ++ [.void left], voids := x.voids + 1 } } }

/-- R113, R116, R148, R149, R150, R151, R157, R185: with S full, a record or a GAP to write and the next sector READY, S
becomes FULL and the next sector WRITING, and a next sector is chosen that is neither retired nor pinned. The same choice may
take S itself as the next sector, which makes it ERASING, or retire it where four of its slots are VOID. A FULL sector that is
erased or retired and holds unsent records adds their number to LOST_UNSENT, moves the acknowledged sequence to its highest
and raises STORE. A choice that finds no sector sets STALLED, creates a STALL mark with the usable and the pinned sectors
(said here where the queue has room), raises STORE and answers the READ_HISTORY commands that are held. While any claim's
window grows, the new sector is pinned when the pins then stay within the usable sectors less 4; otherwise every growing
window takes END_CUT with the highest sequence in the sector just left as its last, and a CLAIM_CUT mark. A completed erase
leaves a READY sector; an erase that fails for the first time is made again; after the second failure the sector is retired,
with STORE and a rewrite of the counter block. That erases are made one at a time, in the order in which they started, is log
23's, and that a STALL mark is created ahead of the mark requests that wait is log 71's. In START nothing joins the queue: a
STALL mark waits (R166, log 45). -/
def Obligations.SectorsTurnOverAndRetire : Prop :=
  ∀ s : State, s.powered = true →
    (∀ i j, s.ctl.mode ≠ .start → s.hist.current = some j → 512 ≤ (s.hist.sectors.read j).slots.length →
      s.hist.program = none →
      s.hist.queue ≠ [] ∨ s.hist.gapDue = true ∨ s.hist.droppedSamples ≠ 0 ∨ s.hist.droppedMarks ≠ 0 →
      s.hist.next = some i → i ≠ j → (s.hist.sectors.read i).state = .ready →
      (∀ a, (s.hist.sectors.read a).state = .writing → a = j) →
      ∃ t, exec .beginNewSector s = .next t ∧ t.hist.current = some i ∧ (t.hist.sectors.read i).state = .writing ∧
        ((t.hist.sectors.read j).state = .full ∨ ((t.hist.sectors.read j).state = .erasing ∧ t.hist.next = some j) ∨
          ((t.hist.sectors.read j).state = .retired ∧ 4 ≤ (s.hist.sectors.read j).voids)) ∧
        t.hist.newest = s.hist.newest ∧ t.cons = s.cons ∧
        (t.hist.stalled = true ↔ t.hist.next = none) ∧
        (t.hist.next ≠ none → t.hist.queue = s.hist.queue) ∧
        (t.hist.next = none → s.ReadsAnswered t ∧ (∀ q, hasKind (t.ports.at q).pending .store = true) ∧
          (s.hist.queue.length < 8 → t.hist.queuedMarks = s.hist.queuedMarks + 1 ∧ t.hist.queue = s.hist.queue ++
            [{ time := s.now, body := .mark (.stall t.hist.usable (setSize t.claims.pins)) }])) ∧
        (∀ n, (∀ a, (s.hist.sectors.read a).voids < 4) → t.hist.next = some n →
          (n ≠ j → (s.hist.sectors.read n).state = .ready →
            t.hist.lostUnsent = s.hist.lostUnsent ∧ t.hist.acked = s.hist.acked) ∧
          (n = j ∨ (s.hist.sectors.read n).state = .full →
            (t.hist.sectors.read n).state = .erasing ∧ n ∈ t.hist.eraseQueue ∧ s.UnsentLost n t)) ∧
        (∀ n, t.hist.next = some n → n ≠ i ∧ t.claims.pins.getLsbD n.val = false ∧
          ((t.hist.sectors.read n).state = .ready ∨ (t.hist.sectors.read n).state = .erasing)) ∧
        ((∀ a k, s.claims.table.read a = some k → k.state = .gathering → k.endCut = true) →
          t.claims = s.claims ∧ t.marks = s.marks) ∧
        ∀ a k, (s.hist.sectors.read j).state = .writing → s.claims.table.read a = some k → k.state = .gathering →
          k.endCut = false →
          (setSize (s.claims.pins ||| single i) ≤ s.hist.usable - 4 →
            t.claims = { s.claims with pins := s.claims.pins ||| single i } ∧ t.marks = s.marks) ∧
          ∀ r : Record, s.claims.pins.getLsbD i.val = false → s.hist.usable - 4 < setSize (s.claims.pins ||| single i) →
            Slot.record r ∈ (s.hist.sectors.read j).slots →
            (∀ q, Slot.record q ∈ (s.hist.sectors.read j).slots → q.sequence ≤ r.sequence) →
            t.claims = { s.claims with table := t.claims.table } ∧
            t.claims.table.read a = some { k with endCut := true, last := some r.sequence } ∧
            Mark.claimCut k.number r.sequence ∈ t.marks ∧
            ∀ b m, s.claims.table.read b = some m → m.state ≠ .gathering ∨ m.endCut = true →
              t.claims.table.read b = some m) ∧
    (∀ n t, t = s.retireSector n false → (t.hist.sectors.read n).state = .retired ∧ s.UnsentLost n t) ∧
    ∀ i rest, s.hist.eraseQueue = i :: rest →
      exec .sectorEraseComplete s = .next { s with hist := { s.hist with
        sectors := s.hist.sectors.write i { state := .ready, slots := [], voids := 0, touched := false }
        eraseQueue := rest
        secondErase := false } } ∧
      (s.hist.secondErase = false →
        exec .sectorEraseFailure s = .next { s with hist := { s.hist with secondErase := true } }) ∧
      (s.hist.secondErase = true → ∃ t, exec .sectorEraseFailure s = .next t ∧ (t.hist.sectors.read i).state = .retired ∧
        (t.hist.usable < 8 → t.hist.degraded = true) ∧ BankOp.counterRewrite ∈ t.bank.queue ∧ rest <+: t.hist.eraseQueue ∧
        t.cons = s.cons ∧ (s.ctl.mode = .start → t.hist.queue = s.hist.queue) ∧
        (t.hist.next = none → t.hist.stalled = true ∧ s.ReadsAnswered t) ∧
        ∀ q, hasKind (t.ports.at q).pending .store = true)

/-- R152, R153, R155: a publication adds its round-equivalents to the interval counter and to the interval state of each
compartment in use in it; a compartment without one starts its interval then. When the counter comes to n, each such
compartment has a SAMPLE created from its air, its interval and what the monitor and the manifest hold, its interval starts
afresh, and the counter becomes 0; a SAMPLE that finds eight records queued is dropped and counted. The row SAMPLE is that
publication (log 6); SENSOR_LOST is that of the taking (R59), and so are the probe statuses (log 43), and DEGRADED is that of
the creation (log 55). -/
def Obligations.SamplesAreCreatedEveryIntervals : Prop :=
  ∀ (s : State) (p : Publication) (rest : List Publication) (n : Nat) (begun : Fin 4 → Interval), s.pubs.store = p :: rest →
    n = (if p.parked then 6 else 1) → (∀ c r, p.air.read c = some r → s.inUse c = true) →
    (∀ c, begun c = (s.hist.intervals.read c).getD
      { base := s.lines.counters.read c, highest := none, equivalents := 0, excursionEquivalents := 0 }) →
    (s.hist.intervalCount + n < s.ctl.working.interval →
      ∃ t, exec .historyIntervalUpdate s = .next t ∧
        t = { s with
          pubs := { s.pubs with store := rest }
          hist := { s.hist with intervalCount := s.hist.intervalCount + n, intervals := t.hist.intervals } } ∧
        (∀ c, p.air.read c = none → t.hist.intervals.read c = s.hist.intervals.read c) ∧
        ∀ c r v, p.air.read c = some r → v = begun c →
          t.hist.intervals.read c = some { v with
            highest := (match r.a, v.highest with | some a, some b => some (max b a) | some a, none => some a | none, b => b)
            equivalents := v.equivalents + n
            excursionEquivalents := v.excursionEquivalents + if (s.mon.read c).excursion = .active then n else 0 }) ∧
    (s.ctl.working.interval ≤ s.hist.intervalCount + n →
      ∃ t, exec .sample s = .next t ∧ exec .historyIntervalUpdate s = .next t ∧
        t = { s with pubs := { s.pubs with store := rest }, hist := t.hist } ∧ t.hist.intervalCount = 0 ∧
        t.hist.newest = s.hist.newest ∧ t.hist.queuedMarks = s.hist.queuedMarks ∧ s.hist.queue <+: t.hist.queue ∧
        (∀ c, p.air.read c ≠ none → t.hist.intervals.read c = some
          { base := s.lines.counters.read c, highest := none, equivalents := 0, excursionEquivalents := 0 }) ∧
        (∀ k, k = ((List.finRange 4).filter fun c => (p.air.read c).isSome).length → 0 < k → 8 ≤ s.hist.queue.length →
          t.hist.queue = s.hist.queue ∧ t.hist.queuedSamples = s.hist.queuedSamples ∧
            t.hist.droppedSamples = min (s.hist.droppedSamples + k) 65535) ∧
        ∀ c r v, s.hist.queue.length ≤ 4 → p.air.read c = some r → v = begun c →
          ({ time := s.now
             body := .sample
              { comp := c
                a := r.a
                clamped := r.clamped
                suspect := r.suspect
                held := r.held
                parked := p.parked
                degraded := s.hist.degraded
                highest := match r.a, v.highest with | some a, some b => some (max b a) | some a, none => some a | none, b => b
                estimate := (s.mon.read c).estimate
                limit := s.limit c
                setpoint := (s.mon.read c).setpoint
                doorSeconds := (s.lines.counters.read c - v.base).toNat
                door := (s.mon.read c).door
                defrost := (s.mon.read c).defrost
                excursion := (s.mon.read c).excursion
                unitFault := s.unitFault c
                lost := (s.fe.air.read c).lost
                probes := s.fe.probes.mapIdx fun _ x => x.status
                custody := s.custodyIn c
                equivalents := v.equivalents + n
                excursionEquivalents := v.excursionEquivalents + if (s.mon.read c).excursion = .active then n else 0 }
           } : Queued) ∈ t.hist.queue)

/-! ## Settings, modes, time and power (files 08 to 10) -/

/-- R159, R160, R161, R191: SET_MARKS stores the upper mark clamped to 1 to 8,192 and the lower one clamped below it, and
judges upload-wanted again. SET_INTERVAL stores the nearest of the six intervals, midway taken to the larger. SET_RIGHTS
stores the four grants, each 1 or 0, and refuses any other value. Each answers with what it stored; the four-byte unsent
count of SET_MARKS is log 15's. -/
def Obligations.PlainSettingsAreStored : Prop :=
  ∀ (h : Header) (s : State), Editable h s →
    (∀ (upper lower : BitVec 32) (u l : Nat), u = max 1 (min 8192 upper.toNat) → l = min (u - 1) lower.toNat →
      ∃ t, exec (.setMarks h upper lower) s = .next t ∧
        t = { s with
          ctl := { s.ctl with working := { s.ctl.working with upper := u, lower := l } }
          hist := { s.hist with uploadWanted := t.hist.uploadWanted }
          ports := t.ports } ∧
        (s.hist.degraded = false → (t.hist.uploadWanted = true ↔
          if s.hist.uploadWanted then l < s.hist.newest - s.hist.acked else u ≤ s.hist.newest - s.hist.acked)) ∧
        s.answered t h (if u = upper.toNat ∧ l = lower.toNat then .ok else .clamped)
          (u32 u ++ u32 l ++ u32 (s.hist.newest - s.hist.acked) ++ flag t.hist.uploadWanted)) ∧
    (∀ rounds : Byte, ∃ n, n ∈ [1, 2, 3, 6, 12, 30] ∧
      (∀ m ∈ [1, 2, 3, 6, 12, 30], ((rounds.toNat : Int) - (n : Nat)).natAbs ≤ ((rounds.toNat : Int) - (m : Nat)).natAbs ∧
        (((rounds.toNat : Int) - (n : Nat)).natAbs = ((rounds.toNat : Int) - (m : Nat)).natAbs → m ≤ n)) ∧
      exec (.setInterval h rounds) s = .next
        (({ s with ctl := { s.ctl with working := { s.ctl.working with interval := n } } } : State).respond h
          (if n = rounds.toNat then .ok else .clamped) (u8 n))) ∧
    ∀ (a b c d : Byte),
      (∀ g : Grants, yesNo a = some g.readings → yesNo b = some g.handoverBegin → yesNo c = some g.receiptRead →
        yesNo d = some g.historyRead → exec (.setRights h a b c d) s = .next
          (({ s with ctl := { s.ctl with working := { s.ctl.working with grants := g } } } : State).respond h .ok
            (flag g.readings ++ flag g.handoverBegin ++ flag g.receiptRead ++ flag g.historyRead))) ∧
      (1 < a.toNat ∨ 1 < b.toNat ∨ 1 < c.toNat ∨ 1 < d.toNat →
        exec (.setRights h a b c d) s = .next (s.respond h .badArgument []))

/-- R2, R57, R58, R171, R172: ENTER_SERVICE in SETUP with no commit in flight is refused UNCOMMITTED while the settings
differ, and NOT_READY with the code and index of the first of the six tests that fails; otherwise the mode becomes SERVICE
and every compartment in use has its estimate start due. LEAVE_SERVICE in SERVICE or PARKED is refused while anything is in
custody or a context exists; otherwise the mode becomes SETUP and every excursion CLEAR. That ENTER_SERVICE leaves the quiet
count at 0 is log 62's choice. -/
def Obligations.ServiceIsEnteredAndLeft : Prop :=
  ∀ (h : Header) (s : State), Taken .mode h s →
    (s.ctl.mode = .setup → s.ctl.commit = none →
      (s.ctl.working ≠ s.committed → exec (.enterService h) s = .next (s.respond h .uncommitted [])) ∧
      (s.ctl.working = s.committed →
        (s.fe.ref.pass = false → exec (.enterService h) s = .next (s.respond h .notReady [0#8, 255#8])) ∧
        (s.fe.ref.pass = true →
          ((∀ c, s.inUse c = false) → exec (.enterService h) s = .next (s.respond h .notReady [1#8, 255#8])) ∧
          (∀ c, s.inUse c = true → (s.config c).zone = none ∨ (s.config c).primary = none →
            (∀ d, d < c → s.inUse d = true → (s.config d).zone ≠ none ∧ (s.config d).primary ≠ none) →
            exec (.enterService h) s = .next (s.respond h .notReady
              [if (s.config c).zone = none then 2#8 else 3#8, BitVec.ofNat 8 c.val])) ∧
          ((∃ c, s.inUse c = true) → (∀ c, s.inUse c = true → (s.config c).zone ≠ none ∧ (s.config c).primary ≠ none) →
            (∀ p, 2 ≤ (assignment s.ctl.working.comps p).length →
              (∀ q, q < p → (assignment s.ctl.working.comps q).length < 2) →
              exec (.enterService h) s = .next (s.respond h .notReady [4#8, BitVec.ofNat 8 p.val])) ∧
            ((∀ p, (assignment s.ctl.working.comps p).length < 2) →
              (∀ l c, (s.entry l).kind = .door ∨ (s.entry l).kind = .defrost → (s.entry l).comp = some c → s.inUse c = false →
                (∀ k d, k < l → (s.entry k).kind = .door ∨ (s.entry k).kind = .defrost → (s.entry k).comp = some d →
                  s.inUse d = true) →
                exec (.enterService h) s = .next (s.respond h .notReady [5#8, BitVec.ofNat 8 l.val])) ∧
              ((∀ l c, (s.entry l).kind = .door ∨ (s.entry l).kind = .defrost → (s.entry l).comp = some c →
                  s.inUse c = true) →
                exec (.enterService h) s = .next (({ s with
                  ctl := { s.ctl with
                    mode := .service, heldMode := .service, serviceRound := false, quiet := 0, warmUpEnd := none,
                    wakingCheck := false }
                  mon := s.mon.mapIdx fun c m => if s.inUse c then { m with startDue := true } else m
                  marks := s.marks ++ [.mode .setup .service .enterService]
                  ports := (s.raise .mode).ports } : State).respond h .ok (u8 2)))))))) ∧
    (s.ctl.mode = .service ∨ s.ctl.mode = .parked →
      (s.custodySlots ≠ [] ∨ s.hand.contexts ≠ [] → exec (.leaveService h) s = .next
        (s.respond h .badState (u8 s.custodySlots.length ++ u8 s.hand.contexts.length))) ∧
      (s.custodySlots = [] → s.hand.contexts = [] → ∃ t, exec (.leaveService h) s = .next t ∧
        t = { s with
          ctl := { s.ctl with mode := .setup, heldMode := .setup, warmUpEnd := none, wakingCheck := false }
          fe := { s.fe with nextStart :=
            if s.ctl.mode = .parked then some (min (s.fe.nextStart.getD (s.now + 10)) (s.now + 10)) else s.fe.nextStart }
          mon := s.mon.mapIdx fun _ m => { m with excursion := .clear, pending := 0 }
          marks := s.marks ++ [.mode s.ctl.mode .setup .leaveService]
          ports := t.ports } ∧
        s.answered t h .ok (u8 1) ∧ ∀ q, hasKind (t.ports.at q).pending .mode = true))

/-- R174: PARK and WAKE in every mode outside START. PARK sets the PARK flag and changes no mode. WAKE clears it, and then
takes a PARKED part to SERVICE and a DORMANT one to WAKING with cause WAKE, and changes no other mode. Each answers OK with
the mode, the PARK flag, the park-line indication and the park condition that stand after it. -/
def Obligations.ParkAndWakeActOnTheParkFlag : Prop :=
  ∀ (h : Header) (s : State), Taken .mode h s →
    exec (.park h) s = .next (({ s with ctl := { s.ctl with parkFlag := true } } : State).respond h .ok
      (u8 s.ctl.mode.code ++ flag true ++ flag s.parkLine ++ flag true)) ∧
    ∃ (t : State) (m : Mode), exec (.wake h) s = .next t ∧
      m = (if s.ctl.mode = .parked then .service else if s.ctl.mode = .dormant then .waking else s.ctl.mode) ∧
      t = { s with ctl := t.ctl, fe := t.fe, marks := t.marks, ports := t.ports } ∧
      t.ctl.mode = m ∧ t.ctl.parkFlag = false ∧
      s.answered t h .ok (u8 m.code ++ flag false ++ flag s.parkLine ++ flag s.parkLine) ∧
      (m = s.ctl.mode → t.ctl = { s.ctl with parkFlag := false } ∧ t.fe = s.fe ∧ t.marks = s.marks) ∧
      (m ≠ s.ctl.mode → t.marks = s.marks ++ [.mode s.ctl.mode m .wake])

/-- R2, R58, R165, R175, R177, R178: a service round taken in SERVICE sets the service-round flag, and the part parks when
the park condition holds with every door phase CLOSED. In PARKED a publication with nothing in custody and no context grows
the quiet count, any other resets it, and the thirtieth puts the part to sleep. In WAKING the warm-up end makes the check,
and its end enters PARKED or SERVICE, makes every estimate start due and starts a round. That PARK_TEST, QUIET_COUNT and
ENTER_DORMANT are the controller's publication itself is log 6's; the engine keeps no publication in DORMANT (R64, log 37).
-/
def Obligations.ParkingSleepAndWaking : Prop :=
  ∀ s : State,
    (∀ (p : Publication) (rest : List Publication), s.pubs.control = p :: rest →
      (s.ctl.mode = .service → p.parked = false → p.startedIn = .service → ∃ t, exec .parkTest s = .next t ∧
        t.fe = s.fe ∧ t.mon = s.mon ∧ t.cons = s.cons ∧ t.pubs = { s.pubs with control := rest } ∧
        t.ctl.serviceRound = true ∧
        (s.parkCondition = true ∧ (∀ c, s.inUse c = true → (s.mon.read c).door = .closed) →
          t.ctl.mode = .parked ∧ t.ctl.heldMode = .parked ∧ t.ctl.quiet = 0 ∧
          t.marks = s.marks ++ [.mode .service .parked .park]) ∧
        (¬ (s.parkCondition = true ∧ ∀ c, s.inUse c = true → (s.mon.read c).door = .closed) →
          t.ctl = { s.ctl with serviceRound := true } ∧ t.marks = s.marks)) ∧
      (s.ctl.mode = .parked → s.custodySlots = [] → s.hand.contexts = [] →
        (s.ctl.quiet < 29 → exec .quietCount s = .next { s with
          pubs := { s.pubs with control := rest }
          ctl := { s.ctl with quiet := s.ctl.quiet + 1 } }) ∧
        (s.ctl.quiet = 29 → ∃ t, exec .enterDormant s = .next t ∧ t.cons = s.cons ∧ t.mon = s.mon ∧ t.ctl.mode = .dormant ∧
          t.ctl.heldMode = .dormant ∧ t.fe.nextStart = none ∧ t.marks = s.marks ++ [.mode .parked .dormant .quiet] ∧
          t.pubs = { s.pubs with control := rest, engine := [] })) ∧
      (s.ctl.mode = .parked → s.custodySlots ≠ [] ∨ s.hand.contexts ≠ [] → exec .quietCount s = .next { s with
        pubs := { s.pubs with control := rest }
        ctl := { s.ctl with quiet := 0 } })) ∧
    (s.powered = true → s.ctl.mode = .waking →
      (∀ w, s.ctl.warmUpEnd = some w → w ≤ s.now →
        exec .warmUpEnd s = .next { s with ctl := { s.ctl with wakingCheck := true } }) ∧
      ∀ (a b : BitVec 16) (m : Mode), s.ctl.wakingCheck = true → s.fe.round = none →
        m = (if s.parkCondition then .parked else .service) →
        ∃ t r, exec (.wakingComplete a b) s = .next t ∧ t.ctl.mode = m ∧ t.ctl.warmUpEnd = none ∧
          t.fe.ref.codeA = a ∧ t.fe.ref.codeB = b ∧
          (t.fe.ref.pass = true ↔ 12784 ≤ a.toNat ∧ a.toNat ≤ 12816 ∧ 51184 ≤ b.toNat ∧ b.toNat ≤ 51216) ∧
          t.mon = s.mon.mapIdx (fun c x => if s.inUse c then { x with startDue := true } else x) ∧
          t.fe.round = some r ∧ r.start = s.now ∧ r.startedIn = m ∧ (r.parked = true ↔ m = .parked) ∧
          t.fe.nextStart = some (s.now + if m = .parked then 60 else 10) ∧
          Mark.mode .waking m .wakingDone ∈ t.marks ∧ t.cons = s.cons)

/-- R26, R27, R38, R47, R130, R179, R180: SET_TIME stores wall-seconds less recorder time, held within 32 signed bits, and
requests a TIME mark. While the backup domain is kept, each second advances recorder time by 1 and, while lines are watched,
the door-second counters of open compartments modulo 2^32 and what the monitor waits for; outside START also what the
hand-over unit waits for. At its maximum recorder time holds. An advance past the door open limit, or to an expiry second, is
marked and taken as a row of its own (log 7), and a context that START is to cancel is not marked (log 5). That lines are
watched, and counters run, from START's sampling onward is log 19's reading of R38. -/
def Obligations.TimeIsSetAndRuns : Prop :=
  (∀ (h : Header) (wall : BitVec 32) (s : State) (o : Int), Taken .mode h s →
    o = max (-2147483648) (min 2147483647 ((wall.toNat : Int) - (s.now : Int))) →
    exec (.setTime h wall) s = .next (({ s with
        ctl := { s.ctl with wallOffset := some o }
        marks := s.marks ++ [.time s.ctl.wallOffset o] } : State).respond h
      (if o = (wall.toNat : Int) - (s.now : Int) then .ok else .clamped) (u32 s.now ++ i32 o))) ∧
  ∀ s : State,
    (4294967295 ≤ s.now → exec .secondAdvance s = .next s) ∧
    (s.now < 4294967295 → s.linesWatched = false → s.ctl.mainPower = true ∨ s.ctl.supplyFell = false →
      exec .secondAdvance s = .next { s with ctl := { s.ctl with time := s.now + 1 } }) ∧
    (s.ctl.mainPower = false → s.ctl.supplyFell = true → exec .secondAdvance s = .next s) ∧
    (s.now < 4294967295 → s.linesWatched = true → ∃ t, exec .secondAdvance s = .next t ∧
      t = { s with
        ctl := { s.ctl with time := s.now + 1 }
        lines := { s.lines with counters := t.lines.counters }
        mon := t.mon
        hand := { s.hand with contexts := t.hand.contexts } } ∧
      (∀ c, t.lines.counters.read c = s.lines.counters.read c + if s.doorOpen c then 1#32 else 0#32) ∧
      (∀ c z b, s.inUse c = true → s.zoneOf c = some z → (s.mon.read c).door = .allow → (s.mon.read c).openStart = some b →
        (b : Int) + z.doorOpenLimit < (s.now : Int) + 1 → t.mon.read c = { s.mon.read c with overstayDue := true }) ∧
      (∀ c z b, s.zoneOf c = some z → (s.mon.read c).openStart = some b → (s.now : Int) + 1 ≤ (b : Int) + z.doorOpenLimit →
        t.mon.read c = s.mon.read c) ∧
      (∀ c, s.inUse c = false ∨ s.zoneOf c = none ∨ (s.mon.read c).door ≠ .allow ∨ (s.mon.read c).openStart = none →
        t.mon.read c = s.mon.read c) ∧
      t.hand.contexts = s.hand.contexts.map fun c => match c.state with
        | .waiting e due => { c with state := .waiting e (due || (decide (e ≤ s.now + 1) && s.ctl.mode != .start)) }
        | .deciding .. => c)

/-- R3, R7, R34, R181, R189, R198: RESTART on the T-port, in every mode outside START and even with a command in flight
there. Framers, link counts and pending sets come to rest, enable sets take their defaults, no port has a command in flight,
the door-change flags are cleared, the round is abandoned with a check requested, and its own answer is the T-port's only
one. The rest of the part is kept but for publications no block has taken (log 17). That the start second of the last
published round is kept too is log 38's choice. -/
def Obligations.RestartResetsThePorts : Prop :=
  ∀ (tag : Byte) (s : State), s.powered = true → s.ctl.mode ≠ .start →
    ∃ t, exec (.restart { port := .t, tag := tag }) s = .next t ∧
      t = { s with
        ctl := { s.ctl with commit := s.ctl.commit.map fun c => { c with tag := none } }
        fe := { s.fe with
          round := none
          checkRequest := true
          nextStart := if s.ctl.mode = .setup ∨ s.ctl.mode = .service ∨ s.ctl.mode = .parked then some (s.now + 1) else none }
        lines := { s.lines with flags := { t := 0#8, f := 0#8, h := 0#8 } }
        pubs := { line := [], monitor := [], engine := [], claims := [], control := [], store := [] }
        heldReads := s.heldReads.filter fun r => r.port != .t
        marks := s.marks ++ [.reset .restart s.now s.ctl.heldMode]
        ports := t.ports } ∧
      ∀ q, t.ports.at q = { s.ports.at q with
        framer := { state := .rest, expected := 0, chars := [] }
        inFlight := none
        responses := if q = .t then [{ status := .ok, tag := tag, data := [] }] else (s.ports.at q).responses
        timeouts := 0
        breaks := 0
        strays := 0
        errors := 0
        pending := 0#12
        enable := defaultEnables.at q
        attention := false }

/-- R139, R182, R183, R185: COMMIT_SETUP with nothing to write answers OK; otherwise it takes the working settings as they
stand and requests the commit. The commit's start spoils the area that does not hold the committed image; its end makes the
taken settings the committed ones, or leaves the committed ones as they were with STORE_FAULT. A counter block rewrite writes
the values table memory held at its start; failing once it is made again, and failing twice raises STORE. That the area stops
verifying at the operation's start, and stays so after a failure, is log 26's; the generation of a first image, on which only
later choices between images rest, is log 72's. That the second attempt of a rewrite writes the values taken at the first
attempt's start is the model's choice (log 75). -/
def Obligations.CommitsAndRewritesKeepOneGoodCopy : Prop :=
  (∀ (h : Header) (s : State), Editable h s →
    (s.ctl.working = s.committed → exec (.commitSetup h) s = .next (s.respond h .ok [])) ∧
    (s.ctl.working ≠ s.committed → exec (.commitSetup h) s = .next { s with
      ctl := { s.ctl with commit := some { contents := s.ctl.working, tag := some h.tag } }
      bank := { s.bank with queue := s.bank.queue ++ [.commit] }
      ports := s.ports.put h.port
        { s.ports.at h.port with inFlight := some { command := .commitSetup, tag := h.tag } } })) ∧
  ∀ s : State,
    (∀ rest, s.powered = true → s.bank.busy = none →
      (s.bank.queue = .commit :: rest → ∃ t, exec .commitStart s = .next t ∧ t.committed = s.committed ∧
        t = { s with bank := { s.bank with busy := some .commit, queue := rest, settings := t.bank.settings } } ∧
        (t.bank.settings.a = none ∨ t.bank.settings.b = none)) ∧
      (s.bank.queue = .counterRewrite :: rest → ∃ t, exec .counterBlockRewriteStart s = .next t ∧
        t = { s with bank := { s.bank with
          busy := some .counterRewrite
          queue := rest
          secondRewrite := false
          rewrite := { counter := s.claims.counter, sectors := s.hist.retiredSet, blocks := s.hand.retired }
          counters := t.bank.counters } } ∧
        t.bank.counters.newest = s.bank.counters.newest)) ∧
    (∀ (c : Commit) (ok : Bool), s.ctl.commit = some c → s.bank.busy = some .commit → ∃ t, exec (.commitEnd ok) s = .next t ∧
      t = { s with
        ctl := { s.ctl with commit := none }
        bank := { s.bank with busy := none, settings := t.bank.settings }
        ports := t.ports } ∧
      t.committed = (if ok then c.contents else s.committed) ∧ (ok = false → t.bank.settings = s.bank.settings) ∧
      (∀ tag, c.tag = some tag →
        t.ports.t.responses = s.ports.t.responses ++ [{ status := if ok then .ok else .storeFault, tag := tag, data := [] }] ∧
        ∀ f, t.ports.t.inFlight = some f → f.command ≠ .commitSetup) ∧
      (c.tag = none → t.ports = s.ports)) ∧
    (s.bank.busy = some .counterRewrite →
      (∃ t, exec (.counterBlockRewriteEnd true) s = .next t ∧
        t = { s with bank := { s.bank with busy := none, counters := t.bank.counters } } ∧
        (t.bank.counters.newest.map fun i => i.contents) = some s.bank.rewrite) ∧
      (s.bank.secondRewrite = false → exec (.counterBlockRewriteEnd false) s = .next { s with
        bank := { s.bank with secondRewrite := true } }) ∧
      (s.bank.secondRewrite = true → exec (.counterBlockRewriteEnd false) s = .next { s with
        bank := { s.bank with busy := none }
        ports := (s.raise .store).ports }))

/-- R23, R28, R29, R34, R39, R42, R52, R62, R164, R184: FACTORY_CLEAR with a claim, an occupied slot or an unacknowledged
receipt is refused and names which hold. Taken, it gives the working settings their defaults but for the trims, counts every
unsent record as lost and acknowledged, makes every sector that is not blank ERASING, requests a CLEARED mark, and keeps the
receipts, the claims unit's counter, the committed copy, the consignments and the rest of the controller, and answers OK. Each
line whose entry the restore changes loses its candidate and follows its raw level at once; one whose door-active state or
compartment changes sets its door-change flag on every port, closes its episode, opens one, or does both. The monitor starts a
compartment put into use, clears one taken out of it, keeps the excursion and the estimate of one that stays in use, and
decides SETPOINT_CONFLICT afresh. That the lines are restored before the compartments, on which the clauses on a compartment
put into use rest (its door phase and indications are those after the line restore), is the model's choice (log 35), and so is
that the unsent records are counted as the unsent count (log 70), and that a sector marked for retirement is made ERASING and
counted in the CLEARED mark, where R147 would have it retired (log 74). The answer is said of a port for which no READ_HISTORY
is held, as R157 holds it in flight and a port with a command in flight is answered BUSY (R188). The refusal's three flag
bytes (log 24) and DOOR and UNIT events that an edit raises (log 65) are the model's. -/
def Obligations.FactoryClearRestoresTheDefaults : Prop :=
  ∀ (h : Header) (s : State), Editable h s →
    (s.claimCount ≠ 0 ∨ s.occupied ≠ 0 ∨ s.hand.acked < s.hand.newest → exec (.factoryClear h) s = .next (s.respond h .badState
      (flag (s.claimCount != 0) ++ flag (s.occupied != 0) ++ flag (decide (s.hand.acked < s.hand.newest))))) ∧
    (s.claimCount = 0 → s.occupied = 0 → s.hand.newest ≤ s.hand.acked → ∃ t, exec (.factoryClear h) s = .next t ∧
      t.ctl = { s.ctl with working := defaultsWith s.ctl.working.trims } ∧
      t.hand = s.hand ∧ t.claims = s.claims ∧ t.bank = s.bank ∧ t.lines.counters = s.lines.counters ∧
      (∀ j, t.cons.read j = none) ∧
      t.hist.newest = s.hist.newest ∧ t.hist.acked = s.hist.newest ∧
      t.hist.lostUnsent = min (s.hist.lostUnsent + (s.hist.newest - s.hist.acked)) 4294967295 ∧ t.hist.current = none ∧
      (∀ i, (t.hist.sectors.read i).state =
        if (s.hist.sectors.read i).state = .writing ∨ (s.hist.sectors.read i).state = .full then .erasing
        else (s.hist.sectors.read i).state) ∧
      Mark.cleared (s.hist.sectors.indices fun _ x => x.state == .writing || x.state == .full).length
        (s.hist.newest - s.hist.acked) ∈ t.marks ∧
      ((∀ r ∈ s.heldReads, r.port ≠ h.port) → (t.ports.at h.port).responses =
        (s.ports.at h.port).responses ++ [{ status := .ok, tag := h.tag, data := [] }]) ∧
      (∀ l, t.lines.line.read l = if s.entry l = t.entry l then s.lines.line.read l else
        { high := (s.lines.line.read l).high
          active := (t.entry l).kind != .unused && (s.lines.line.read l).high == (t.entry l).activeHigh
          candidate := none }) ∧
      (∀ l q, (t.lines.flags.at q).getLsbD l.val =
        ((s.lines.flags.at q).getLsbD l.val || decide (s.doorActiveIn l ≠ t.doorActiveIn l))) ∧
      (∀ l c, s.doorActiveIn l ≠ some c → t.doorActiveIn l = some c → ∃ e ∈ t.lines.log,
        e.line = l ∧ e.comp = c ∧ e.start = s.now ∧ e.stop = none) ∧
      (∀ l c, s.doorActiveIn l = some c → t.doorActiveIn l ≠ some c → ∀ e ∈ t.lines.log, e.line = l → e.stop = none →
        e.start = s.now ∧ t.doorActiveIn l = some e.comp) ∧
      (∀ c m, t.mon.read c = m → s.inUse c = false → t.inUse c = true →
        m.door = (if t.doorOpen c then .allow else .closed) ∧ m.openStart = (if t.doorOpen c then some s.now else none) ∧
        m.recovery = none ∧ m.defrost = (if t.defrostIndication c then .allow else .none) ∧
        (t.defrostIndication c = true → m.elapsed = 0) ∧ m.excursion = .clear ∧ m.pending = 0 ∧ m.estimate = none ∧
        m.startDue = true) ∧
      (∀ c m, t.mon.read c = m → s.inUse c = true → t.inUse c = false →
        m.door = .closed ∧ m.openStart = none ∧ m.recovery = none ∧ m.defrost = .none ∧ m.excursion = .clear ∧
        m.estimate = none) ∧
      (∀ c, s.inUse c = t.inUse c → (t.mon.read c).excursion = (s.mon.read c).excursion ∧
        (t.mon.read c).pending = (s.mon.read c).pending ∧ (t.mon.read c).estimate = (s.mon.read c).estimate ∧
        (t.mon.read c).startDue = (s.mon.read c).startDue) ∧
      ∀ c, (t.mon.read c).setpoint = (s.mon.read c).setpoint ∧ (t.mon.read c).defrostReport = (s.mon.read c).defrostReport ∧
        (t.mon.read c).unitReport = (s.mon.read c).unitReport ∧
        ((t.mon.read c).conflict = true ↔ t.inUse c = true ∧
          ∃ z v, t.zoneOf c = some z ∧ (s.mon.read c).setpoint = some v ∧ z.nominal < v))

/-- R33, R91, R103, R162, R166, R168, R170, R198, for main power failing and the reset input being asserted, in every mode.
The mode becomes START with the second and the cause stored; during a START, which is abandoned, the held mode stands, a
power failure sets a new loss second and the cause POWER, and an assertion of the reset input leaves a cause POWER with its
loss second as they are; the round, the queues, the answers, the operations in flight and what the ports held are lost, open
episodes close INTERRUPTED and load marks outstanding are cleared, while the settings, the held mode, recorder time, the
claims table and the door-second counters are kept. A fall of the backup supply is recorded. That mark requests and
publications not yet taken are lost, and load marks cleared, at the loss itself is log 31's. -/
def Obligations.PowerLossKeepsTheBackupDomain : Prop :=
  (∀ s : State, exec .backupSupplyFall s = .next { s with ctl := { s.ctl with supplyFell := true } }) ∧
  ∀ (s : State) (i : Instr) (keeps : Bool), s.ctl.mainPower = true →
    i = .mainPowerFailure ∨ (i = .resetInputAsserted ∧ s.ctl.resetInput = false) →
    (keeps = true ↔ i = .resetInputAsserted ∧ s.ctl.mode = .start ∧ s.ctl.startCause = .power) →
    ∃ t, exec i s = .next t ∧
      t.ctl = { s.ctl with
        mode := .start
        lossSecond := if keeps then s.ctl.lossSecond else some s.now
        startCause := if i = .mainPowerFailure ∨ keeps = true then .power else .reset
        mainPower := i != .mainPowerFailure
        resetInput := s.ctl.resetInput || i == .resetInputAsserted
        startRan := false
        wakingCheck := false } ∧
      t.claims = s.claims ∧ t.lines.counters = s.lines.counters ∧ t.lines.flags = s.lines.flags ∧
      t.lines.log = s.lines.log.map (fun e =>
        if e.stop = none then { e with stop := some s.now, interrupted := true } else e) ∧
      (∀ l, t.lines.line.read l = { s.lines.line.read l with candidate := none }) ∧
      (∀ j, t.cons.read j = (s.cons.read j).map fun x => { x with loadMarkOutstanding := false }) ∧
      t.fe = { s.fe with round := none, nextStart := none } ∧ t.marks = [] ∧ t.heldReads = [] ∧
      t.pubs = { line := [], monitor := [], engine := [], claims := [], control := [], store := [] } ∧
      t.hist.queue = [] ∧ t.hist.program = none ∧ t.hist.newest = s.hist.newest ∧ t.hist.acked = s.hist.acked ∧
      t.hist.queuedSamples = s.hist.queuedSamples ∧ t.hist.queuedMarks = s.hist.queuedMarks ∧
      t.bank.queue = [] ∧ t.bank.busy = none ∧ t.bank.settings = s.bank.settings ∧ t.bank.counters = s.bank.counters ∧
      t.hand.contexts = s.hand.contexts ∧ t.hand.newest = s.hand.newest ∧
      ∀ q, t.ports.at q = {
        framer := { state := .rest, expected := 0, chars := [] }, received := [], inFlight := none, responses := [],
        timeouts := 0, breaks := 0, strays := 0, errors := 0, pending := 0#12, enable := defaultEnables.at q,
        attention := false, sent := [] }

/-- R6, R38, R104, R124, R125, R144, R162, R163, R166 to R169, R182, R185, R198: START. It begins when main power is there and
the reset input released, takes the committed settings, makes the check and samples the lines. With a valid backup the history
sequences and the claims stand and the claim counters merge; a lost one clears the consignments, the contexts, the wall offset
and the PARK flag. Its completion answers BUSY to the frames that came during it and were not yet taken (log 46), cancels
every context and returns its consignment to the state before the hand-over, marks the outage after a power loss, makes the
domain valid and enters the restored mode. Its marks are the store's own and those of the cuts, then the HANDOVER_END marks
with cause POWER (in the order of log 35), then POWER_LOSS and POWER_RETURN, RESET or BACKUP_LOST, then the MODE marks. The
model's are: that recorder time after a backup loss holds at its maximum past the largest record time (log 64), that the
BACKUP_LOST mark carries the recorder second of START's scan (log 34), and that the store's own mark waits with START's (log
45). -/
def Obligations.StartRestoresThePart : Prop :=
  (∀ (s : State) (i : Instr) (found : StartInputs) (valid : Bool),
    (i = .mainPowerReturn found ∧ s.ctl.mainPower = false ∧ s.ctl.resetInput = false) ∨
      (i = .resetInputReleased found ∧ s.ctl.mainPower = true ∧ s.ctl.resetInput = true) →
    s.ctl.mode = .start → valid = (s.ctl.domainValid && !s.ctl.supplyFell && found.integrity) →
    ∃ t, exec i s = .next t ∧
      t.ctl.mode = .start ∧ t.powered = true ∧ t.ctl.startRan = true ∧ t.ctl.heldMode = s.ctl.heldMode ∧
      t.ctl.working = s.committed ∧ t.ctl.commit = none ∧ t.ctl.warmUpEnd = none ∧
      t.ctl.startCause = (if valid then s.ctl.startCause else .backupLost) ∧
      t.fe.ref.codeA = found.refA ∧ t.fe.ref.codeB = found.refB ∧
      (t.fe.ref.pass = true ↔ 12784 ≤ found.refA.toNat ∧ found.refA.toNat ≤ 12816 ∧
        51184 ≤ found.refB.toNat ∧ found.refB.toNat ≤ 51216) ∧
      (∀ l, t.lines.line.read l =
        { high := (s.lines.line.read l).high
          active := (s.committed.lines.read l).kind != .unused &&
            (s.lines.line.read l).high == (s.committed.lines.read l).activeHigh
          candidate := none }) ∧
      t.lines.flags = { t := 0#8, f := 0#8, h := 0#8 } ∧
      (valid = true → t.now = s.now ∧ t.ctl.wallOffset = s.ctl.wallOffset ∧ t.ctl.parkFlag = s.ctl.parkFlag ∧
        t.hist.newest = s.hist.newest ∧ t.hist.acked = s.hist.acked ∧ t.hist.lostUnsent = s.hist.lostUnsent ∧
        t.hist.droppedSamples = min (s.hist.droppedSamples + s.hist.queuedSamples) 65535 ∧
        t.hist.droppedMarks = min (s.hist.droppedMarks + s.hist.queuedMarks) 65535 ∧
        t.claims.table = s.claims.table ∧ t.lines.counters = s.lines.counters ∧ t.hand.contexts = s.hand.contexts ∧
        t.claims.counter =
          max s.claims.counter ((s.bank.counters.newest.map fun v => v.contents.counter).getD 0)) ∧
      (valid = false → (∀ j, t.cons.read j = none) ∧ t.hand.contexts = [] ∧ t.ctl.wallOffset = none ∧
        t.ctl.parkFlag = false ∧ t.hand.acked = 0 ∧ (∀ c, t.lines.counters.read c = 0#32) ∧
        (∀ j k, t.claims.table.read j = some k → k.state = .orphaned ∧ k.cons = none) ∧
        t.now = match t.hist.readable.find? fun r => r.sequence == t.hist.newest with
          | some r => min (r.time + 1) 4294967295
          | none => 0)) ∧
  ∀ (s : State) (r : Mode), s.powered = true → s.ctl.mode = .start → s.ctl.startRan = true →
    ∃ t, exec .startComplete s = .next t ∧
      (r = (if s.ctl.startCause = .backupLost then .setup else match s.ctl.heldMode with
        | .service => .service
        | .parked => .parked
        | .dormant | .waking => if t.custodySlots = [] then .dormant else .parked
        | _ => .setup) →
        t.ctl.mode = (if s.parkCondition then r else if r = .parked then .service else if r = .dormant then .waking else r)) ∧
      t.ctl.heldMode = t.ctl.mode ∧ t.ctl.domainValid = true ∧ t.ctl.supplyFell = false ∧ t.ctl.startRan = false ∧
      t.ctl.working = s.ctl.working ∧ t.now = s.now ∧
      (∀ q, (t.ports.at q).received = []) ∧
      (∀ q, s.heldReads = [] → (∀ f ∈ (s.ports.at q).received, 2 ≤ f.length) → (t.ports.at q).responses =
        (s.ports.at q).responses ++ (s.ports.at q).received.map fun f =>
          { status := .busy, tag := f.getD 1 0#8, data := [] }) ∧
      t.hist.gapDue = (s.ctl.startCause != .backupLost) ∧ t.hand = { s.hand with contexts := [] } ∧
      (∀ j x, (∀ c ∈ s.hand.contexts, c.slot ≠ j) → s.cons.read j = some x → t.cons.read j = some
        { x with outageSeen := x.outageSeen || (x.inCustody && s.ctl.startCause == .power) }) ∧
      (∀ c x y, c ∈ s.hand.contexts → (∀ q ∈ s.hand.contexts, q.slot = c.slot → q = c) → s.cons.read c.slot = some x →
        y = { x with state := c.previous } →
        t.cons.read c.slot = some { y with outageSeen := x.outageSeen || (y.inCustody && s.ctl.startCause == .power) }) ∧
      (∀ j, s.cons.read j = none → t.cons.read j = none) ∧
      (∀ (ends own modes : List Mark),
        ends = s.hand.contexts.map (fun c =>
          .handoverEnd c.slot (match s.cons.read c.slot with | some x => x.id | none => 0#32) .power 0) →
        (s.ctl.startCause = .power → ∀ n, s.ctl.lossSecond = some n →
          own = [.powerLoss n s.ctl.heldMode, .powerReturn (s.ctl.startSecond - n)]) →
        (s.ctl.startCause = .reset → ∀ n, s.ctl.lossSecond = some n → own = [.reset .resetInput n s.ctl.heldMode]) →
        (s.ctl.startCause = .backupLost → ∀ x, s.ctl.lossReport = some x →
          own = [.backupLost s.ctl.startSecond x.readable s.hand.newest s.claims.counter x.rebuilt x.notRebuilt x.lowest]) →
        (s.ctl.startCause ≠ .backupLost → s.ctl.lossSecond ≠ none) →
        (s.ctl.startCause = .backupLost → s.ctl.lossReport ≠ none) →
        modes = .mode .start r .start :: (if s.parkCondition then [] else if r = .parked then
          [.mode .parked .service .parkEnded] else if r = .dormant then [.mode .dormant .waking .parkEnded] else []) →
        r = (if s.ctl.startCause = .backupLost then .setup else match s.ctl.heldMode with
          | .service => .service
          | .parked => .parked
          | .dormant | .waking => if t.custodySlots = [] then .dormant else .parked
          | _ => .setup) →
        ∃ first, t.marks = s.marks ++ first ++ ends ++ own ++ modes ∧
          ∀ m ∈ first, (∃ a b, m = .stall a b) ∨ ∃ a b, m = .claimCut a b) ∧
      (s.ctl.wallOffset = none → ∀ q, hasKind (t.ports.at q).pending .time = true) ∧
      (s.ctl.startCause = .backupLost → ∀ q, hasKind (t.ports.at q).pending .backupLost = true) ∧
      (s.hand.contexts ≠ [] → ∀ q, hasKind (t.ports.at q).pending .handover = true) ∧
      ∀ q, hasKind (t.ports.at q).pending .mode = true

/-! ## Reads, events and links (files 01 to 10) -/

/-- R17, R36, R37, R60, R101, R123, R131, R142 and R197: the read commands. Each answers and changes nothing else, but for
READ_DOORS, which clears the asking port's door-change flags after its answer is formed. READ_DOOR_LOG answers 1 to 8
episodes from the number given, oldest first, with the lowest and highest numbers held; READ_CONSIGNMENT, READ_CLAIM,
GET_SUMMARY and READ_RECEIPT answer NOT_FOUND for what is not there, BAD_ARGUMENT for a slot out of range, and READ_RECEIPT 0
the newest receipt. What a summary without a decision shows in two flags and in the custody seconds is log 48's. The layouts
of the answers are the model's where the spec gives none (log 15). -/
def Obligations.ReadsChangeNothing : Prop :=
  ∀ (h : Header) (s : State),
    (Taken .readings h s →
      (exec (.readProbes h) s = .next (s.respond h .ok (present s.fe.lastStart 4 u32 ++
        flag (decide (s.ctl.mode = .dormant ∨ s.ctl.mode = .waking)) ++ flag s.fe.ref.converterFault ++
        (List.finRange 8).flatMap s.probeBytes))) ∧
      (exec (.readAir h) s = .next (s.respond h .ok (present s.fe.lastStart 4 u32 ++
        flag (decide (s.ctl.mode = .dormant ∨ s.ctl.mode = .waking)) ++ u8 s.ctl.mode.code ++
        (List.finRange 4).flatMap s.airBytes))) ∧
      (∃ d, exec (.readDoors h) s = .next
        (({ s with lines := { s.lines with flags := s.lines.flags.put h.port 0#8 } } : State).respond h .ok d) ∧
        d = (List.finRange 8).flatMap (s.lineBytes h.port) ++ (List.finRange 4).flatMap s.doorBytes ++
          (List.finRange 4).flatMap (fun c => flag (s.defrostLine c)) ++ flag s.unitLine ++ flag s.parkLine) ∧
      (∀ (start : BitVec 32) (count : Byte) (n : Nat), n = max 1 (min 8 count.toNat) →
        ∃ lowest highest, exec (.readDoorLog h start count) s =
          .next (s.respond h (if n = count.toNat then .ok else .clamped) (u8 s.lines.log.length ++
            u8 (s.lines.log.filter fun e => e.stop.isNone).length ++ present lowest 4 u32 ++ present highest 4 u32 ++
            u32 s.lines.nextEpisode ++
            members ((s.lines.log.filter fun e => start.toNat ≤ e.number).take n) Episode.bytes)) ∧
          (s.lines.log = [] → lowest = none ∧ highest = none) ∧
          (s.lines.log ≠ [] → ∃ a ∈ s.lines.log, ∃ b ∈ s.lines.log, lowest = some a.number ∧ highest = some b.number ∧
            ∀ e ∈ s.lines.log, a.number ≤ e.number ∧ e.number ≤ b.number)) ∧
      (∀ id j x, s.byId id = some (j, x) →
        exec (.readConsignment h (.byId id)) s = .next (s.respond h .ok (s.consBytes j x))) ∧
      (∀ id, s.byId id = none → exec (.readConsignment h (.byId id)) s = .next (s.respond h .notFound [])) ∧
      (∀ b : Byte, 32 ≤ b.toNat → exec (.readConsignment h (.bySlot b)) s = .next (s.respond h .badArgument [])) ∧
      ∀ (b : Byte) (j : Fin 32), b.toNat = j.val → exec (.readConsignment h (.bySlot b)) s =
        .next (match s.cons.read j with
          | some x => s.respond h .ok (s.consBytes j x)
          | none => s.respond h .notFound [])) ∧
    (Taken .claims h s →
      (∀ number : BitVec 32, exec (.readClaim h (.byNumber number)) s = .next (match s.claimByNumber number.toNat with
        | some (_, k) => s.respond h .ok (s.claimBytes k)
        | none => s.respond h .notFound [])) ∧
      (∀ b : Byte, 16 ≤ b.toNat → exec (.readClaim h (.bySlot b)) s = .next (s.respond h .badArgument [])) ∧
      ∀ (b : Byte) (i : Fin 16), b.toNat = i.val → exec (.readClaim h (.bySlot b)) s =
        .next (match s.claims.table.read i with
          | some k => s.respond h .ok (s.claimBytes k)
          | none => s.respond h .notFound [])) ∧
    (Taken .summary h s → ∀ id : BitVec 32, exec (.getSummary h id) s = .next (match s.byId id with
      | some (j, x) => s.respond h .ok (u8 x.state.code ++ s.contextBytes (s.contextOf j) ++ (s.summary j x).summaryBytes ++
          s.claimSummary x)
      | none => s.respond h .notFound [])) ∧
    (Taken .receiptRead h s → ∀ number : BitVec 32, exec (.readReceipt h number) s =
      .next (match s.hand.locate (if number = 0#32 then s.hand.newest else number.toNat) with
        | some (b, i, r) => s.respond h .ok (r.bytes ++ u8 b.val ++ u8 i.val ++ flag (decide (r.number ≤ s.hand.acked)))
        | none => s.respond h .notFound [])) ∧
    (Taken .readStatus h s → exec (.readStatus h) s = .next (s.respond h .ok (s.statusBytes h.port)))

/-- R196: READ_EVENTS, in every mode outside START, answers OK with the pending set, the enable set, the kinds both pending
and enabled, and the top reason of the port it arrives on, and changes no state. The top reason is the highest-priority kind
(its place in the priority order, from 0) both pending and enabled, or NONE (255, log 15) when there is none. -/
def Obligations.ReadEventsGivesTheTopReason : Prop :=
  ∀ (h : Header) (s : State) (u : PortUnit), Taken .events h s → s.ports.at h.port = u →
    ∃ top : Nat, exec (.readEvents h) s = .next (s.respond h .ok
        (u16 u.pending.toNat ++ u16 u.enable.toNat ++ u16 (u.pending &&& u.enable).toNat ++ u8 top)) ∧
      (u.pending &&& u.enable = 0#12 → top = 255) ∧
      (u.pending &&& u.enable ≠ 0#12 → top < 12 ∧ (u.pending &&& u.enable).getLsbD top = true ∧
        ∀ k, k < top → (u.pending &&& u.enable).getLsbD k = false)

/-- R34, R193, R194, R195: ENABLE_SET and ENABLE_CLEAR add and remove the kinds named in the port's enable set, ACK_EVENTS
removes them from its pending set. Enabling DOOR with a door-change flag set makes DOOR pending, where it was not enabled
before (log 28). Attention follows both sets;
nothing else of the port and no other port changes. A mask that names a thirteenth kind is refused. -/
def Obligations.EventSetsAreEditedPortByPort : Prop :=
  ∀ (h : Header) (kinds : BitVec 16) (s : State) (u : PortUnit) (k pending : BitVec 12), Taken .events h s →
    s.ports.at h.port = u →
    (4096 ≤ kinds.toNat →
      exec (.enableSet h kinds) s = .next (s.respond h .badArgument []) ∧
      exec (.enableClear h kinds) s = .next (s.respond h .badArgument []) ∧
      exec (.ackEvents h kinds) s = .next (s.respond h .badArgument [])) ∧
    (kinds.toNat = k.toNat →
      (pending = (if k.getLsbD 8 = true ∧ u.enable.getLsbD 8 = false ∧ s.lines.flags.at h.port ≠ 0#8 then u.pending ||| 256#12
          else u.pending) →
        exec (.enableSet h kinds) s = .next (({ s with ports := s.ports.put h.port { u with
            enable := u.enable ||| k
            pending := pending
            attention := pending &&& (u.enable ||| k) != 0#12 } } : State).respond h .ok
          (u16 (u.enable ||| k).toNat ++ u16 pending.toNat))) ∧
      exec (.enableClear h kinds) s = .next (({ s with ports := s.ports.put h.port { u with
            enable := u.enable &&& ~~~ k
            attention := u.pending &&& (u.enable &&& ~~~ k) != 0#12 } } : State).respond h .ok
          (u16 (u.enable &&& ~~~ k).toNat ++ u16 u.pending.toNat)) ∧
      exec (.ackEvents h kinds) s = .next (({ s with ports := s.ports.put h.port { u with
            pending := u.pending &&& ~~~ k
            attention := (u.pending &&& ~~~ k) &&& u.enable != 0#12 } } : State).respond h .ok
          (u16 (u.pending &&& ~~~ k).toNat)))

/-- R186, R187, R188, R210: a link's characters, its silence, its received frames and its answers. A start character of 2 to
250 opens a frame; a body character is counted and completes the frame at n + 2; a frame whose CRC-16 over length and body
verifies is handed on, any other answered FRAME_ERROR with tag 0. A received frame is answered BUSY in START and while a
command is in flight, BAD_ARGUMENT for a code of no command, DENIED outside the port's rights, BAD_ARGUMENT for a number of
argument bytes that fits no command of its code (after its rule's mode and BUSY checks, log 28), and else taken as the row of
the command it spells. The first queued answer is sent whole. That a frame whose check fails is answered FRAME_ERROR in START
too, and not BUSY, is the model's choice (log 77). That the row FRAME_RECEIVED leaves the state as it is where no received
frame waits is the model's choice (log 4). -/
def Obligations.LinksFrameCommandsAndAnswers : Prop :=
  ∀ (s : State) (p : Port) (u : PortUnit), s.powered = true → s.ports.at p = u →
    (∀ v : Byte, 2 ≤ v.toNat → v.toNat ≤ 250 → exec (.characterReceived p true v) s = .next { s with
      ports := s.ports.put p { u with
        framer := { state := .receiving, expected := v.toNat, chars := [] }
        breaks := if u.framer.state = .receiving then min (u.breaks + 1) 65535 else u.breaks } }) ∧
    (∀ v : Byte, v.toNat < 2 ∨ 250 < v.toNat → exec (.characterReceived p true v) s = .next { s with
      ports := s.ports.put p { u with
        framer := { state := .discarding, expected := 0, chars := [] }
        breaks := if u.framer.state = .receiving then min (u.breaks + 1) 65535 else u.breaks
        errors := min (u.errors + 1) 65535
        responses := u.responses ++ [{ status := .frameError, tag := 0#8, data := [] }] } }) ∧
    (∀ b : Byte,
      (u.framer.state = .rest → exec (.characterReceived p false b) s = .next { s with
        ports := s.ports.put p { u with strays := min (u.strays + 1) 65535 } }) ∧
      (u.framer.state = .discarding → exec (.characterReceived p false b) s = .next s) ∧
      (u.framer.state = .receiving → u.framer.chars.length + 1 < u.framer.expected + 2 →
        exec (.characterReceived p false b) s = .next { s with
          ports := s.ports.put p { u with framer := { u.framer with chars := u.framer.chars ++ [b] } } }) ∧
      (∀ body a, u.framer.state = .receiving → u.framer.chars = body ++ [a] → body.length = u.framer.expected →
        (a.toNat * 256 + b.toNat = (crc16 (BitVec.ofNat 8 u.framer.expected :: body)).toNat →
          exec (.characterReceived p false b) s = .next { s with ports := s.ports.put p { u with
            framer := { state := .rest, expected := 0, chars := [] }
            received := u.received ++ [body] } }) ∧
        (a.toNat * 256 + b.toNat ≠ (crc16 (BitVec.ofNat 8 u.framer.expected :: body)).toNat →
          exec (.characterReceived p false b) s = .next { s with ports := s.ports.put p { u with
            framer := { state := .rest, expected := 0, chars := [] }
            errors := min (u.errors + 1) 65535
            responses := u.responses ++ [{ status := .frameError, tag := 0#8, data := [] }] } }))) ∧
    (u.framer.state = .receiving → exec (.frameTimeout p) s = .next { s with ports := s.ports.put p { u with
      framer := { state := .rest, expected := 0, chars := [] }
      timeouts := min (u.timeouts + 1) 65535 } }) ∧
    (u.framer.state ≠ .receiving → exec (.frameTimeout p) s = .next s) ∧
    (u.received = [] → exec (.frameReceived p) s = .next s) ∧
    (∀ (code tag : Byte) (args : List Byte) (rest : List (List Byte)) (h : Header) (v : State),
      u.received = (code :: tag :: args) :: rest → h = { port := p, tag := tag } →
      v = { s with ports := s.ports.put p { u with received := rest } } →
      (s.ctl.mode = .start → exec (.frameReceived p) s = .next (v.respond h .busy [])) ∧
      (s.ctl.mode ≠ .start → u.inFlight ≠ none → ¬ (p = .t ∧ code.toNat = 36) →
        exec (.frameReceived p) s = .next (v.respond h .busy [])) ∧
      (s.ctl.mode ≠ .start → u.inFlight = none ∨ (p = .t ∧ code.toNat = 36) →
        (commandGroup code.toNat = none → exec (.frameReceived p) s = .next (v.respond h .badArgument [])) ∧
        ∀ g, commandGroup code.toNat = some g →
        (holdsGroup s.ctl.working.grants g p = false → exec (.frameReceived p) s = .next (v.respond h .denied [])) ∧
        (holdsGroup s.ctl.working.grants g p = true →
          ((∀ i, commandCode i = some code.toNat → (commandBytes i).length ≠ args.length) →
            modeTakes s.ctl.mode code.toNat = true → commitHolds code.toNat = false ∨ s.ctl.commit = none →
            exec (.frameReceived p) s = .next (v.respond h .badArgument [])) ∧
          ∀ i, parseCommand h code.toNat args = some i →
            ∃ t, exec (.frameReceived p) s = .next t ∧ exec i v = .next t))) ∧
    ∀ (r : Response) (rest : List Response), u.responses = r :: rest → exec (.responseSent p) s = .next { s with
      ports := s.ports.put p { u with responses := rest, sent := frameOf r.body } }
end

