-- ==== Sys2Proof/Laws/Bytes.lean ====
section
/-! SUPPORT. Fields and the parsing of a frame's argument bytes: the lengths of fields, and what reading a field that was just
written gives. -/

-- Many short proofs: checked one after another, they need fewer threads.
set_option Elab.async false

namespace Sys2Proof.Machine

@[simp] theorem length_u8 (n : Nat) : (u8 n).length = 1 := rfl
@[simp] theorem length_u16 (n : Nat) : (u16 n).length = 2 := rfl
@[simp] theorem length_u32 (n : Nat) : (u32 n).length = 4 := rfl
@[simp] theorem length_flag (b : Bool) : (flag b).length = 1 := rfl
@[simp] theorem length_i16 (t : Int) : (i16 t).length = 2 := rfl
@[simp] theorem length_i32 (t : Int) : (i32 t).length = 4 := rfl
@[simp] theorem length_word16 (w : BitVec 16) : (word16 w).length = 2 := rfl
@[simp] theorem length_word32 (w : BitVec 32) : (word32 w).length = 4 := rfl
@[simp] theorem length_optNumber (n : Option Nat) : (optNumber n).length = 4 := rfl
@[simp] theorem length_presenceByte (g : List Bool) : (presenceByte g).length = 1 := rfl
@[simp] theorem length_temp (t : Option Int) : (temp t).length = 2 := by cases t <;> rfl

/-- A field with a presence byte has its full width whether or not it is there. -/
theorem length_present {α : Type} (x : Option α) (n : Nat) (enc : α → List Byte) (h : ∀ a, (enc a).length = n) :
    (present x n enc).length = n + 1 := by
  cases x with
  | none => simp [present]; omega
  | some a => simp [present, h]; omega

theorem length_zonePairs (fields : List (Byte × BitVec 32)) :
    (fields.flatMap fun x => [x.1] ++ word32 x.2).length = 5 * fields.length := by
  induction fields with
  | nil => rfl
  | cons x xs ih => simp only [List.flatMap_cons, List.length_append, length_word32, List.length_cons, List.length_nil, ih]; omega

theorem length_zoneBytes (h : Header) (z : Byte) (fields : List (Byte × BitVec 32)) :
    (commandBytes (.setZone h z fields)).length = 1 + 5 * fields.length := by
  simp only [commandBytes, List.length_append, length_zonePairs, List.length_cons, List.length_nil]

/-! ## Reading a field back -/

@[simp] theorem take8_cons (b : Byte) (rest : List Byte) : take8 (b :: rest) = some (b, rest) := rfl

@[simp] theorem take16_word16 (w : BitVec 16) (rest : List Byte) : take16 (word16 w ++ rest) = some (w, rest) := by
  have h := w.isLt
  simp only [word16, u16, u8, List.cons_append, List.nil_append, take16, unsignedOf, List.foldl_cons, List.foldl_nil,
    Option.some.injEq, Prod.mk.injEq, and_true]
  apply BitVec.eq_of_toNat_eq
  simp only [BitVec.toNat_ofNat]
  omega

@[simp] theorem take32_word32 (w : BitVec 32) (rest : List Byte) : take32 (word32 w ++ rest) = some (w, rest) := by
  have h := w.isLt
  simp only [word32, u32, u16, u8, List.cons_append, List.nil_append, take32, unsignedOf, List.foldl_cons, List.foldl_nil,
    Option.some.injEq, Prod.mk.injEq, and_true]
  apply BitVec.eq_of_toNat_eq
  simp only [BitVec.toNat_ofNat]
  omega

@[simp] theorem take16_word16_end (w : BitVec 16) : take16 (word16 w) = some (w, []) := by
  simpa using take16_word16 w []

@[simp] theorem take32_word32_end (w : BitVec 32) : take32 (word32 w) = some (w, []) := by
  simpa using take32_word32 w []

/-- The pairs of SET_ZONE read back, with fuel for at least as many pairs as there are. -/
theorem takePairs_zonePairs (fields : List (Byte × BitVec 32)) :
    ∀ n, fields.length ≤ n → takePairs n (fields.flatMap fun x => [x.1] ++ word32 x.2) = some fields := by
  induction fields with
  | nil => exact fun n _ => by cases n <;> rfl
  | cons x xs ih =>
    intro n hn
    obtain ⟨m, rfl⟩ : ∃ m, n = m + 1 := ⟨n - 1, by simp at hn; omega⟩
    have hm : xs.length ≤ m := by simpa using hn
    have h := ih m hm
    simp only [List.cons_append, List.nil_append] at h
    simp [takePairs, h]

end Sys2Proof.Machine
end

