-- ==== Sys2Proof/Laws/Tables.lean ====
section
/-! SUPPORT. Reading what was written: the tables of Word.lean and the per-port values. -/

-- Many short proofs: checked one after another, they need fewer threads.
set_option Elab.async false

namespace Sys2Proof

variable {α β : Type} {n : Nat}

@[simp] theorem Table.read_write_same (t : Table α n) (i : Fin n) (a : α) : (t.write i a).read i = a := by
  simp [Table.read, Table.write]

theorem Table.read_write_other (t : Table α n) {i j : Fin n} (a : α) (h : j ≠ i) : (t.write i a).read j = t.read j := by
  have : i.val ≠ j.val := fun e => h (Fin.ext e.symm)
  simp [Table.read, Table.write, this]

theorem Table.read_write (t : Table α n) (i j : Fin n) (a : α) :
    (t.write i a).read j = if j = i then a else t.read j := by
  by_cases h : j = i
  · subst h; simp
  · simp [h, Table.read_write_other t a h]

@[simp] theorem Table.read_modify_same (t : Table α n) (i : Fin n) (f : α → α) : (t.modify i f).read i = f (t.read i) :=
  Table.read_write_same t i _

theorem Table.read_modify_other (t : Table α n) {i j : Fin n} (f : α → α) (h : j ≠ i) :
    (t.modify i f).read j = t.read j :=
  Table.read_write_other t _ h

theorem Table.read_modify (t : Table α n) (i j : Fin n) (f : α → α) :
    (t.modify i f).read j = if j = i then f (t.read j) else t.read j := by
  by_cases h : j = i
  · subst h; simp
  · simp [h, Table.read_modify_other t f h]

@[simp] theorem Table.read_ofIdx (f : Fin n → α) (i : Fin n) : (Table.ofIdx f).read i = f i := by
  simp [Table.read, Table.ofIdx]

@[simp] theorem Table.read_mapIdx (t : Table α n) (f : Fin n → α → β) (i : Fin n) : (t.mapIdx f).read i = f i (t.read i) := by
  simp [Table.mapIdx]

@[simp] theorem Table.read_const (a : α) (i : Fin n) : (Table.const n a).read i = a := by
  simp [Table.const]

/-- Two tables that read alike are equal. -/
theorem Table.ext_read {t u : Table α n} (h : ∀ i, t.read i = u.read i) : t = u := by
  apply Vector.ext
  intro i hi
  exact h ⟨i, hi⟩

/-- Writing what already stands there changes nothing. -/
@[simp] theorem Table.write_read (t : Table α n) (i : Fin n) : t.write i (t.read i) = t :=
  Table.ext_read fun j => by
    by_cases h : j = i
    · subst h; simp
    · exact Table.read_write_other t _ h

@[simp] theorem Table.mapIdx_id (t : Table α n) : t.mapIdx (fun _ x => x) = t :=
  Table.ext_read fun i => by simp

/-- A modification that keeps the entry changes nothing. -/
theorem Table.modify_eq_self (t : Table α n) (i : Fin n) (f : α → α) (h : f (t.read i) = t.read i) : t.modify i f = t := by
  unfold Table.modify
  rw [h, Table.write_read]

namespace Machine

@[simp] theorem PerPort.at_put_same (x : PerPort α) (p : Port) (a : α) : (x.put p a).at p = a := by cases p <;> rfl

theorem PerPort.at_put_other (x : PerPort α) {p q : Port} (a : α) (h : q ≠ p) : (x.put p a).at q = x.at q := by
  cases p <;> cases q <;> first | rfl | exact absurd rfl h

theorem PerPort.at_put (x : PerPort α) (p q : Port) (a : α) : (x.put p a).at q = if q = p then a else x.at q := by
  by_cases h : q = p
  · subst h; simp
  · simp [h, PerPort.at_put_other x a h]

@[simp] theorem PerPort.at_map (x : PerPort α) (g : α → β) (p : Port) : (x.map g).at p = g (x.at p) := by cases p <;> rfl

/-- Two values that agree on every port are equal. -/
theorem PerPort.ext_at {x y : PerPort α} (h : ∀ p, x.at p = y.at p) : x = y := by
  obtain ⟨a, b, c⟩ := x
  obtain ⟨d, e, f⟩ := y
  have h1 : a = d := h .t
  have h2 : b = e := h .f
  have h3 : c = f := h .h
  rw [h1, h2, h3]

end Machine

end Sys2Proof
end

