-- ==== Sys2Proof/Laws/State.lean ====
section
/-! SUPPORT. What each shared update of State does to each field: one lemma per field per update. -/

-- Many short proofs: checked one after another, they need fewer threads.
set_option Elab.async false

namespace Sys2Proof.Machine.State

/-! ### modComp -/

@[simp] theorem modComp_pending (s : State) (c : Fin 4) (f : Compartment → Compartment) :
    (s.modComp c f).pending =
      s.pending := rfl
@[simp] theorem modComp_fe (s : State) (c : Fin 4) (f : Compartment → Compartment) : (s.modComp c f).fe = s.fe := rfl
@[simp] theorem modComp_pubs (s : State) (c : Fin 4) (f : Compartment → Compartment) : (s.modComp c f).pubs = s.pubs := rfl
@[simp] theorem modComp_lines (s : State) (c : Fin 4) (f : Compartment → Compartment) :
    (s.modComp c f).lines =
      s.lines := rfl
@[simp] theorem modComp_mon (s : State) (c : Fin 4) (f : Compartment → Compartment) :
    (s.modComp c f).mon =
      s.mon.modify c f := rfl
@[simp] theorem modComp_cons (s : State) (c : Fin 4) (f : Compartment → Compartment) : (s.modComp c f).cons = s.cons := rfl
@[simp] theorem modComp_claims (s : State) (c : Fin 4) (f : Compartment → Compartment) :
    (s.modComp c f).claims =
      s.claims := rfl
@[simp] theorem modComp_hand (s : State) (c : Fin 4) (f : Compartment → Compartment) : (s.modComp c f).hand = s.hand := rfl
@[simp] theorem modComp_hist (s : State) (c : Fin 4) (f : Compartment → Compartment) : (s.modComp c f).hist = s.hist := rfl
@[simp] theorem modComp_bank (s : State) (c : Fin 4) (f : Compartment → Compartment) : (s.modComp c f).bank = s.bank := rfl
@[simp] theorem modComp_ctl (s : State) (c : Fin 4) (f : Compartment → Compartment) : (s.modComp c f).ctl = s.ctl := rfl
@[simp] theorem modComp_ports (s : State) (c : Fin 4) (f : Compartment → Compartment) :
    (s.modComp c f).ports =
      s.ports := rfl
@[simp] theorem modComp_marks (s : State) (c : Fin 4) (f : Compartment → Compartment) :
    (s.modComp c f).marks =
      s.marks := rfl
@[simp] theorem modComp_heldReads (s : State) (c : Fin 4) (f : Compartment → Compartment) :
    (s.modComp c f).heldReads =
      s.heldReads := rfl
@[simp] theorem modComp_freeCount (s : State) (c : Fin 4) (f : Compartment → Compartment) :
    (s.modComp c f).freeCount =
      s.freeCount := rfl

/-! ### putCons -/

@[simp] theorem putCons_pending (s : State) (j : Fin 32) (x : Option Consignment) :
    (s.putCons j x).pending =
      s.pending := rfl
@[simp] theorem putCons_fe (s : State) (j : Fin 32) (x : Option Consignment) : (s.putCons j x).fe = s.fe := rfl
@[simp] theorem putCons_pubs (s : State) (j : Fin 32) (x : Option Consignment) : (s.putCons j x).pubs = s.pubs := rfl
@[simp] theorem putCons_lines (s : State) (j : Fin 32) (x : Option Consignment) : (s.putCons j x).lines = s.lines := rfl
@[simp] theorem putCons_mon (s : State) (j : Fin 32) (x : Option Consignment) : (s.putCons j x).mon = s.mon := rfl
@[simp] theorem putCons_cons (s : State) (j : Fin 32) (x : Option Consignment) :
    (s.putCons j x).cons =
      s.cons.write j x := rfl
@[simp] theorem putCons_claims (s : State) (j : Fin 32) (x : Option Consignment) : (s.putCons j x).claims = s.claims := rfl
@[simp] theorem putCons_hand (s : State) (j : Fin 32) (x : Option Consignment) : (s.putCons j x).hand = s.hand := rfl
@[simp] theorem putCons_hist (s : State) (j : Fin 32) (x : Option Consignment) : (s.putCons j x).hist = s.hist := rfl
@[simp] theorem putCons_bank (s : State) (j : Fin 32) (x : Option Consignment) : (s.putCons j x).bank = s.bank := rfl
@[simp] theorem putCons_ctl (s : State) (j : Fin 32) (x : Option Consignment) : (s.putCons j x).ctl = s.ctl := rfl
@[simp] theorem putCons_ports (s : State) (j : Fin 32) (x : Option Consignment) : (s.putCons j x).ports = s.ports := rfl
@[simp] theorem putCons_marks (s : State) (j : Fin 32) (x : Option Consignment) : (s.putCons j x).marks = s.marks := rfl
@[simp] theorem putCons_heldReads (s : State) (j : Fin 32) (x : Option Consignment) :
    (s.putCons j x).heldReads =
      s.heldReads := rfl
@[simp] theorem putCons_freeCount (s : State) (j : Fin 32) (x : Option Consignment) :
    (s.putCons j x).freeCount =
      s.freeCount := rfl

/-! ### modCons -/

@[simp] theorem modCons_pending (s : State) (j : Fin 32) (f : Consignment → Consignment) :
    (s.modCons j f).pending =
      s.pending := rfl
@[simp] theorem modCons_fe (s : State) (j : Fin 32) (f : Consignment → Consignment) : (s.modCons j f).fe = s.fe := rfl
@[simp] theorem modCons_pubs (s : State) (j : Fin 32) (f : Consignment → Consignment) : (s.modCons j f).pubs = s.pubs := rfl
@[simp] theorem modCons_lines (s : State) (j : Fin 32) (f : Consignment → Consignment) :
    (s.modCons j f).lines =
      s.lines := rfl
@[simp] theorem modCons_mon (s : State) (j : Fin 32) (f : Consignment → Consignment) : (s.modCons j f).mon = s.mon := rfl
@[simp] theorem modCons_cons (s : State) (j : Fin 32) (f : Consignment → Consignment) :
    (s.modCons j f).cons =
      s.cons.modify j (Option.map f) := rfl
@[simp] theorem modCons_claims (s : State) (j : Fin 32) (f : Consignment → Consignment) :
    (s.modCons j f).claims =
      s.claims := rfl
@[simp] theorem modCons_hand (s : State) (j : Fin 32) (f : Consignment → Consignment) : (s.modCons j f).hand = s.hand := rfl
@[simp] theorem modCons_hist (s : State) (j : Fin 32) (f : Consignment → Consignment) : (s.modCons j f).hist = s.hist := rfl
@[simp] theorem modCons_bank (s : State) (j : Fin 32) (f : Consignment → Consignment) : (s.modCons j f).bank = s.bank := rfl
@[simp] theorem modCons_ctl (s : State) (j : Fin 32) (f : Consignment → Consignment) : (s.modCons j f).ctl = s.ctl := rfl
@[simp] theorem modCons_ports (s : State) (j : Fin 32) (f : Consignment → Consignment) :
    (s.modCons j f).ports =
      s.ports := rfl
@[simp] theorem modCons_marks (s : State) (j : Fin 32) (f : Consignment → Consignment) :
    (s.modCons j f).marks =
      s.marks := rfl
@[simp] theorem modCons_heldReads (s : State) (j : Fin 32) (f : Consignment → Consignment) :
    (s.modCons j f).heldReads =
      s.heldReads := rfl
@[simp] theorem modCons_freeCount (s : State) (j : Fin 32) (f : Consignment → Consignment) :
    (s.modCons j f).freeCount =
      s.freeCount := rfl

/-! ### putClaim -/

@[simp] theorem putClaim_pending (s : State) (i : Fin 16) (x : Option Claim) : (s.putClaim i x).pending = s.pending := rfl
@[simp] theorem putClaim_fe (s : State) (i : Fin 16) (x : Option Claim) : (s.putClaim i x).fe = s.fe := rfl
@[simp] theorem putClaim_pubs (s : State) (i : Fin 16) (x : Option Claim) : (s.putClaim i x).pubs = s.pubs := rfl
@[simp] theorem putClaim_lines (s : State) (i : Fin 16) (x : Option Claim) : (s.putClaim i x).lines = s.lines := rfl
@[simp] theorem putClaim_mon (s : State) (i : Fin 16) (x : Option Claim) : (s.putClaim i x).mon = s.mon := rfl
@[simp] theorem putClaim_cons (s : State) (i : Fin 16) (x : Option Claim) : (s.putClaim i x).cons = s.cons := rfl
@[simp] theorem putClaim_claims (s : State) (i : Fin 16) (x : Option Claim) :
    (s.putClaim i x).claims =
      { s.claims with table := s.claims.table.write i x } := rfl
@[simp] theorem putClaim_hand (s : State) (i : Fin 16) (x : Option Claim) : (s.putClaim i x).hand = s.hand := rfl
@[simp] theorem putClaim_hist (s : State) (i : Fin 16) (x : Option Claim) : (s.putClaim i x).hist = s.hist := rfl
@[simp] theorem putClaim_bank (s : State) (i : Fin 16) (x : Option Claim) : (s.putClaim i x).bank = s.bank := rfl
@[simp] theorem putClaim_ctl (s : State) (i : Fin 16) (x : Option Claim) : (s.putClaim i x).ctl = s.ctl := rfl
@[simp] theorem putClaim_ports (s : State) (i : Fin 16) (x : Option Claim) : (s.putClaim i x).ports = s.ports := rfl
@[simp] theorem putClaim_marks (s : State) (i : Fin 16) (x : Option Claim) : (s.putClaim i x).marks = s.marks := rfl
@[simp] theorem putClaim_heldReads (s : State) (i : Fin 16) (x : Option Claim) :
    (s.putClaim i x).heldReads =
      s.heldReads := rfl
@[simp] theorem putClaim_freeCount (s : State) (i : Fin 16) (x : Option Claim) :
    (s.putClaim i x).freeCount =
      s.freeCount := rfl

/-! ### modPort -/

@[simp] theorem modPort_pending (s : State) (p : Port) (f : PortUnit → PortUnit) : (s.modPort p f).pending = s.pending := rfl
@[simp] theorem modPort_fe (s : State) (p : Port) (f : PortUnit → PortUnit) : (s.modPort p f).fe = s.fe := rfl
@[simp] theorem modPort_pubs (s : State) (p : Port) (f : PortUnit → PortUnit) : (s.modPort p f).pubs = s.pubs := rfl
@[simp] theorem modPort_lines (s : State) (p : Port) (f : PortUnit → PortUnit) : (s.modPort p f).lines = s.lines := rfl
@[simp] theorem modPort_mon (s : State) (p : Port) (f : PortUnit → PortUnit) : (s.modPort p f).mon = s.mon := rfl
@[simp] theorem modPort_cons (s : State) (p : Port) (f : PortUnit → PortUnit) : (s.modPort p f).cons = s.cons := rfl
@[simp] theorem modPort_claims (s : State) (p : Port) (f : PortUnit → PortUnit) : (s.modPort p f).claims = s.claims := rfl
@[simp] theorem modPort_hand (s : State) (p : Port) (f : PortUnit → PortUnit) : (s.modPort p f).hand = s.hand := rfl
@[simp] theorem modPort_hist (s : State) (p : Port) (f : PortUnit → PortUnit) : (s.modPort p f).hist = s.hist := rfl
@[simp] theorem modPort_bank (s : State) (p : Port) (f : PortUnit → PortUnit) : (s.modPort p f).bank = s.bank := rfl
@[simp] theorem modPort_ctl (s : State) (p : Port) (f : PortUnit → PortUnit) : (s.modPort p f).ctl = s.ctl := rfl
@[simp] theorem modPort_ports (s : State) (p : Port) (f : PortUnit → PortUnit) :
    (s.modPort p f).ports =
      s.ports.put p (f (s.ports.at p)) := rfl
@[simp] theorem modPort_marks (s : State) (p : Port) (f : PortUnit → PortUnit) : (s.modPort p f).marks = s.marks := rfl
@[simp] theorem modPort_heldReads (s : State) (p : Port) (f : PortUnit → PortUnit) :
    (s.modPort p f).heldReads =
      s.heldReads := rfl
@[simp] theorem modPort_freeCount (s : State) (p : Port) (f : PortUnit → PortUnit) :
    (s.modPort p f).freeCount =
      s.freeCount := rfl

/-! ### reply -/

@[simp] theorem reply_pending (s : State) (p : Port) (tag : Byte) (st : Status) (d : List Byte) :
    (s.reply p tag st d).pending =
      s.pending := rfl
@[simp] theorem reply_fe (s : State) (p : Port) (tag : Byte) (st : Status) (d : List Byte) :
    (s.reply p tag st d).fe =
      s.fe := rfl
@[simp] theorem reply_pubs (s : State) (p : Port) (tag : Byte) (st : Status) (d : List Byte) :
    (s.reply p tag st d).pubs =
      s.pubs := rfl
@[simp] theorem reply_lines (s : State) (p : Port) (tag : Byte) (st : Status) (d : List Byte) :
    (s.reply p tag st d).lines =
      s.lines := rfl
@[simp] theorem reply_mon (s : State) (p : Port) (tag : Byte) (st : Status) (d : List Byte) :
    (s.reply p tag st d).mon =
      s.mon := rfl
@[simp] theorem reply_cons (s : State) (p : Port) (tag : Byte) (st : Status) (d : List Byte) :
    (s.reply p tag st d).cons =
      s.cons := rfl
@[simp] theorem reply_claims (s : State) (p : Port) (tag : Byte) (st : Status) (d : List Byte) :
    (s.reply p tag st d).claims =
      s.claims := rfl
@[simp] theorem reply_hand (s : State) (p : Port) (tag : Byte) (st : Status) (d : List Byte) :
    (s.reply p tag st d).hand =
      s.hand := rfl
@[simp] theorem reply_hist (s : State) (p : Port) (tag : Byte) (st : Status) (d : List Byte) :
    (s.reply p tag st d).hist =
      s.hist := rfl
@[simp] theorem reply_bank (s : State) (p : Port) (tag : Byte) (st : Status) (d : List Byte) :
    (s.reply p tag st d).bank =
      s.bank := rfl
@[simp] theorem reply_ctl (s : State) (p : Port) (tag : Byte) (st : Status) (d : List Byte) :
    (s.reply p tag st d).ctl =
      s.ctl := rfl
@[simp] theorem reply_ports (s : State) (p : Port) (tag : Byte) (st : Status) (d : List Byte) :
    (s.reply p tag st d).ports =
      s.ports.put p { s.ports.at p with responses := (s.ports.at p).responses ++ [{ status := st, tag := tag, data := d }] } := rfl
@[simp] theorem reply_marks (s : State) (p : Port) (tag : Byte) (st : Status) (d : List Byte) :
    (s.reply p tag st d).marks =
      s.marks := rfl
@[simp] theorem reply_heldReads (s : State) (p : Port) (tag : Byte) (st : Status) (d : List Byte) :
    (s.reply p tag st d).heldReads =
      s.heldReads := rfl
@[simp] theorem reply_freeCount (s : State) (p : Port) (tag : Byte) (st : Status) (d : List Byte) :
    (s.reply p tag st d).freeCount =
      s.freeCount := rfl

/-! ### respond -/

@[simp] theorem respond_pending (s : State) (h : Header) (st : Status) (d : List Byte) :
    (s.respond h st d).pending =
      s.pending := rfl
@[simp] theorem respond_fe (s : State) (h : Header) (st : Status) (d : List Byte) : (s.respond h st d).fe = s.fe := rfl
@[simp] theorem respond_pubs (s : State) (h : Header) (st : Status) (d : List Byte) : (s.respond h st d).pubs = s.pubs := rfl
@[simp] theorem respond_lines (s : State) (h : Header) (st : Status) (d : List Byte) :
    (s.respond h st d).lines =
      s.lines := rfl
@[simp] theorem respond_mon (s : State) (h : Header) (st : Status) (d : List Byte) : (s.respond h st d).mon = s.mon := rfl
@[simp] theorem respond_cons (s : State) (h : Header) (st : Status) (d : List Byte) : (s.respond h st d).cons = s.cons := rfl
@[simp] theorem respond_claims (s : State) (h : Header) (st : Status) (d : List Byte) :
    (s.respond h st d).claims =
      s.claims := rfl
@[simp] theorem respond_hand (s : State) (h : Header) (st : Status) (d : List Byte) : (s.respond h st d).hand = s.hand := rfl
@[simp] theorem respond_hist (s : State) (h : Header) (st : Status) (d : List Byte) : (s.respond h st d).hist = s.hist := rfl
@[simp] theorem respond_bank (s : State) (h : Header) (st : Status) (d : List Byte) : (s.respond h st d).bank = s.bank := rfl
@[simp] theorem respond_ctl (s : State) (h : Header) (st : Status) (d : List Byte) : (s.respond h st d).ctl = s.ctl := rfl
@[simp] theorem respond_ports (s : State) (h : Header) (st : Status) (d : List Byte) :
    (s.respond h st d).ports =
      s.ports.put h.port { s.ports.at h.port with responses := (s.ports.at h.port).responses ++ [{ status := st, tag := h.tag, data := d }] } := rfl
@[simp] theorem respond_marks (s : State) (h : Header) (st : Status) (d : List Byte) :
    (s.respond h st d).marks =
      s.marks := rfl
@[simp] theorem respond_heldReads (s : State) (h : Header) (st : Status) (d : List Byte) :
    (s.respond h st d).heldReads =
      s.heldReads := rfl
@[simp] theorem respond_freeCount (s : State) (h : Header) (st : Status) (d : List Byte) :
    (s.respond h st d).freeCount =
      s.freeCount := rfl

/-! ### request -/

@[simp] theorem request_pending (s : State) (m : Mark) : (s.request m).pending = s.pending := rfl
@[simp] theorem request_fe (s : State) (m : Mark) : (s.request m).fe = s.fe := rfl
@[simp] theorem request_pubs (s : State) (m : Mark) : (s.request m).pubs = s.pubs := rfl
@[simp] theorem request_lines (s : State) (m : Mark) : (s.request m).lines = s.lines := rfl
@[simp] theorem request_mon (s : State) (m : Mark) : (s.request m).mon = s.mon := rfl
@[simp] theorem request_cons (s : State) (m : Mark) : (s.request m).cons = s.cons := rfl
@[simp] theorem request_claims (s : State) (m : Mark) : (s.request m).claims = s.claims := rfl
@[simp] theorem request_hand (s : State) (m : Mark) : (s.request m).hand = s.hand := rfl
@[simp] theorem request_hist (s : State) (m : Mark) : (s.request m).hist = s.hist := rfl
@[simp] theorem request_bank (s : State) (m : Mark) : (s.request m).bank = s.bank := rfl
@[simp] theorem request_ctl (s : State) (m : Mark) : (s.request m).ctl = s.ctl := rfl
@[simp] theorem request_ports (s : State) (m : Mark) : (s.request m).ports = s.ports := rfl
@[simp] theorem request_marks (s : State) (m : Mark) : (s.request m).marks = s.marks ++ [m] := rfl
@[simp] theorem request_heldReads (s : State) (m : Mark) : (s.request m).heldReads = s.heldReads := rfl
@[simp] theorem request_freeCount (s : State) (m : Mark) : (s.request m).freeCount = s.freeCount := rfl

/-! ### raise -/

@[simp] theorem raise_pending (s : State) (k : EventKind) : (s.raise k).pending = s.pending := rfl
@[simp] theorem raise_fe (s : State) (k : EventKind) : (s.raise k).fe = s.fe := rfl
@[simp] theorem raise_pubs (s : State) (k : EventKind) : (s.raise k).pubs = s.pubs := rfl
@[simp] theorem raise_lines (s : State) (k : EventKind) : (s.raise k).lines = s.lines := rfl
@[simp] theorem raise_mon (s : State) (k : EventKind) : (s.raise k).mon = s.mon := rfl
@[simp] theorem raise_cons (s : State) (k : EventKind) : (s.raise k).cons = s.cons := rfl
@[simp] theorem raise_claims (s : State) (k : EventKind) : (s.raise k).claims = s.claims := rfl
@[simp] theorem raise_hand (s : State) (k : EventKind) : (s.raise k).hand = s.hand := rfl
@[simp] theorem raise_hist (s : State) (k : EventKind) : (s.raise k).hist = s.hist := rfl
@[simp] theorem raise_bank (s : State) (k : EventKind) : (s.raise k).bank = s.bank := rfl
@[simp] theorem raise_ctl (s : State) (k : EventKind) : (s.raise k).ctl = s.ctl := rfl
@[simp] theorem raise_ports (s : State) (k : EventKind) : (s.raise k).ports = s.ports.map (PortUnit.setPending k) := rfl
@[simp] theorem raise_marks (s : State) (k : EventKind) : (s.raise k).marks = s.marks := rfl
@[simp] theorem raise_heldReads (s : State) (k : EventKind) : (s.raise k).heldReads = s.heldReads := rfl
@[simp] theorem raise_freeCount (s : State) (k : EventKind) : (s.raise k).freeCount = s.freeCount := rfl

/-! ### modHist -/

@[simp] theorem modHist_pending (s : State) (f : History → History) : (s.modHist f).pending = s.pending := rfl
@[simp] theorem modHist_fe (s : State) (f : History → History) : (s.modHist f).fe = s.fe := rfl
@[simp] theorem modHist_pubs (s : State) (f : History → History) : (s.modHist f).pubs = s.pubs := rfl
@[simp] theorem modHist_lines (s : State) (f : History → History) : (s.modHist f).lines = s.lines := rfl
@[simp] theorem modHist_mon (s : State) (f : History → History) : (s.modHist f).mon = s.mon := rfl
@[simp] theorem modHist_cons (s : State) (f : History → History) : (s.modHist f).cons = s.cons := rfl
@[simp] theorem modHist_claims (s : State) (f : History → History) : (s.modHist f).claims = s.claims := rfl
@[simp] theorem modHist_hand (s : State) (f : History → History) : (s.modHist f).hand = s.hand := rfl
@[simp] theorem modHist_hist (s : State) (f : History → History) : (s.modHist f).hist = f s.hist := rfl
@[simp] theorem modHist_bank (s : State) (f : History → History) : (s.modHist f).bank = s.bank := rfl
@[simp] theorem modHist_ctl (s : State) (f : History → History) : (s.modHist f).ctl = s.ctl := rfl
@[simp] theorem modHist_ports (s : State) (f : History → History) : (s.modHist f).ports = s.ports := rfl
@[simp] theorem modHist_marks (s : State) (f : History → History) : (s.modHist f).marks = s.marks := rfl
@[simp] theorem modHist_heldReads (s : State) (f : History → History) : (s.modHist f).heldReads = s.heldReads := rfl
@[simp] theorem modHist_freeCount (s : State) (f : History → History) : (s.modHist f).freeCount = s.freeCount := rfl

/-! ### modHand -/

@[simp] theorem modHand_pending (s : State) (f : HandOver → HandOver) : (s.modHand f).pending = s.pending := rfl
@[simp] theorem modHand_fe (s : State) (f : HandOver → HandOver) : (s.modHand f).fe = s.fe := rfl
@[simp] theorem modHand_pubs (s : State) (f : HandOver → HandOver) : (s.modHand f).pubs = s.pubs := rfl
@[simp] theorem modHand_lines (s : State) (f : HandOver → HandOver) : (s.modHand f).lines = s.lines := rfl
@[simp] theorem modHand_mon (s : State) (f : HandOver → HandOver) : (s.modHand f).mon = s.mon := rfl
@[simp] theorem modHand_cons (s : State) (f : HandOver → HandOver) : (s.modHand f).cons = s.cons := rfl
@[simp] theorem modHand_claims (s : State) (f : HandOver → HandOver) : (s.modHand f).claims = s.claims := rfl
@[simp] theorem modHand_hand (s : State) (f : HandOver → HandOver) : (s.modHand f).hand = f s.hand := rfl
@[simp] theorem modHand_hist (s : State) (f : HandOver → HandOver) : (s.modHand f).hist = s.hist := rfl
@[simp] theorem modHand_bank (s : State) (f : HandOver → HandOver) : (s.modHand f).bank = s.bank := rfl
@[simp] theorem modHand_ctl (s : State) (f : HandOver → HandOver) : (s.modHand f).ctl = s.ctl := rfl
@[simp] theorem modHand_ports (s : State) (f : HandOver → HandOver) : (s.modHand f).ports = s.ports := rfl
@[simp] theorem modHand_marks (s : State) (f : HandOver → HandOver) : (s.modHand f).marks = s.marks := rfl
@[simp] theorem modHand_heldReads (s : State) (f : HandOver → HandOver) : (s.modHand f).heldReads = s.heldReads := rfl
@[simp] theorem modHand_freeCount (s : State) (f : HandOver → HandOver) : (s.modHand f).freeCount = s.freeCount := rfl

/-! ### modBank -/

@[simp] theorem modBank_pending (s : State) (f : SettingsBank → SettingsBank) : (s.modBank f).pending = s.pending := rfl
@[simp] theorem modBank_fe (s : State) (f : SettingsBank → SettingsBank) : (s.modBank f).fe = s.fe := rfl
@[simp] theorem modBank_pubs (s : State) (f : SettingsBank → SettingsBank) : (s.modBank f).pubs = s.pubs := rfl
@[simp] theorem modBank_lines (s : State) (f : SettingsBank → SettingsBank) : (s.modBank f).lines = s.lines := rfl
@[simp] theorem modBank_mon (s : State) (f : SettingsBank → SettingsBank) : (s.modBank f).mon = s.mon := rfl
@[simp] theorem modBank_cons (s : State) (f : SettingsBank → SettingsBank) : (s.modBank f).cons = s.cons := rfl
@[simp] theorem modBank_claims (s : State) (f : SettingsBank → SettingsBank) : (s.modBank f).claims = s.claims := rfl
@[simp] theorem modBank_hand (s : State) (f : SettingsBank → SettingsBank) : (s.modBank f).hand = s.hand := rfl
@[simp] theorem modBank_hist (s : State) (f : SettingsBank → SettingsBank) : (s.modBank f).hist = s.hist := rfl
@[simp] theorem modBank_bank (s : State) (f : SettingsBank → SettingsBank) : (s.modBank f).bank = f s.bank := rfl
@[simp] theorem modBank_ctl (s : State) (f : SettingsBank → SettingsBank) : (s.modBank f).ctl = s.ctl := rfl
@[simp] theorem modBank_ports (s : State) (f : SettingsBank → SettingsBank) : (s.modBank f).ports = s.ports := rfl
@[simp] theorem modBank_marks (s : State) (f : SettingsBank → SettingsBank) : (s.modBank f).marks = s.marks := rfl
@[simp] theorem modBank_heldReads (s : State) (f : SettingsBank → SettingsBank) :
    (s.modBank f).heldReads =
      s.heldReads := rfl
@[simp] theorem modBank_freeCount (s : State) (f : SettingsBank → SettingsBank) :
    (s.modBank f).freeCount =
      s.freeCount := rfl

/-! ### ask -/

@[simp] theorem ask_pending (s : State) (op : BankOp) : (s.ask op).pending = s.pending := rfl
@[simp] theorem ask_fe (s : State) (op : BankOp) : (s.ask op).fe = s.fe := rfl
@[simp] theorem ask_pubs (s : State) (op : BankOp) : (s.ask op).pubs = s.pubs := rfl
@[simp] theorem ask_lines (s : State) (op : BankOp) : (s.ask op).lines = s.lines := rfl
@[simp] theorem ask_mon (s : State) (op : BankOp) : (s.ask op).mon = s.mon := rfl
@[simp] theorem ask_cons (s : State) (op : BankOp) : (s.ask op).cons = s.cons := rfl
@[simp] theorem ask_claims (s : State) (op : BankOp) : (s.ask op).claims = s.claims := rfl
@[simp] theorem ask_hand (s : State) (op : BankOp) : (s.ask op).hand = s.hand := rfl
@[simp] theorem ask_hist (s : State) (op : BankOp) : (s.ask op).hist = s.hist := rfl
@[simp] theorem ask_bank (s : State) (op : BankOp) : (s.ask op).bank = { s.bank with queue := s.bank.queue ++ [op] } := rfl
@[simp] theorem ask_ctl (s : State) (op : BankOp) : (s.ask op).ctl = s.ctl := rfl
@[simp] theorem ask_ports (s : State) (op : BankOp) : (s.ask op).ports = s.ports := rfl
@[simp] theorem ask_marks (s : State) (op : BankOp) : (s.ask op).marks = s.marks := rfl
@[simp] theorem ask_heldReads (s : State) (op : BankOp) : (s.ask op).heldReads = s.heldReads := rfl
@[simp] theorem ask_freeCount (s : State) (op : BankOp) : (s.ask op).freeCount = s.freeCount := rfl

/-! ### putLine -/

@[simp] theorem putLine_pending (s : State) (l : Fin 8) (a : Bool) (k : Option Candidate) :
    (s.putLine l a k).pending =
      s.pending := rfl
@[simp] theorem putLine_fe (s : State) (l : Fin 8) (a : Bool) (k : Option Candidate) : (s.putLine l a k).fe = s.fe := rfl
@[simp] theorem putLine_pubs (s : State) (l : Fin 8) (a : Bool) (k : Option Candidate) :
    (s.putLine l a k).pubs =
      s.pubs := rfl
@[simp] theorem putLine_lines (s : State) (l : Fin 8) (a : Bool) (k : Option Candidate) :
    (s.putLine l a k).lines =
      { s.lines with line := s.lines.line.modify l fun x => { x with active := a, candidate := k } } := rfl
@[simp] theorem putLine_mon (s : State) (l : Fin 8) (a : Bool) (k : Option Candidate) : (s.putLine l a k).mon = s.mon := rfl
@[simp] theorem putLine_cons (s : State) (l : Fin 8) (a : Bool) (k : Option Candidate) :
    (s.putLine l a k).cons =
      s.cons := rfl
@[simp] theorem putLine_claims (s : State) (l : Fin 8) (a : Bool) (k : Option Candidate) :
    (s.putLine l a k).claims =
      s.claims := rfl
@[simp] theorem putLine_hand (s : State) (l : Fin 8) (a : Bool) (k : Option Candidate) :
    (s.putLine l a k).hand =
      s.hand := rfl
@[simp] theorem putLine_hist (s : State) (l : Fin 8) (a : Bool) (k : Option Candidate) :
    (s.putLine l a k).hist =
      s.hist := rfl
@[simp] theorem putLine_bank (s : State) (l : Fin 8) (a : Bool) (k : Option Candidate) :
    (s.putLine l a k).bank =
      s.bank := rfl
@[simp] theorem putLine_ctl (s : State) (l : Fin 8) (a : Bool) (k : Option Candidate) : (s.putLine l a k).ctl = s.ctl := rfl
@[simp] theorem putLine_ports (s : State) (l : Fin 8) (a : Bool) (k : Option Candidate) :
    (s.putLine l a k).ports =
      s.ports := rfl
@[simp] theorem putLine_marks (s : State) (l : Fin 8) (a : Bool) (k : Option Candidate) :
    (s.putLine l a k).marks =
      s.marks := rfl
@[simp] theorem putLine_heldReads (s : State) (l : Fin 8) (a : Bool) (k : Option Candidate) :
    (s.putLine l a k).heldReads =
      s.heldReads := rfl
@[simp] theorem putLine_freeCount (s : State) (l : Fin 8) (a : Bool) (k : Option Candidate) :
    (s.putLine l a k).freeCount =
      s.freeCount := rfl

/-! ### setDoorFlag -/

@[simp] theorem setDoorFlag_pending (s : State) (l : Fin 8) : (s.setDoorFlag l).pending = s.pending := rfl
@[simp] theorem setDoorFlag_fe (s : State) (l : Fin 8) : (s.setDoorFlag l).fe = s.fe := rfl
@[simp] theorem setDoorFlag_pubs (s : State) (l : Fin 8) : (s.setDoorFlag l).pubs = s.pubs := rfl
@[simp] theorem setDoorFlag_mon (s : State) (l : Fin 8) : (s.setDoorFlag l).mon = s.mon := rfl
@[simp] theorem setDoorFlag_cons (s : State) (l : Fin 8) : (s.setDoorFlag l).cons = s.cons := rfl
@[simp] theorem setDoorFlag_claims (s : State) (l : Fin 8) : (s.setDoorFlag l).claims = s.claims := rfl
@[simp] theorem setDoorFlag_hand (s : State) (l : Fin 8) : (s.setDoorFlag l).hand = s.hand := rfl
@[simp] theorem setDoorFlag_hist (s : State) (l : Fin 8) : (s.setDoorFlag l).hist = s.hist := rfl
@[simp] theorem setDoorFlag_bank (s : State) (l : Fin 8) : (s.setDoorFlag l).bank = s.bank := rfl
@[simp] theorem setDoorFlag_ctl (s : State) (l : Fin 8) : (s.setDoorFlag l).ctl = s.ctl := rfl
@[simp] theorem setDoorFlag_marks (s : State) (l : Fin 8) : (s.setDoorFlag l).marks = s.marks := rfl
@[simp] theorem setDoorFlag_heldReads (s : State) (l : Fin 8) : (s.setDoorFlag l).heldReads = s.heldReads := rfl
@[simp] theorem setDoorFlag_freeCount (s : State) (l : Fin 8) : (s.setDoorFlag l).freeCount = s.freeCount := rfl

/-! ### landed -/

@[simp] theorem landed_pending (s : State) (c : LongCommand) : (s.landed c).pending = s.pending := rfl
@[simp] theorem landed_fe (s : State) (c : LongCommand) : (s.landed c).fe = s.fe := rfl
@[simp] theorem landed_pubs (s : State) (c : LongCommand) : (s.landed c).pubs = s.pubs := rfl
@[simp] theorem landed_lines (s : State) (c : LongCommand) : (s.landed c).lines = s.lines := rfl
@[simp] theorem landed_mon (s : State) (c : LongCommand) : (s.landed c).mon = s.mon := rfl
@[simp] theorem landed_cons (s : State) (c : LongCommand) : (s.landed c).cons = s.cons := rfl
@[simp] theorem landed_claims (s : State) (c : LongCommand) : (s.landed c).claims = s.claims := rfl
@[simp] theorem landed_hand (s : State) (c : LongCommand) : (s.landed c).hand = s.hand := rfl
@[simp] theorem landed_hist (s : State) (c : LongCommand) : (s.landed c).hist = s.hist := rfl
@[simp] theorem landed_bank (s : State) (c : LongCommand) : (s.landed c).bank = s.bank := rfl
@[simp] theorem landed_ctl (s : State) (c : LongCommand) : (s.landed c).ctl = s.ctl := rfl
@[simp] theorem landed_marks (s : State) (c : LongCommand) : (s.landed c).marks = s.marks := rfl
@[simp] theorem landed_heldReads (s : State) (c : LongCommand) : (s.landed c).heldReads = s.heldReads := rfl
@[simp] theorem landed_freeCount (s : State) (c : LongCommand) : (s.landed c).freeCount = s.freeCount := rfl

/-! ### handPublication -/

@[simp] theorem handPublication_pending (s : State) (p : Publication) : (s.handPublication p).pending = s.pending := rfl
@[simp] theorem handPublication_fe (s : State) (p : Publication) : (s.handPublication p).fe = s.fe := rfl
@[simp] theorem handPublication_lines (s : State) (p : Publication) : (s.handPublication p).lines = s.lines := rfl
@[simp] theorem handPublication_mon (s : State) (p : Publication) : (s.handPublication p).mon = s.mon := rfl
@[simp] theorem handPublication_cons (s : State) (p : Publication) : (s.handPublication p).cons = s.cons := rfl
@[simp] theorem handPublication_claims (s : State) (p : Publication) : (s.handPublication p).claims = s.claims := rfl
@[simp] theorem handPublication_hand (s : State) (p : Publication) : (s.handPublication p).hand = s.hand := rfl
@[simp] theorem handPublication_hist (s : State) (p : Publication) : (s.handPublication p).hist = s.hist := rfl
@[simp] theorem handPublication_bank (s : State) (p : Publication) : (s.handPublication p).bank = s.bank := rfl
@[simp] theorem handPublication_ctl (s : State) (p : Publication) : (s.handPublication p).ctl = s.ctl := rfl
@[simp] theorem handPublication_ports (s : State) (p : Publication) : (s.handPublication p).ports = s.ports := rfl
@[simp] theorem handPublication_marks (s : State) (p : Publication) : (s.handPublication p).marks = s.marks := rfl
@[simp] theorem handPublication_heldReads (s : State) (p : Publication) :
    (s.handPublication p).heldReads =
      s.heldReads := rfl
@[simp] theorem handPublication_freeCount (s : State) (p : Publication) :
    (s.handPublication p).freeCount =
      s.freeCount := rfl

/-! ### startOp -/

@[simp] theorem startOp_pending (s : State) (op : BankOp) : (s.startOp op).pending = s.pending := rfl
@[simp] theorem startOp_fe (s : State) (op : BankOp) : (s.startOp op).fe = s.fe := rfl
@[simp] theorem startOp_pubs (s : State) (op : BankOp) : (s.startOp op).pubs = s.pubs := rfl
@[simp] theorem startOp_lines (s : State) (op : BankOp) : (s.startOp op).lines = s.lines := rfl
@[simp] theorem startOp_mon (s : State) (op : BankOp) : (s.startOp op).mon = s.mon := rfl
@[simp] theorem startOp_cons (s : State) (op : BankOp) : (s.startOp op).cons = s.cons := rfl
@[simp] theorem startOp_claims (s : State) (op : BankOp) : (s.startOp op).claims = s.claims := rfl
@[simp] theorem startOp_hand (s : State) (op : BankOp) : (s.startOp op).hand = s.hand := rfl
@[simp] theorem startOp_hist (s : State) (op : BankOp) : (s.startOp op).hist = s.hist := rfl
@[simp] theorem startOp_bank (s : State) (op : BankOp) :
    (s.startOp op).bank =
      { s.bank with queue := s.bank.queue.erase op, busy := some op } := rfl
@[simp] theorem startOp_ctl (s : State) (op : BankOp) : (s.startOp op).ctl = s.ctl := rfl
@[simp] theorem startOp_ports (s : State) (op : BankOp) : (s.startOp op).ports = s.ports := rfl
@[simp] theorem startOp_marks (s : State) (op : BankOp) : (s.startOp op).marks = s.marks := rfl
@[simp] theorem startOp_heldReads (s : State) (op : BankOp) : (s.startOp op).heldReads = s.heldReads := rfl
@[simp] theorem startOp_freeCount (s : State) (op : BankOp) : (s.startOp op).freeCount = s.freeCount := rfl

/-! ### endOp -/

@[simp] theorem endOp_pending (s : State) : s.endOp.pending = s.pending := rfl
@[simp] theorem endOp_fe (s : State) : s.endOp.fe = s.fe := rfl
@[simp] theorem endOp_pubs (s : State) : s.endOp.pubs = s.pubs := rfl
@[simp] theorem endOp_lines (s : State) : s.endOp.lines = s.lines := rfl
@[simp] theorem endOp_mon (s : State) : s.endOp.mon = s.mon := rfl
@[simp] theorem endOp_cons (s : State) : s.endOp.cons = s.cons := rfl
@[simp] theorem endOp_claims (s : State) : s.endOp.claims = s.claims := rfl
@[simp] theorem endOp_hand (s : State) : s.endOp.hand = s.hand := rfl
@[simp] theorem endOp_hist (s : State) : s.endOp.hist = s.hist := rfl
@[simp] theorem endOp_bank (s : State) : s.endOp.bank = { s.bank with busy := none } := rfl
@[simp] theorem endOp_ctl (s : State) : s.endOp.ctl = s.ctl := rfl
@[simp] theorem endOp_ports (s : State) : s.endOp.ports = s.ports := rfl
@[simp] theorem endOp_marks (s : State) : s.endOp.marks = s.marks := rfl
@[simp] theorem endOp_heldReads (s : State) : s.endOp.heldReads = s.heldReads := rfl
@[simp] theorem endOp_freeCount (s : State) : s.endOp.freeCount = s.freeCount := rfl

/-! ### dropContext -/

@[simp] theorem dropContext_pending (s : State) (j : Fin 32) : (s.dropContext j).pending = s.pending := rfl
@[simp] theorem dropContext_fe (s : State) (j : Fin 32) : (s.dropContext j).fe = s.fe := rfl
@[simp] theorem dropContext_pubs (s : State) (j : Fin 32) : (s.dropContext j).pubs = s.pubs := rfl
@[simp] theorem dropContext_lines (s : State) (j : Fin 32) : (s.dropContext j).lines = s.lines := rfl
@[simp] theorem dropContext_mon (s : State) (j : Fin 32) : (s.dropContext j).mon = s.mon := rfl
@[simp] theorem dropContext_cons (s : State) (j : Fin 32) : (s.dropContext j).cons = s.cons := rfl
@[simp] theorem dropContext_claims (s : State) (j : Fin 32) : (s.dropContext j).claims = s.claims := rfl
@[simp] theorem dropContext_hand (s : State) (j : Fin 32) :
    (s.dropContext j).hand =
      { s.hand with contexts := s.hand.contexts.filter fun c => c.slot != j } := rfl
@[simp] theorem dropContext_hist (s : State) (j : Fin 32) : (s.dropContext j).hist = s.hist := rfl
@[simp] theorem dropContext_bank (s : State) (j : Fin 32) : (s.dropContext j).bank = s.bank := rfl
@[simp] theorem dropContext_ctl (s : State) (j : Fin 32) : (s.dropContext j).ctl = s.ctl := rfl
@[simp] theorem dropContext_ports (s : State) (j : Fin 32) : (s.dropContext j).ports = s.ports := rfl
@[simp] theorem dropContext_marks (s : State) (j : Fin 32) : (s.dropContext j).marks = s.marks := rfl
@[simp] theorem dropContext_heldReads (s : State) (j : Fin 32) : (s.dropContext j).heldReads = s.heldReads := rfl
@[simp] theorem dropContext_freeCount (s : State) (j : Fin 32) : (s.dropContext j).freeCount = s.freeCount := rfl

/-! ### setContext -/

@[simp] theorem setContext_pending (s : State) (j : Fin 32) (st : ContextState) :
    (s.setContext j st).pending =
      s.pending := rfl
@[simp] theorem setContext_fe (s : State) (j : Fin 32) (st : ContextState) : (s.setContext j st).fe = s.fe := rfl
@[simp] theorem setContext_pubs (s : State) (j : Fin 32) (st : ContextState) : (s.setContext j st).pubs = s.pubs := rfl
@[simp] theorem setContext_lines (s : State) (j : Fin 32) (st : ContextState) : (s.setContext j st).lines = s.lines := rfl
@[simp] theorem setContext_mon (s : State) (j : Fin 32) (st : ContextState) : (s.setContext j st).mon = s.mon := rfl
@[simp] theorem setContext_cons (s : State) (j : Fin 32) (st : ContextState) : (s.setContext j st).cons = s.cons := rfl
@[simp] theorem setContext_claims (s : State) (j : Fin 32) (st : ContextState) : (s.setContext j st).claims = s.claims := rfl
@[simp] theorem setContext_hist (s : State) (j : Fin 32) (st : ContextState) : (s.setContext j st).hist = s.hist := rfl
@[simp] theorem setContext_bank (s : State) (j : Fin 32) (st : ContextState) : (s.setContext j st).bank = s.bank := rfl
@[simp] theorem setContext_ctl (s : State) (j : Fin 32) (st : ContextState) : (s.setContext j st).ctl = s.ctl := rfl
@[simp] theorem setContext_ports (s : State) (j : Fin 32) (st : ContextState) : (s.setContext j st).ports = s.ports := rfl
@[simp] theorem setContext_marks (s : State) (j : Fin 32) (st : ContextState) : (s.setContext j st).marks = s.marks := rfl
@[simp] theorem setContext_heldReads (s : State) (j : Fin 32) (st : ContextState) :
    (s.setContext j st).heldReads =
      s.heldReads := rfl
@[simp] theorem setContext_freeCount (s : State) (j : Fin 32) (st : ContextState) :
    (s.setContext j st).freeCount =
      s.freeCount := rfl

/-! ### startEstimates -/

@[simp] theorem startEstimates_pending (s : State) : s.startEstimates.pending = s.pending := rfl
@[simp] theorem startEstimates_fe (s : State) : s.startEstimates.fe = s.fe := rfl
@[simp] theorem startEstimates_pubs (s : State) : s.startEstimates.pubs = s.pubs := rfl
@[simp] theorem startEstimates_lines (s : State) : s.startEstimates.lines = s.lines := rfl
@[simp] theorem startEstimates_cons (s : State) : s.startEstimates.cons = s.cons := rfl
@[simp] theorem startEstimates_claims (s : State) : s.startEstimates.claims = s.claims := rfl
@[simp] theorem startEstimates_hand (s : State) : s.startEstimates.hand = s.hand := rfl
@[simp] theorem startEstimates_hist (s : State) : s.startEstimates.hist = s.hist := rfl
@[simp] theorem startEstimates_bank (s : State) : s.startEstimates.bank = s.bank := rfl
@[simp] theorem startEstimates_ctl (s : State) : s.startEstimates.ctl = s.ctl := rfl
@[simp] theorem startEstimates_ports (s : State) : s.startEstimates.ports = s.ports := rfl
@[simp] theorem startEstimates_marks (s : State) : s.startEstimates.marks = s.marks := rfl
@[simp] theorem startEstimates_heldReads (s : State) : s.startEstimates.heldReads = s.heldReads := rfl
@[simp] theorem startEstimates_freeCount (s : State) : s.startEstimates.freeCount = s.freeCount := rfl

/-! ### flagConflict -/

@[simp] theorem flagConflict_pending (s : State) (c : Fin 4) : (s.flagConflict c).pending = s.pending := rfl
@[simp] theorem flagConflict_fe (s : State) (c : Fin 4) : (s.flagConflict c).fe = s.fe := rfl
@[simp] theorem flagConflict_pubs (s : State) (c : Fin 4) : (s.flagConflict c).pubs = s.pubs := rfl
@[simp] theorem flagConflict_lines (s : State) (c : Fin 4) : (s.flagConflict c).lines = s.lines := rfl
@[simp] theorem flagConflict_mon (s : State) (c : Fin 4) : (s.flagConflict c).mon = s.mon := rfl
@[simp] theorem flagConflict_claims (s : State) (c : Fin 4) : (s.flagConflict c).claims = s.claims := rfl
@[simp] theorem flagConflict_hand (s : State) (c : Fin 4) : (s.flagConflict c).hand = s.hand := rfl
@[simp] theorem flagConflict_hist (s : State) (c : Fin 4) : (s.flagConflict c).hist = s.hist := rfl
@[simp] theorem flagConflict_bank (s : State) (c : Fin 4) : (s.flagConflict c).bank = s.bank := rfl
@[simp] theorem flagConflict_ctl (s : State) (c : Fin 4) : (s.flagConflict c).ctl = s.ctl := rfl
@[simp] theorem flagConflict_ports (s : State) (c : Fin 4) : (s.flagConflict c).ports = s.ports := rfl
@[simp] theorem flagConflict_marks (s : State) (c : Fin 4) : (s.flagConflict c).marks = s.marks := rfl
@[simp] theorem flagConflict_heldReads (s : State) (c : Fin 4) : (s.flagConflict c).heldReads = s.heldReads := rfl
@[simp] theorem flagConflict_freeCount (s : State) (c : Fin 4) : (s.flagConflict c).freeCount = s.freeCount := rfl

/-! ### countOpening -/

@[simp] theorem countOpening_pending (s : State) (c : Fin 4) : (s.countOpening c).pending = s.pending := rfl
@[simp] theorem countOpening_fe (s : State) (c : Fin 4) : (s.countOpening c).fe = s.fe := rfl
@[simp] theorem countOpening_pubs (s : State) (c : Fin 4) : (s.countOpening c).pubs = s.pubs := rfl
@[simp] theorem countOpening_lines (s : State) (c : Fin 4) : (s.countOpening c).lines = s.lines := rfl
@[simp] theorem countOpening_mon (s : State) (c : Fin 4) : (s.countOpening c).mon = s.mon := rfl
@[simp] theorem countOpening_claims (s : State) (c : Fin 4) : (s.countOpening c).claims = s.claims := rfl
@[simp] theorem countOpening_hand (s : State) (c : Fin 4) : (s.countOpening c).hand = s.hand := rfl
@[simp] theorem countOpening_hist (s : State) (c : Fin 4) : (s.countOpening c).hist = s.hist := rfl
@[simp] theorem countOpening_bank (s : State) (c : Fin 4) : (s.countOpening c).bank = s.bank := rfl
@[simp] theorem countOpening_ctl (s : State) (c : Fin 4) : (s.countOpening c).ctl = s.ctl := rfl
@[simp] theorem countOpening_ports (s : State) (c : Fin 4) : (s.countOpening c).ports = s.ports := rfl
@[simp] theorem countOpening_marks (s : State) (c : Fin 4) : (s.countOpening c).marks = s.marks := rfl
@[simp] theorem countOpening_heldReads (s : State) (c : Fin 4) : (s.countOpening c).heldReads = s.heldReads := rfl
@[simp] theorem countOpening_freeCount (s : State) (c : Fin 4) : (s.countOpening c).freeCount = s.freeCount := rfl

/-! ### requestIf -/

@[simp] theorem requestIf_pending (s : State) (b : Bool) (m : Mark) :
    (s.requestIf b m).pending =
      s.pending := by cases b <;> rfl
@[simp] theorem requestIf_fe (s : State) (b : Bool) (m : Mark) : (s.requestIf b m).fe = s.fe := by cases b <;> rfl
@[simp] theorem requestIf_pubs (s : State) (b : Bool) (m : Mark) : (s.requestIf b m).pubs = s.pubs := by cases b <;> rfl
@[simp] theorem requestIf_lines (s : State) (b : Bool) (m : Mark) : (s.requestIf b m).lines = s.lines := by cases b <;> rfl
@[simp] theorem requestIf_mon (s : State) (b : Bool) (m : Mark) : (s.requestIf b m).mon = s.mon := by cases b <;> rfl
@[simp] theorem requestIf_cons (s : State) (b : Bool) (m : Mark) : (s.requestIf b m).cons = s.cons := by cases b <;> rfl
@[simp] theorem requestIf_claims (s : State) (b : Bool) (m : Mark) :
    (s.requestIf b m).claims =
      s.claims := by cases b <;> rfl
@[simp] theorem requestIf_hand (s : State) (b : Bool) (m : Mark) : (s.requestIf b m).hand = s.hand := by cases b <;> rfl
@[simp] theorem requestIf_hist (s : State) (b : Bool) (m : Mark) : (s.requestIf b m).hist = s.hist := by cases b <;> rfl
@[simp] theorem requestIf_bank (s : State) (b : Bool) (m : Mark) : (s.requestIf b m).bank = s.bank := by cases b <;> rfl
@[simp] theorem requestIf_ctl (s : State) (b : Bool) (m : Mark) : (s.requestIf b m).ctl = s.ctl := by cases b <;> rfl
@[simp] theorem requestIf_ports (s : State) (b : Bool) (m : Mark) : (s.requestIf b m).ports = s.ports := by cases b <;> rfl
@[simp] theorem requestIf_marks (s : State) (b : Bool) (m : Mark) :
    (s.requestIf b m).marks =
      if b then s.marks ++ [m] else s.marks := by cases b <;> rfl
@[simp] theorem requestIf_heldReads (s : State) (b : Bool) (m : Mark) :
    (s.requestIf b m).heldReads =
      s.heldReads := by cases b <;> rfl
@[simp] theorem requestIf_freeCount (s : State) (b : Bool) (m : Mark) :
    (s.requestIf b m).freeCount =
      s.freeCount := by cases b <;> rfl

/-! ### raiseIf -/

@[simp] theorem raiseIf_pending (s : State) (b : Bool) (k : EventKind) :
    (s.raiseIf b k).pending =
      s.pending := by cases b <;> rfl
@[simp] theorem raiseIf_fe (s : State) (b : Bool) (k : EventKind) : (s.raiseIf b k).fe = s.fe := by cases b <;> rfl
@[simp] theorem raiseIf_pubs (s : State) (b : Bool) (k : EventKind) : (s.raiseIf b k).pubs = s.pubs := by cases b <;> rfl
@[simp] theorem raiseIf_lines (s : State) (b : Bool) (k : EventKind) : (s.raiseIf b k).lines = s.lines := by cases b <;> rfl
@[simp] theorem raiseIf_mon (s : State) (b : Bool) (k : EventKind) : (s.raiseIf b k).mon = s.mon := by cases b <;> rfl
@[simp] theorem raiseIf_cons (s : State) (b : Bool) (k : EventKind) : (s.raiseIf b k).cons = s.cons := by cases b <;> rfl
@[simp] theorem raiseIf_claims (s : State) (b : Bool) (k : EventKind) :
    (s.raiseIf b k).claims =
      s.claims := by cases b <;> rfl
@[simp] theorem raiseIf_hand (s : State) (b : Bool) (k : EventKind) : (s.raiseIf b k).hand = s.hand := by cases b <;> rfl
@[simp] theorem raiseIf_hist (s : State) (b : Bool) (k : EventKind) : (s.raiseIf b k).hist = s.hist := by cases b <;> rfl
@[simp] theorem raiseIf_bank (s : State) (b : Bool) (k : EventKind) : (s.raiseIf b k).bank = s.bank := by cases b <;> rfl
@[simp] theorem raiseIf_ctl (s : State) (b : Bool) (k : EventKind) : (s.raiseIf b k).ctl = s.ctl := by cases b <;> rfl
@[simp] theorem raiseIf_ports (s : State) (b : Bool) (k : EventKind) :
    (s.raiseIf b k).ports =
      if b then s.ports.map (PortUnit.setPending k) else s.ports := by cases b <;> rfl
@[simp] theorem raiseIf_marks (s : State) (b : Bool) (k : EventKind) : (s.raiseIf b k).marks = s.marks := by cases b <;> rfl
@[simp] theorem raiseIf_heldReads (s : State) (b : Bool) (k : EventKind) :
    (s.raiseIf b k).heldReads =
      s.heldReads := by cases b <;> rfl
@[simp] theorem raiseIf_freeCount (s : State) (b : Bool) (k : EventKind) :
    (s.raiseIf b k).freeCount =
      s.freeCount := by cases b <;> rfl

end Sys2Proof.Machine.State
end

