-- ==== Sys2Proof/Laws/FrontEnd.lean ====
section
/-! SUPPORT. What the shared operations of the port unit's checks, the round, the mode change and the front end can do, said once
for each. -/

-- Many short proofs: checked one after another, they need fewer threads.
set_option Elab.async false

namespace Sys2Proof.Machine

variable {s t : State}

/-! ## The port unit's checks -/

/-- A command that passes the port's checks runs its own rule. -/
theorem State.take_taken {g : Group} {h : Header} (hs : Taken g h s) (body : State → State) : s.take g h body = body s := by
  obtain ⟨h1, h2, h3, h4⟩ := hs
  simp [State.take, h1, h2, h3, h4]

/-- An edit in SETUP with no commit in flight runs its own rule. -/
theorem State.edit_editable {h : Header} (hs : Editable h s) (body : State → State) : s.edit h body = body s := by
  simp [State.edit, hs.setup, hs.free]

/-- An edit that passes the port's checks in SETUP with no commit in flight runs its own rule. -/
theorem State.take_edit {h : Header} (hs : Editable h s) (body : State → State) :
    s.take .config h (fun s => s.edit h body) = body s := by
  rw [State.take_taken hs.toTaken, State.edit_editable hs]

/-- The modes with rounds (R1). -/
theorem hasRounds_iff (m : Mode) : m.hasRounds = true ↔ m = .setup ∨ m = .service ∨ m = .parked := by
  cases m <;> simp [Mode.hasRounds]

/-- An index field below the bound names its index. -/
theorem index_of_lt {n : Nat} {b : Byte} (h : b.toNat < n) : index n b = some ⟨b.toNat, h⟩ := by simp [index, h]

/-- An index field at or past the bound names none. -/
theorem index_of_ge {n : Nat} {b : Byte} (h : n ≤ b.toNat) : index n b = none := by
  simp [index, Nat.not_lt.mpr h]

/-! ## Events and marks -/

/-- Raising a kind makes it pending on every port. -/
theorem hasKind_raise (s : State) (e : EventKind) (p : Port) : hasKind ((s.raise e).ports.at p).pending e = true := by
  simp only [State.raise_ports, PerPort.at_map, PortUnit.setPending, PortUnit.sync, hasKind, EventKind.mask]
  cases e <;> simp [EventKind.bit]

/-- A kind that is pending stays pending when another is raised (R192). -/
theorem hasKind_raise_of (s : State) (e f : EventKind) (p : Port) (h : hasKind (s.ports.at p).pending e = true) :
    hasKind ((s.raise f).ports.at p).pending e = true := by
  simp only [State.raise_ports, PerPort.at_map, PortUnit.setPending, PortUnit.sync, hasKind] at *
  simp [h]

/-- Raising leaves the enable sets alone (R192). -/
theorem enable_raise (s : State) (e : EventKind) (p : Port) : ((s.raise e).ports.at p).enable = (s.ports.at p).enable := by
  simp [State.raise_ports, PerPort.at_map, PortUnit.setPending, PortUnit.sync]

/-! ## The front end -/

/-- The marks and events of a probe's change of status touch the marks and the ports alone. -/
theorem State.probeChange_frame (p : Fin 8) (old new : ProbeStatus) (s : State) :
    s.probeChange p old new = { s with marks := (s.probeChange p old new).marks, ports := (s.probeChange p old new).ports } := by
  unfold State.probeChange
  split
  · rfl
  · split <;> rfl

/-- The changes of all probes touch the marks and the ports alone. -/
theorem State.probeChanges_frame (old new : Fin 8 → ProbeStatus) (ps : List (Fin 8)) : ∀ s : State,
    ps.foldl (fun t p => t.probeChange p (old p) (new p)) s =
      { s with
        marks := (ps.foldl (fun t p => t.probeChange p (old p) (new p)) s).marks
        ports := (ps.foldl (fun t p => t.probeChange p (old p) (new p)) s).ports } := by
  induction ps with
  | nil => exact fun _ => rfl
  | cons p ps ih =>
    intro s
    rw [List.foldl_cons, ih, State.probeChange_frame]

/-- Marks only join the list, and pending kinds stay, through a probe's change. -/
theorem State.probeChange_grows (p : Fin 8) (old new : ProbeStatus) (s : State) :
    (∀ m ∈ s.marks, m ∈ (s.probeChange p old new).marks) ∧
    ∀ e q, hasKind (s.ports.at q).pending e = true → hasKind ((s.probeChange p old new).ports.at q).pending e = true := by
  unfold State.probeChange
  split
  · exact ⟨fun m hm => by simp [hm], fun e q h => hasKind_raise_of _ _ _ _ h⟩
  · split
    · exact ⟨fun m hm => by simp [hm], fun e q h => h⟩
    · exact ⟨fun m hm => hm, fun e q h => h⟩

/-- The same through the changes of all probes. -/
theorem State.probeChanges_grow (old new : Fin 8 → ProbeStatus) (ps : List (Fin 8)) : ∀ s : State,
    (∀ m ∈ s.marks, m ∈ (ps.foldl (fun t p => t.probeChange p (old p) (new p)) s).marks) ∧
    ∀ e q, hasKind (s.ports.at q).pending e = true →
      hasKind ((ps.foldl (fun t p => t.probeChange p (old p) (new p)) s).ports.at q).pending e = true := by
  induction ps with
  | nil => exact fun _ => ⟨fun _ h => h, fun _ _ h => h⟩
  | cons p ps ih =>
    intro s
    have h1 := State.probeChange_grows p (old p) (new p) s
    have h2 := ih (s.probeChange p (old p) (new p))
    exact ⟨fun m hm => h2.1 m (h1.1 m hm), fun e q h => h2.2 e q (h1.2 e q h)⟩

/-- A probe that enters LOST from HELD, or GOOD from RECOVERING, requests its mark and raises SENSOR (R13). -/
theorem State.probeChanges_report (old new : Fin 8 → ProbeStatus) (ps : List (Fin 8)) (p : Fin 8) (hp : p ∈ ps)
    (h : (old p = .held ∧ new p = .lost) ∨ (old p = .recovering ∧ new p = .good)) : ∀ s : State,
    Mark.probe p (old p) (new p) ∈ (ps.foldl (fun t p => t.probeChange p (old p) (new p)) s).marks ∧
    ∀ q, hasKind ((ps.foldl (fun t p => t.probeChange p (old p) (new p)) s).ports.at q).pending .sensor = true := by
  induction ps with
  | nil => cases hp
  | cons a ps ih =>
    intro s
    rw [List.foldl_cons]
    rcases List.mem_cons.mp hp with e | e
    · subst e
      have h2 := State.probeChanges_grow old new ps (s.probeChange p (old p) (new p))
      refine ⟨h2.1 _ ?_, fun q => h2.2 _ q ?_⟩
      · simp [State.probeChange, h]
      · simp only [State.probeChange, h, if_true]
        exact hasKind_raise _ _ _
    · exact ih e _

end Sys2Proof.Machine
end

