-- ==== Sys2Proof/Laws/Frames.lean ====
section
/-! SUPPORT. What the shared operations of the line unit, the monitor and the mode change leave alone: each is the state with the
fields it may change. -/

-- Many short proofs: checked one after another, they need fewer threads.
set_option Elab.async false

namespace Sys2Proof.Machine

namespace State

variable (s : State)

theorem raiseIf_frame (b : Bool) (k : EventKind) : s.raiseIf b k = { s with ports := (s.raiseIf b k).ports } := by
  unfold raiseIf; split <;> rfl

theorem requestIf_frame (b : Bool) (m : Mark) : s.requestIf b m = { s with marks := (s.requestIf b m).marks } := by
  unfold requestIf; split <;> rfl

theorem setDefrost_frame (c : Fin 4) (p : DefrostPhase) (n : Nat) :
    s.setDefrost c p n = { s with mon := (s.setDefrost c p n).mon, marks := (s.setDefrost c p n).marks } := rfl

theorem defrostChanged_frame (c : Fin 4) (b : Bool) :
    s.defrostChanged c b = { s with mon := (s.defrostChanged c b).mon, marks := (s.defrostChanged c b).marks } := by
  unfold defrostChanged; split <;> [split <;> [split <;> rfl; rfl]; rfl]

theorem unitMark_frame (w : Fin 4 → Bool) (c : Fin 4) : s.unitMark w c = { s with marks := (s.unitMark w c).marks } :=
  requestIf_frame s _ _

/-- Marks requested for each compartment touch the marks alone. -/
theorem forComps_marks (f : Fin 4 → State → State) (h : ∀ c t, f c t = { t with marks := (f c t).marks }) :
    s.forComps f = { s with marks := (s.forComps f).marks } := by
  have tr : ∀ {a b c : State}, b = { a with marks := b.marks } → c = { b with marks := c.marks } →
      c = { a with marks := c.marks } := fun h1 h2 => by rw [h2, h1]
  exact tr (tr (tr (h 0 s) (h 1 _)) (h 2 _)) (h 3 _)

theorem unitChanged_frame (w : Fin 4 → Bool) :
    s.unitChanged w = { s with marks := (s.unitChanged w).marks, ports := (s.unitChanged w).ports } := by
  have tr : ∀ {a b c : State}, b = { a with marks := b.marks } → c = { b with ports := c.ports } →
      c = { a with marks := c.marks, ports := c.ports } := fun h1 h2 => by rw [h2, h1]
  exact tr (forComps_marks s _ fun c t => unitMark_frame t w c) (raiseIf_frame _ _ _)

theorem doorCounted_frame (c : Fin 4) (a b n : Nat) :
    s.doorCounted c a b n = { s with mon := (s.doorCounted c a b n).mon } := by
  unfold doorCounted; split <;> [rfl; split <;> [rfl; split <;> rfl]]

theorem enterMode_frame (m : Mode) (k : ModeCause) :
    s.enterMode m k = { s with
      ctl := (s.enterMode m k).ctl
      fe := (s.enterMode m k).fe
      mon := (s.enterMode m k).mon
      marks := s.marks ++ [.mode s.ctl.mode m k]
      ports := (s.raise .mode).ports } := rfl

theorem rouse_frame (k : ModeCause) :
    s.rouse k = { s with
      ctl := (s.rouse k).ctl, fe := (s.rouse k).fe, mon := s.mon, marks := (s.rouse k).marks, ports := (s.rouse k).ports } := by
  unfold rouse wakeFrom; split <;> [rfl; split <;> rfl]

theorem parkChanged_frame (b : Bool) :
    s.parkChanged b = { s with
      ctl := (s.parkChanged b).ctl
      fe := (s.parkChanged b).fe
      marks := (s.parkChanged b).marks
      ports := (s.parkChanged b).ports } := by
  unfold parkChanged; split <;> [exact rouse_frame s _; rfl]

/-- Outside PARKED and DORMANT nothing ends parking or sleep. -/
theorem rouse_awake (k : ModeCause) (h : s.ctl.mode ≠ .parked) (h' : s.ctl.mode ≠ .dormant) : s.rouse k = s := by
  simp [rouse, wakeFrom, h, h']

/-- Outside PARKED and DORMANT a changed park condition changes no mode. -/
theorem parkChanged_awake (b : Bool) (h : s.ctl.mode ≠ .parked) (h' : s.ctl.mode ≠ .dormant) : s.parkChanged b = s := by
  unfold parkChanged; split <;> [exact rouse_awake s _ h h'; rfl]

theorem rouse_mode (k : ModeCause) :
    (s.rouse k).ctl.mode = if s.ctl.mode = .parked then .service else if s.ctl.mode = .dormant then .waking else s.ctl.mode := by
  unfold rouse wakeFrom; split <;> [rfl; split <;> rfl]

/-- An operation made for each compartment that touches the monitor and the marks alone touches no more. -/
theorem forComps_frame (f : Fin 4 → State → State)
    (h : ∀ c t, f c t = { t with mon := (f c t).mon, marks := (f c t).marks }) :
    s.forComps f = { s with mon := (s.forComps f).mon, marks := (s.forComps f).marks } := by
  have tr : ∀ {a b c : State}, b = { a with mon := b.mon, marks := b.marks } →
      c = { b with mon := c.mon, marks := c.marks } → c = { a with mon := c.mon, marks := c.marks } :=
    fun h1 h2 => by rw [h2, h1]
  exact tr (tr (tr (h 0 s) (h 1 _)) (h 2 _)) (h 3 _)

/-- A DOOR line event at its consumers, outside PARKED and DORMANT and within. -/
theorem doorEvent_frame (l : Fin 8) (c : Fin 4) (a : Bool) (n : Nat) :
    s.doorEvent l c a n = { s with
      lines := (s.doorEvent l c a n).lines
      mon := (s.doorEvent l c a n).mon
      cons := (s.doorEvent l c a n).cons
      ctl := (s.doorEvent l c a n).ctl
      fe := (s.doorEvent l c a n).fe
      marks := (s.doorEvent l c a n).marks
      ports := (s.doorEvent l c a n).ports } := by
  unfold doorEvent
  dsimp only
  cases a
  · simp only [Bool.false_and, Bool.false_eq_true, if_false]
    rw [doorCounted_frame]; rfl
  · simp only [Bool.true_and, if_true]
    split
    · rw [rouse_frame, doorCounted_frame]; rfl
    · rw [doorCounted_frame]; rfl

/-- What a DOOR line event does to the line unit (R28, R29, R34). -/
theorem doorEvent_lines (l : Fin 8) (c : Fin 4) (a : Bool) (n : Nat) :
    (s.doorEvent l c a n).lines = ((if a then s.openEpisode l c s.now else s.closeEpisode l s.now).setDoorFlag l).lines := by
  have hr : ∀ t : State, (t.rouse .door).lines = t.lines := fun t => by rw [rouse_frame]
  have hd : ∀ (t : State) (m : Nat), (t.doorCounted c n m s.now).lines = t.lines := fun t m => by rw [doorCounted_frame]
  unfold doorEvent
  cases a
  · simp [hd]
  · simp only [Bool.true_and, if_true]
    split
    · rw [hr, hd]
    · rw [hd]

theorem doorEvent_line (l : Fin 8) (c : Fin 4) (a : Bool) (n : Nat) : (s.doorEvent l c a n).lines.line = s.lines.line := by
  rw [doorEvent_lines]; cases a <;> rfl

theorem doorEvent_counters (l : Fin 8) (c : Fin 4) (a : Bool) (n : Nat) :
    (s.doorEvent l c a n).lines.counters = s.lines.counters := by
  rw [doorEvent_lines]; cases a <;> rfl

/-- A line event sets the line's debounced state, discards its candidate, and touches no other line and no counter (R22). -/
theorem lineTaken_line (l : Fin 8) (a : Bool) : (s.lineTaken l a).lines.line = (s.putLine l a none).lines.line := by
  unfold lineTaken
  dsimp only
  split <;>
    first
    | (rw [doorEvent_line])
    | (rw [defrostChanged_frame])
    | (rw [unitChanged_frame])
    | (rw [parkChanged_frame])
    | rfl

theorem lineTaken_counters (l : Fin 8) (a : Bool) : (s.lineTaken l a).lines.counters = s.lines.counters := by
  unfold lineTaken
  dsimp only
  split <;>
    first
    | (rw [doorEvent_counters]; rfl)
    | (rw [defrostChanged_frame]; rfl)
    | (rw [unitChanged_frame]; rfl)
    | (rw [parkChanged_frame]; rfl)
    | rfl

end State

end Sys2Proof.Machine
end

