-- ==== Sys2Proof/Laws/Keeps.lean ====
section
/-! SUPPORT. The ledger: what the operations of the part keep, said once for each operation. A statement that every step keeps
one of the invariants of Safety.lean, leaves the queue of commands alone, or leaves the working settings alone, switches on
the clause it needs and cites the lemma of the operation. -/

-- Many short proofs: checked one after another, they need fewer threads.
set_option Elab.async false

namespace Sys2Proof.Machine

/-- A consignment whose exposure, identity and carried values are those of another, and whose flags stand where the other's
stood. -/
structure Consignment.Same (x y : Consignment) : Prop where
  id : y.id = x.id
  carriedDose : y.carriedDose = x.carriedDose
  carriedShocks : y.carriedShocks = x.carriedShocks
  source : y.source = x.source
  exposure : y.exposure = x.exposure
  outage : x.outageSeen = true → y.outageSeen = true
  conflict : x.conflictSeen = true → y.conflictSeen = true

namespace Consignment

variable {x y z : Consignment}

theorem Since.refl (x : Consignment) : x.Since x :=
  ⟨rfl, rfl, rfl, rfl, le_rfl, le_rfl, le_rfl, le_rfl, le_rfl, BitVec.and_self, fun h => h, fun h => h, fun h => h⟩

theorem Since.trans (h : x.Since y) (g : y.Since z) : x.Since z where
  id := g.id.trans h.id
  carriedDose := g.carriedDose.trans h.carriedDose
  carriedShocks := g.carriedShocks.trans h.carriedShocks
  source := g.source.trans h.source
  other := h.other.trans g.other
  door := h.door.trans g.door
  defrost := h.defrost.trans g.defrost
  unit := h.unit.trans g.unit
  shocks := h.shocks.trans g.shocks
  triggered := by rw [← h.triggered, BitVec.and_assoc, g.triggered]
  saturated := fun e => g.saturated (h.saturated e)
  outage := fun e => g.outage (h.outage e)
  conflict := fun e => g.conflict (h.conflict e)

theorem Same.since (h : x.Same y) : x.Since y where
  id := h.id
  carriedDose := h.carriedDose
  carriedShocks := h.carriedShocks
  source := h.source
  other := by rw [h.exposure]
  door := by rw [h.exposure]
  defrost := by rw [h.exposure]
  unit := by rw [h.exposure]
  shocks := by rw [h.exposure]
  triggered := by rw [h.exposure, BitVec.and_self]
  saturated := by rw [h.exposure]; exact fun e => e
  outage := h.outage
  conflict := h.conflict

theorem Same.bounded (h : x.Same y) (hx : x.Bounded) : y.Bounded := by
  obtain ⟨a, b, c, d, e⟩ := hx
  rw [← h.exposure] at a b c d e
  exact ⟨a, b, c, d, e⟩

end Consignment

theorem tableSince_refl (a : Table (Option Consignment) 32) : tableSince a a :=
  fun _ x hx => .inr ⟨x, hx, .refl x⟩

theorem tableSince_trans {a b c : Table (Option Consignment) 32} (h : tableSince a b) (g : tableSince b c)
    (hb : ∀ j, b.read j = none → c.read j = none) : tableSince a c := by
  intro j x hx
  rcases h j x hx with e | ⟨y, hy, hxy⟩
  · exact .inl (hb j e)
  · rcases g j y hy with e | ⟨z, hz, hyz⟩
    · exact .inl e
    · exact .inr ⟨z, hz, hxy.trans hyz⟩

/-- Which clauses are claimed, and the values that stand. -/
structure Ledger where
  commands : List Instr
  settings : Settings
  queue : Prop
  ports : Prop
  contexts : Prop
  reference : Prop
  working : Prop
  table : Table (Option Consignment) 32
  doses : Prop

/-- The state meets every clause that the ledger claims. -/
structure Keeps (k : Ledger) (s : State) : Prop where
  commands : s.pending = k.commands
  queue : k.queue → s.queueBounded
  ports : k.ports → s.portsSound
  contexts : k.contexts → s.contextsBounded
  reference : k.reference → s.fe.ref.Sound
  working : k.working → s.ctl.working = k.settings
  doses : k.doses → s.dosesBounded ∧ tableSince k.table s.cons

variable {k : Ledger} {s t : State}

/-- A state that agrees on what the clauses read meets them too. -/
theorem Keeps.agree (hs : Keeps k s) (h1 : t.pending = s.pending) (h2 : t.hist.queue = s.hist.queue)
    (h3 : t.ports = s.ports) (h4 : t.hand.contexts = s.hand.contexts) (h5 : t.fe.ref = s.fe.ref)
    (h6 : t.ctl.working = s.ctl.working)
    (h7 : t.cons = s.cons := by rfl) : Keeps k t where
  commands := h1.trans hs.commands
  queue hk := by unfold State.queueBounded; rw [h2]; exact hs.queue hk
  ports hk := by unfold State.portsSound; rw [h3]; exact hs.ports hk
  contexts hk := by unfold State.contextsBounded; rw [h4]; exact hs.contexts hk
  reference hk := by rw [h5]; exact hs.reference hk
  working hk := h6.trans (hs.working hk)
  doses hk := by unfold State.dosesBounded; rw [h7]; exact hs.doses hk

/-- A change of the ports that keeps every port sound. -/
theorem Keeps.withPorts (hs : Keeps k s) (h1 : t.pending = s.pending) (h2 : t.hist.queue = s.hist.queue)
    (h3 : s.portsSound → t.portsSound) (h4 : t.hand.contexts = s.hand.contexts) (h5 : t.fe.ref = s.fe.ref)
    (h6 : t.ctl.working = s.ctl.working)
    (h7 : t.cons = s.cons := by rfl) :
    Keeps k t :=
  { (show Keeps k { t with ports := s.ports } from hs.agree h1 h2 rfl h4 h5 h6 h7) with
    ports := fun hk => h3 (hs.ports hk) }

/-- A change of the queue to one that is bounded where the old one was. -/
theorem Keeps.withQueue (hs : Keeps k s) (h1 : t.pending = s.pending) (h2 : s.queueBounded → t.queueBounded)
    (h3 : t.ports = s.ports) (h4 : t.hand.contexts = s.hand.contexts) (h5 : t.fe.ref = s.fe.ref)
    (h6 : t.ctl.working = s.ctl.working)
    (h7 : t.cons = s.cons := by rfl) :
    Keeps k t :=
  { (show Keeps k { t with hist := s.hist } from hs.agree h1 rfl h3 h4 h5 h6 h7) with
    queue := fun hk => h2 (hs.queue hk) }

/-- A change of the contexts to a list that is bounded where the old one was. -/
theorem Keeps.withContexts (hs : Keeps k s) (h1 : t.pending = s.pending) (h2 : t.hist.queue = s.hist.queue)
    (h3 : t.ports = s.ports) (h4 : s.contextsBounded → t.contextsBounded) (h5 : t.fe.ref = s.fe.ref)
    (h6 : t.ctl.working = s.ctl.working)
    (h7 : t.cons = s.cons := by rfl) :
    Keeps k t :=
  { (show Keeps k { t with hand := s.hand } from hs.agree h1 h2 h3 rfl h5 h6 h7) with
    contexts := fun hk => h4 (hs.contexts hk) }

/-- A change of the reference-check record to one that is consistent where the old one was. -/
theorem Keeps.withRef (hs : Keeps k s) (h1 : t.pending = s.pending) (h2 : t.hist.queue = s.hist.queue)
    (h3 : t.ports = s.ports) (h4 : t.hand.contexts = s.hand.contexts) (h5 : s.fe.ref.Sound → t.fe.ref.Sound)
    (h6 : t.ctl.working = s.ctl.working)
    (h7 : t.cons = s.cons := by rfl) :
    Keeps k t :=
  { (show Keeps k { t with fe := s.fe } from hs.agree h1 h2 h3 h4 rfl h6 h7) with
    reference := fun hk => h5 (hs.reference hk) }

/-- A change of the working settings, where they are not claimed. -/
theorem Keeps.withSettings (hs : Keeps k s) (hk : ¬ k.working) (h1 : t.pending = s.pending)
    (h2 : t.hist.queue = s.hist.queue) (h3 : t.ports = s.ports) (h4 : t.hand.contexts = s.hand.contexts)
    (h5 : t.fe.ref = s.fe.ref) (h7 : t.cons = s.cons := by rfl) :
    Keeps k t :=
  { (show Keeps k { t with ctl := s.ctl } from hs.agree h1 h2 h3 h4 h5 rfl h7) with
    working := fun hw => absurd hw hk }

/-- A change of the consignment table that frees slots and keeps what occupied ones have. -/
theorem Keeps.withCons (hs : Keeps k s) (h1 : t.pending = s.pending) (h2 : t.hist.queue = s.hist.queue)
    (h3 : t.ports = s.ports) (h4 : t.hand.contexts = s.hand.contexts) (h5 : t.fe.ref = s.fe.ref)
    (h6 : t.ctl.working = s.ctl.working)
    (h7 : s.dosesBounded → t.dosesBounded ∧ tableSince s.cons t.cons ∧ ∀ j, s.cons.read j = none → t.cons.read j = none) :
    Keeps k t :=
  { (show Keeps k { t with cons := s.cons } from hs.agree h1 h2 h3 h4 h5 h6 rfl) with
    doses := fun hk =>
      have ⟨hb, ht, hn⟩ := h7 (hs.doses hk).1
      ⟨hb, tableSince_trans (hs.doses hk).2 ht hn⟩ }

/-- Every occupied slot's consignment changed by a function that keeps what it has. -/
theorem since_mapIdx {f : Fin 32 → Option Consignment → Option Consignment} (hf0 : ∀ j, f j none = none)
    (hf : ∀ j x, x.Bounded → f j (some x) = none ∨ ∃ y, f j (some x) = some y ∧ y.Bounded ∧ x.Since y)
    (hs : s.dosesBounded) :
    (∀ j x, (s.cons.mapIdx f).read j = some x → x.Bounded) ∧ tableSince s.cons (s.cons.mapIdx f) ∧
      ∀ j, s.cons.read j = none → (s.cons.mapIdx f).read j = none := by
  refine ⟨?_, ?_, fun j hj => by rw [Table.read_mapIdx, hj, hf0]⟩
  · intro j y hy
    rw [Table.read_mapIdx] at hy
    cases hx : s.cons.read j with
    | none => rw [hx, hf0] at hy; cases hy
    | some x =>
      rw [hx] at hy
      rcases hf j x (hs j x hx) with h | ⟨z, hz, hb, -⟩
      · rw [h] at hy; cases hy
      · rw [hz] at hy; cases hy; exact hb
  · intro j x hx
    rw [Table.read_mapIdx, hx]
    rcases hf j x (hs j x hx) with h | ⟨z, hz, -, hb⟩
    · exact .inl h
    · exact .inr ⟨z, hz, hb⟩

/-- One slot's consignment replaced by the same one with what it has, or freed. -/
theorem since_write {j : Fin 32} {z : Option Consignment}
    (hz : s.dosesBounded → ∀ y, z = some y → ∃ x, s.cons.read j = some x ∧ y.Bounded ∧ x.Since y) (hs : s.dosesBounded) :
    (∀ i x, (s.cons.write j z).read i = some x → x.Bounded) ∧ tableSince s.cons (s.cons.write j z) ∧
      ∀ i, s.cons.read i = none → (s.cons.write j z).read i = none := by
  refine ⟨?_, ?_, ?_⟩
  · intro i y hy
    rw [Table.read_write] at hy
    split at hy
    · obtain ⟨x, -, hb, -⟩ := hz hs y hy
      exact hb
    · exact hs i y hy
  · intro i x hx
    rw [Table.read_write]
    split
    · rename_i e
      cases z with
      | none => exact .inl rfl
      | some y =>
        obtain ⟨w, hw, -, h⟩ := hz hs y rfl
        rw [e, hw] at hx
        cases hx
        exact .inr ⟨y, rfl, h⟩
    · exact .inr ⟨x, hx, .refl x⟩
  · intro i hi
    rw [Table.read_write]
    split
    · rename_i e
      cases z with
      | none => rfl
      | some y =>
        obtain ⟨w, hw, -⟩ := hz hs y rfl
        rw [e, hw] at hi
        cases hi
    · exact hi

/-- A fold of an operation that keeps the ledger. -/
theorem Keeps.foldl {α : Type} (f : State → α → State) (hf : ∀ s x, Keeps k s → Keeps k (f s x)) (xs : List α) :
    ∀ s, Keeps k s → Keeps k (xs.foldl f s) := by
  induction xs with
  | nil => exact fun s h => h
  | cons x xs ih => exact fun s h => ih _ (hf s x h)

/-- An operation made for each compartment. -/
theorem Keeps.forComps {f : Fin 4 → State → State} (hf : ∀ c s, Keeps k s → Keeps k (f c s)) (hs : Keeps k s) :
    Keeps k (s.forComps f) :=
  hf _ _ (hf _ _ (hf _ _ (hf _ _ hs)))

/-- Either branch. -/
theorem Keeps.ite {p : Prop} [Decidable p] (h1 : Keeps k s) (h2 : Keeps k t) : Keeps k (if p then s else t) := by
  split <;> assumption

/-! ## Ports -/

namespace PortUnit

variable {u : PortUnit}

theorem sound_sync (h : u.Sound) : u.sync.Sound := ⟨rfl, h.timeouts, h.breaks, h.strays, h.errors⟩

theorem sound_setPending (e : EventKind) (h : u.Sound) : (u.setPending e).Sound :=
  ⟨rfl, h.timeouts, h.breaks, h.strays, h.errors⟩

theorem sound_agree {v : PortUnit} (h : u.Sound) (h1 : v.pending = u.pending) (h2 : v.enable = u.enable)
    (h3 : v.attention = u.attention) (h4 : v.timeouts = u.timeouts) (h5 : v.breaks = u.breaks) (h6 : v.strays = u.strays)
    (h7 : v.errors = u.errors) : v.Sound where
  attention := by rw [h1, h2, h3]; exact h.attention
  timeouts := h4 ▸ h.timeouts
  breaks := h5 ▸ h.breaks
  strays := h6 ▸ h.strays
  errors := h7 ▸ h.errors

theorem sound_resetPort (e : BitVec 12) : (State.resetPort e).Sound := by
  refine ⟨?_, Nat.zero_le _, Nat.zero_le _, Nat.zero_le _, Nat.zero_le _⟩
  simp [State.resetPort]

theorem bump_le (n : Nat) : bump n ≤ 65535 := Nat.min_le_right ..

end PortUnit

namespace State

/-- One port changed, the change keeping a sound port sound. -/
theorem sound_modPort {p : Port} {f : PortUnit → PortUnit} (hf : (s.ports.at p).Sound → (f (s.ports.at p)).Sound)
    (h : s.portsSound) : (s.modPort p f).portsSound := by
  intro q
  by_cases e : q = p
  · subst e; simpa using hf (h q)
  · simpa [PerPort.at_put_other _ _ e] using h q

theorem keeps_modPort {p : Port} {f : PortUnit → PortUnit} (hf : ∀ u : PortUnit, u.Sound → (f u).Sound) (hs : Keeps k s) :
    Keeps k (s.modPort p f) :=
  hs.withPorts rfl rfl (sound_modPort (hf _)) rfl rfl rfl

theorem keeps_raise (e : EventKind) (hs : Keeps k s) : Keeps k (s.raise e) :=
  hs.withPorts rfl rfl (fun h p => by simpa using PortUnit.sound_setPending e (h p)) rfl rfl rfl

theorem keeps_raiseIf (b : Bool) (e : EventKind) (hs : Keeps k s) : Keeps k (s.raiseIf b e) := by
  unfold raiseIf
  exact .ite (keeps_raise e hs) hs

theorem keeps_setDoorFlag (l : Fin 8) (hs : Keeps k s) : Keeps k (s.setDoorFlag l) :=
  hs.withPorts rfl rfl
    (fun h p => by
      simp only [setDoorFlag, PerPort.at_map]
      split
      · exact PortUnit.sound_setPending _ (h p)
      · exact h p)
    rfl rfl rfl

theorem keeps_reply (p : Port) (tag : Byte) (st : Status) (d : List Byte) (hs : Keeps k s) : Keeps k (s.reply p tag st d) :=
  keeps_modPort (fun _ h => PortUnit.sound_agree h rfl rfl rfl rfl rfl rfl rfl) hs

theorem keeps_respond (h : Header) (st : Status) (d : List Byte) (hs : Keeps k s) : Keeps k (s.respond h st d) :=
  keeps_reply _ _ _ _ hs

theorem keeps_landed (c : LongCommand) (hs : Keeps k s) : Keeps k (s.landed c) :=
  hs.withPorts rfl rfl
    (fun h p => by
      simp only [landed, PerPort.at_map]
      exact PortUnit.sound_agree (h p) rfl rfl rfl rfl rfl rfl rfl)
    rfl rfl rfl

/-! ## Shared operations -/

theorem keeps_modComp (c : Fin 4) (f : Compartment → Compartment) (hs : Keeps k s) : Keeps k (s.modComp c f) :=
  hs.agree rfl rfl rfl rfl rfl rfl

/-- A slot is freed. -/
theorem keeps_freeCons (j : Fin 32) (hs : Keeps k s) : Keeps k (s.putCons j none) :=
  hs.withCons rfl rfl rfl rfl rfl rfl (since_write fun _ _ h => nomatch h)

/-- A consignment is replaced by the same one with what it had. -/
theorem keeps_putCons (j : Fin 32) {x y : Consignment} (hx : s.cons.read j = some x) (h : x.Same y) (hs : Keeps k s) :
    Keeps k (s.putCons j (some y)) :=
  hs.withCons rfl rfl rfl rfl rfl rfl
    (since_write fun hb z e => ⟨x, hx, by cases e; exact ⟨h.bounded (hb j x hx), h.since⟩⟩)

theorem keeps_modCons (j : Fin 32) (f : Consignment → Consignment) (hs : Keeps k s)
    (hf : ∀ x : Consignment, x.Same (f x) := by intro x; first
      | exact ⟨rfl, rfl, rfl, rfl, rfl, id, id⟩
      | (split <;> exact ⟨rfl, rfl, rfl, rfl, rfl, id, id⟩)) : Keeps k (s.modCons j f) := by
  unfold modCons Table.modify
  refine hs.withCons rfl rfl rfl rfl rfl rfl (since_write fun hb y e => ?_)
  cases hx : s.cons.read j with
  | none => rw [hx] at e; cases e
  | some x =>
    rw [hx] at e
    cases e
    exact ⟨x, rfl, (hf x).bounded (hb j x hx), (hf x).since⟩

/-- Every consignment changed to the same one with what it had. -/
theorem keeps_mapCons {f : Consignment → Consignment} (hf : ∀ x : Consignment, x.Same (f x)) (hs : Keeps k s) :
    Keeps k { s with cons := s.cons.mapIdx fun _ x => x.map f } :=
  hs.withCons rfl rfl rfl rfl rfl rfl
    (since_mapIdx (fun _ => rfl) fun _ x hb => .inr ⟨f x, rfl, (hf x).bounded hb, (hf x).since⟩)

theorem keeps_putClaim (i : Fin 16) (x : Option Claim) (hs : Keeps k s) : Keeps k (s.putClaim i x) :=
  hs.agree rfl rfl rfl rfl rfl rfl

theorem keeps_modBank (f : SettingsBank → SettingsBank) (hs : Keeps k s) : Keeps k (s.modBank f) :=
  hs.agree rfl rfl rfl rfl rfl rfl

theorem keeps_request (m : Mark) (hs : Keeps k s) : Keeps k (s.request m) := hs.agree rfl rfl rfl rfl rfl rfl

theorem keeps_requestIf (b : Bool) (m : Mark) (hs : Keeps k s) : Keeps k (s.requestIf b m) := by
  unfold requestIf
  exact .ite (keeps_request m hs) hs

theorem keeps_takeLeaves (hs : Keeps k s) : Keeps k s.takeLeaves.2 := hs.agree rfl rfl rfl rfl rfl rfl

theorem keeps_modHist {f : History → History} (hf : (f s.hist).queue = s.hist.queue) (hs : Keeps k s) :
    Keeps k (s.modHist f) :=
  hs.agree rfl hf rfl rfl rfl rfl

theorem keeps_modHand {f : HandOver → HandOver} (hf : (f s.hand).contexts = s.hand.contexts) (hs : Keeps k s) :
    Keeps k (s.modHand f) :=
  hs.agree rfl rfl rfl hf rfl rfl

/-- The port's checks answer with a response, or the command's own rule runs. -/
theorem keeps_take {g : Group} {h : Header} {body : State → State} (hb : Keeps k (body s)) (hs : Keeps k s) :
    Keeps k (s.take g h body) := by
  unfold take
  repeat' apply Keeps.ite
  all_goals first | exact keeps_respond _ _ _ hs | assumption

/-- An edit is answered with a refusal, or its body runs in SETUP. -/
theorem keeps_edit {h : Header} {body : State → State} (hb : s.ctl.mode = .setup → Keeps k (body s)) (hs : Keeps k s) :
    Keeps k (s.edit h body) := by
  unfold edit
  split
  · exact keeps_respond _ _ _ hs
  · rename_i hm
    exact .ite (keeps_respond _ _ _ hs) (hb (Decidable.not_not.mp hm))

theorem keeps_beginRound (hs : Keeps k s) : Keeps k s.beginRound := by
  unfold beginRound
  split
  · exact hs
  · exact .ite hs (hs.agree rfl rfl rfl rfl rfl rfl)

theorem keeps_enterMode (m : Mode) (c : ModeCause) (hs : Keeps k s) : Keeps k (s.enterMode m c) := by
  unfold enterMode
  exact keeps_raise _ (keeps_request _ (hs.agree rfl rfl rfl rfl rfl rfl))

theorem keeps_startEstimates (hs : Keeps k s) : Keeps k s.startEstimates := hs.agree rfl rfl rfl rfl rfl rfl

theorem keeps_wakeFrom (c : ModeCause) (hs : Keeps k s) : Keeps k (s.wakeFrom c) := .ite (keeps_enterMode _ _ hs) hs

theorem keeps_rouse (c : ModeCause) (hs : Keeps k s) : Keeps k (s.rouse c) :=
  .ite (keeps_enterMode _ _ hs) (keeps_wakeFrom _ hs)

theorem keeps_parkChanged (was : Bool) (hs : Keeps k s) : Keeps k (s.parkChanged was) := .ite (keeps_rouse _ hs) hs

end State

/-! ## The front end -/

theorem RefRecord.sound_check {r : RefRecord} (a b : BitVec 16) (h : r.Sound) : (r.check a b).Sound := by
  unfold RefRecord.check
  cases hp : checkPasses a b
  · refine ⟨Nat.min_le_right .., fun e => absurd e (by simp), fun e => ⟨rfl, ?_⟩⟩
    rcases Bool.or_eq_true _ _ ▸ e with hf | hf
    · have := (h.fault hf).2
      simp [this]
    · simpa using hf
  · refine ⟨?_, ?_, ?_⟩ <;> simp

namespace State

theorem keeps_completeCheck (a b : BitVec 16) (hs : Keeps k s) : Keeps k (s.completeCheck a b) := by
  unfold completeCheck
  exact keeps_raiseIf _ _ (keeps_requestIf _ _ (hs.withRef rfl rfl rfl rfl (RefRecord.sound_check a b) rfl))

theorem keeps_probeChange (p : Fin 8) (old new : ProbeStatus) (hs : Keeps k s) : Keeps k (s.probeChange p old new) := by
  unfold probeChange
  repeat' apply Keeps.ite
  all_goals first | exact keeps_raise _ (keeps_request _ hs) | exact keeps_request _ hs | exact hs

theorem keeps_handPublication (p : Publication) (hs : Keeps k s) : Keeps k (s.handPublication p) :=
  hs.agree rfl rfl rfl rfl rfl rfl

theorem keeps_publishRound (r : Round) (conv : Conversion) (hs : Keeps k s) : Keeps k (s.publishRound r conv) := by
  unfold publishRound
  have h1 : Keeps k (if r.check then s.completeCheck conv.refA conv.refB else s) := .ite (keeps_completeCheck _ _ hs) hs
  refine keeps_handPublication _ ?_
  refine Keeps.agree (keeps_raiseIf _ _ (Keeps.foldl _ ?_ _ _ h1)) rfl rfl rfl rfl rfl rfl
  exact fun s p h => keeps_probeChange p _ _ h

theorem keeps_publish (conv : Conversion) (hs : Keeps k s) : Keeps k (s.publish conv) := by
  unfold publish
  split
  · exact .ite (keeps_publishRound _ _ hs) hs
  · exact hs

theorem keeps_applyAssignment (old : Table CompConfig 4) (hs : Keeps k s) : Keeps k (s.applyAssignment old) :=
  hs.agree rfl rfl rfl rfl rfl rfl

/-! ## The monitor -/

theorem keeps_setDefrost (c : Fin 4) (p : DefrostPhase) (n : Nat) (hs : Keeps k s) : Keeps k (s.setDefrost c p n) :=
  keeps_request _ (keeps_modComp _ _ hs)

theorem keeps_defrostChanged (c : Fin 4) (was : Bool) (hs : Keeps k s) : Keeps k (s.defrostChanged c was) := by
  unfold defrostChanged
  repeat' apply Keeps.ite
  all_goals first | exact hs | exact keeps_setDefrost _ _ _ hs

theorem keeps_unitMark (was : Fin 4 → Bool) (c : Fin 4) (hs : Keeps k s) : Keeps k (s.unitMark was c) :=
  keeps_requestIf _ _ hs

theorem keeps_unitChanged (was : Fin 4 → Bool) (hs : Keeps k s) : Keeps k (s.unitChanged was) :=
  keeps_raiseIf _ _ (Keeps.forComps (fun c _ h => keeps_unitMark was c h) hs)

theorem keeps_doorCounted (c : Fin 4) (was count second : Nat) (hs : Keeps k s) :
    Keeps k (s.doorCounted c was count second) := by
  unfold doorCounted
  repeat' apply Keeps.ite
  all_goals first | exact hs | exact keeps_modComp _ _ hs

theorem keeps_overstay (c : Fin 4) (hs : Keeps k s) : Keeps k (s.overstay c) := by
  unfold overstay
  exact keeps_raise _ (keeps_request _ (hs.agree rfl rfl rfl rfl rfl rfl))

theorem keeps_flagConflict (c : Fin 4) (hs : Keeps k s) : Keeps k (s.flagConflict c) :=
  keeps_mapCons (fun _ => by split <;> exact ⟨rfl, rfl, rfl, rfl, rfl, id, fun _ => by first | rfl | assumption⟩) hs

theorem keeps_decideConflict (c : Fin 4) (b : Bool) (hs : Keeps k s) : Keeps k (s.decideConflict c b) := by
  unfold decideConflict
  exact keeps_requestIf _ _ (keeps_raiseIf _ _ (.ite (keeps_flagConflict _ (keeps_modComp _ _ hs)) (keeps_modComp _ _ hs)))

theorem keeps_startComp (c : Fin 4) (hs : Keeps k s) : Keeps k (s.startComp c) := by
  have h2 : ∀ t : State, t.pending = s.pending → t.hist = s.hist → t.ports = s.ports → t.hand = s.hand →
      t.fe.ref = s.fe.ref → t.ctl = s.ctl → t.cons = s.cons → Keeps k t := fun t a b c d e f g =>
    hs.agree a (by rw [b]) c (by rw [d]) e (by rw [f]) g
  unfold startComp
  repeat' apply Keeps.ite
  · exact keeps_setDefrost _ _ _ (h2 _ rfl rfl rfl rfl rfl rfl rfl)
  · exact h2 _ rfl rfl rfl rfl rfl rfl rfl
  · exact keeps_setDefrost _ _ _ (h2 _ rfl rfl rfl rfl rfl rfl rfl)

theorem keeps_stopComp (c : Fin 4) (hs : Keeps k s) : Keeps k (s.stopComp c) := by
  unfold stopComp
  refine .ite ?_ (keeps_setDefrost _ _ _ ?_)
  all_goals exact hs.agree rfl rfl rfl rfl rfl rfl

theorem keeps_applyUse (was : Bool) (c : Fin 4) (hs : Keeps k s) : Keeps k (s.applyUse was c) := by
  unfold applyUse
  exact keeps_decideConflict _ _ (.ite (keeps_startComp _ hs) (.ite (keeps_stopComp _ hs) hs))

theorem keeps_applyComps (old : Table CompConfig 4) (hs : Keeps k s) : Keeps k (s.applyComps old) :=
  Keeps.forComps (fun _ _ h => keeps_applyUse _ _ h) (keeps_applyAssignment _ hs)

theorem keeps_judgeComp (p : Publication) (c : Fin 4) (hs : Keeps k s) : Keeps k (s.judgeComp p c) := by
  unfold judgeComp
  split
  · exact .ite (keeps_raiseIf _ _ (keeps_modComp _ _ hs)) hs
  · exact hs

theorem keeps_countRecovery (n : Nat) (c : Fin 4) (hs : Keeps k s) : Keeps k (s.countRecovery n c) :=
  .ite hs (keeps_modComp _ _ hs)

theorem keeps_countDefrost (n : Nat) (c : Fin 4) (hs : Keeps k s) : Keeps k (s.countDefrost n c) := by
  unfold countDefrost
  exact .ite hs (.ite (keeps_raise _ (keeps_setDefrost _ _ _ hs)) (keeps_modComp _ _ hs))

theorem keeps_monitorComp (p : Publication) (c : Fin 4) (hs : Keeps k s) : Keeps k (monitorComp p c s) :=
  keeps_countDefrost _ _ (keeps_countRecovery _ _ (keeps_judgeComp _ _ hs))

theorem keeps_monitorTake (hs : Keeps k s) : Keeps k s.monitorTake := by
  unfold monitorTake
  split
  · exact hs
  · exact Keeps.forComps (fun _ _ h => keeps_monitorComp _ _ h) (hs.agree rfl rfl rfl rfl rfl rfl)

/-! ## The line unit -/

theorem keeps_countOpening (c : Fin 4) (hs : Keeps k s) : Keeps k (s.countOpening c) :=
  keeps_mapCons (fun _ => by split <;> exact ⟨rfl, rfl, rfl, rfl, rfl, id, id⟩) hs

theorem keeps_openEpisode (l : Fin 8) (c : Fin 4) (n : Nat) (hs : Keeps k s) : Keeps k (s.openEpisode l c n) := by
  unfold openEpisode
  exact keeps_countOpening _ (hs.agree rfl rfl rfl rfl rfl rfl)

theorem keeps_closeEpisode (l : Fin 8) (n : Nat) (hs : Keeps k s) : Keeps k (s.closeEpisode l n) :=
  hs.agree rfl rfl rfl rfl rfl rfl

theorem keeps_interruptEpisodes (n : Nat) (hs : Keeps k s) : Keeps k (s.interruptEpisodes n) :=
  hs.agree rfl rfl rfl rfl rfl rfl

theorem keeps_doorEvent (l : Fin 8) (c : Fin 4) (active : Bool) (was : Nat) (hs : Keeps k s) :
    Keeps k (s.doorEvent l c active was) := by
  unfold doorEvent
  have h1 : Keeps k (if active then s.openEpisode l c s.now else s.closeEpisode l s.now) :=
    .ite (keeps_openEpisode _ _ _ hs) (keeps_closeEpisode _ _ hs)
  have h2 := fun n m => keeps_doorCounted c was n m (keeps_setDoorFlag l h1)
  exact .ite (keeps_rouse _ (h2 _ _)) (h2 _ _)

theorem keeps_putLine (l : Fin 8) (b : Bool) (x : Option Candidate) (hs : Keeps k s) : Keeps k (s.putLine l b x) :=
  hs.agree rfl rfl rfl rfl rfl rfl

theorem keeps_lineTaken (l : Fin 8) (b : Bool) (hs : Keeps k s) : Keeps k (s.lineTaken l b) := by
  have h1 := keeps_putLine l b none hs
  unfold lineTaken
  dsimp only
  split
  · exact keeps_doorEvent _ _ _ _ h1
  · exact keeps_defrostChanged _ _ h1
  · exact keeps_unitChanged _ h1
  · exact keeps_parkChanged _ h1
  · exact h1

theorem keeps_takeDebounced (l : Fin 8) (n : Nat) (hs : Keeps k s) : Keeps k (s.takeDebounced l n) := by
  unfold takeDebounced
  refine .ite hs ?_
  split
  · exact keeps_lineTaken _ _ hs
  · exact hs

theorem keeps_watchLevel (l : Fin 8) (n : Nat) (hs : Keeps k s) : Keeps k (s.watchLevel l n) := by
  unfold watchLevel
  dsimp only
  refine .ite hs (.ite (keeps_putLine _ _ _ hs) (.ite (keeps_lineTaken _ _ hs) ?_))
  split
  · exact hs
  · exact keeps_putLine _ _ _ hs

theorem keeps_rawLevel (l : Fin 8) (high : Bool) (n : Nat) (hs : Keeps k s) : Keeps k (s.rawLevel l high n) := by
  unfold rawLevel
  exact .ite hs (keeps_watchLevel _ _ ((keeps_takeDebounced l n hs).agree rfl rfl rfl rfl rfl rfl))

theorem keeps_doorMoved (l : Fin 8) (c : Option (Fin 4)) (b : Bool) (was : Fin 4 → Nat) (hs : Keeps k s) :
    Keeps k (s.doorMoved l c b was) := by
  unfold doorMoved
  split
  · exact keeps_doorEvent _ _ _ _ hs
  · exact hs

/-- An edit of a line changes the working line table, and keeps everything else that the ledger claims. -/
theorem keeps_editLine (l : Fin 8) (e : LineEntry) (hk : ¬ k.working) (hs : Keeps k s) : Keeps k (s.editLine l e) := by
  unfold editLine
  refine .ite hs ?_
  dsimp only
  refine keeps_parkChanged _ (keeps_unitChanged _ (Keeps.forComps (fun _ _ h => keeps_defrostChanged _ _ h) ?_))
  have h2 : ∀ t : State, t.pending = s.pending → t.hist = s.hist → t.ports = s.ports → t.hand = s.hand → t.fe = s.fe →
      t.cons = s.cons → Keeps k t := fun t a b c d f g => hs.withSettings hk a (by rw [b]) c (by rw [d]) (by rw [f]) g
  exact keeps_doorMoved _ _ _ _ (keeps_doorMoved _ _ _ _ (h2 _ rfl rfl rfl rfl rfl rfl))

theorem keeps_lineTake (hs : Keeps k s) : Keeps k s.lineTake := by
  unfold lineTake
  split
  · exact hs
  · exact hs.agree rfl rfl rfl rfl rfl rfl

end State

end Sys2Proof.Machine
end

