-- ==== Sys2Proof/Laws/KeepsStores.lean ====
section
/-! SUPPORT. The ledger through the history store, the claims unit, the exposure engine, the settings bank and the hand-over
unit. -/

-- Many short proofs: checked one after another, they need fewer threads.
set_option Elab.async false

namespace Sys2Proof.Machine

variable {k : Ledger} {s t : State}

namespace State

/-! ## The history store -/

theorem keeps_requestRewrite (hs : Keeps k s) : Keeps k s.requestRewrite := by
  unfold requestRewrite
  exact .ite hs (hs.agree rfl rfl rfl rfl rfl rfl)

/-- A record joins a queue that has room. -/
theorem keeps_joinQueue (b : Body) (hq : k.queue → s.hist.queue.length < 8) (hs : Keeps k s) : Keeps k (s.joinQueue b) :=
  { (show Keeps k { s.joinQueue b with hist := s.hist } from hs.agree rfl rfl rfl rfl rfl rfl) with
    queue := fun hk => by
      have := hq hk
      simp only [queueBounded, joinQueue, modHist, List.length_append, List.length_singleton]
      omega }

theorem keeps_createSample (x : Sample) (hs : Keeps k s) : Keeps k (s.createSample x) := by
  unfold createSample
  split
  · exact keeps_joinQueue _ (fun _ => ‹_›) hs
  · exact keeps_modHist rfl hs

theorem keeps_markDropped (m : Mark) (hs : Keeps k s) : Keeps k (s.markDropped m) := by
  unfold markDropped
  split
  · exact keeps_modCons _ _ hs
  · exact hs

/-- The removal of the newest SAMPLE shortens the queue by one. -/
theorem length_displaceSample {h : History} (hs : h.queue.any Queued.isSample = true) :
    h.displaceSample.queue.length = h.queue.length - 1 := by
  obtain ⟨q, hq, hp⟩ := List.any_eq_true.mp hs
  simp [History.displaceSample, eraseLast, List.length_eraseP_of_mem (List.mem_reverse.mpr hq) hp]

theorem keeps_createMark (m : Mark) (hs : Keeps k s) : Keeps k (s.createMark m) := by
  unfold createMark
  split
  · exact keeps_joinQueue _ (fun _ => ‹_›) hs
  split
  · rename_i hlt hany
    refine keeps_joinQueue _ (fun hk => ?_) (hs.withQueue rfl (fun hq => ?_) rfl rfl rfl rfl)
    · have : s.hist.queue.length ≤ 8 := hs.queue hk
      simp only [modHist_hist, length_displaceSample hany]
      omega
    · have : s.hist.queue.length ≤ 8 := hq
      simp only [queueBounded, modHist_hist, length_displaceSample hany]
      omega
  · exact keeps_markDropped _ (keeps_modHist rfl hs)

theorem keeps_takeMark (hs : Keeps k s) : Keeps k s.takeMark := by
  unfold takeMark
  split
  · exact hs
  · exact .ite hs (keeps_createMark _ (hs.agree rfl rfl rfl rfl rfl rfl))

theorem keeps_ownMark (m : Mark) (hs : Keeps k s) : Keeps k (s.ownMark m) :=
  .ite (keeps_request m hs) (keeps_createMark m hs)

theorem keeps_judgeUpload (hs : Keeps k s) : Keeps k s.judgeUpload := by
  unfold judgeUpload
  exact .ite (keeps_raise _ (keeps_modHist rfl hs)) (.ite (keeps_modHist rfl hs) hs)

theorem keeps_answerRead (r : HeldRead) (hs : Keeps k s) : Keeps k (s.answerRead r) := keeps_reply _ _ _ _ hs

theorem keeps_answerReads (hs : Keeps k s) : Keeps k s.answerReads := by
  unfold answerReads
  refine .ite hs (keeps_landed _ ?_)
  exact (Keeps.foldl _ (fun _ r h => keeps_answerRead r h) _ _ hs).agree rfl rfl rfl rfl rfl rfl

theorem keeps_loseUnsent (i : Fin 16) (hs : Keeps k s) : Keeps k (s.loseUnsent i) := by
  unfold loseUnsent
  exact .ite hs (keeps_judgeUpload (keeps_raise _ (keeps_modHist rfl hs)))

theorem keeps_startErase (i : Fin 16) (hs : Keeps k s) : Keeps k (s.startErase i) :=
  keeps_modHist rfl (keeps_loseUnsent i hs)

theorem keeps_retireSector (i : Fin 16) (b : Bool) (hs : Keeps k s) : Keeps k (s.retireSector i b) := by
  unfold retireSector
  have h1 : Keeps k (if b then s else s.loseUnsent i) := .ite hs (keeps_loseUnsent _ hs)
  have h3 := fun f hf => keeps_raise .store (keeps_requestRewrite (keeps_modHist (f := f) hf h1))
  exact keeps_judgeUpload (.ite (keeps_raise _ (keeps_modHist rfl (h3 _ rfl))) (h3 _ rfl))

theorem keeps_stall (hs : Keeps k s) : Keeps k s.stall :=
  keeps_answerReads (keeps_raise _ (keeps_ownMark _ (keeps_modHist rfl hs)))

theorem keeps_takeNext (i : Fin 16) (hs : Keeps k s) : Keeps k (s.takeNext i) := keeps_modHist rfl hs

theorem keeps_chooseFuel (n : Nat) : ∀ {s : State}, Keeps k s → Keeps k (chooseFuel n s) := by
  induction n with
  | zero => exact fun hs => keeps_stall hs
  | succ n ih =>
    intro s hs
    unfold chooseFuel
    split
    · exact keeps_stall hs
    · exact .ite (.ite (ih (keeps_retireSector _ _ hs)) (keeps_takeNext _ (keeps_startErase _ hs))) (keeps_takeNext _ hs)

theorem keeps_chooseNext (hs : Keeps k s) : Keeps k s.chooseNext := keeps_chooseFuel 16 hs

/-! ## The claims unit -/

theorem keeps_recomputePins (hs : Keeps k s) : Keeps k s.recomputePins := by
  unfold recomputePins
  refine .ite (keeps_chooseNext ?_) ?_
  all_goals exact hs.agree rfl rfl rfl rfl rfl rfl

theorem keeps_openClaim (i : Fin 16) (j : Fin 32) (x : Consignment) (c : BitVec 5) (r : Option Nat) (hs : Keeps k s) :
    Keeps k (s.openClaim i j x c r) := by
  unfold openClaim
  refine keeps_raise _ (keeps_request _ (keeps_requestRewrite (keeps_modCons _ _ ?_)))
  exact hs.agree rfl rfl rfl rfl rfl rfl

theorem keeps_addCause (i : Fin 16) (x : Claim) (j : Fin 32) (c : BitVec 5) (r : Option Nat) (hs : Keeps k s) :
    Keeps k (s.addCause i x j c r) :=
  keeps_raise _ (keeps_request _ (keeps_modCons _ _ (keeps_putClaim _ _ hs)))

theorem keeps_decideRequest (j : Fin 32) (x : Consignment) (c : BitVec 5) (hs : Keeps k s) :
    Keeps k (s.decideRequest j x c) := by
  unfold decideRequest
  split
  · exact .ite (.ite hs (keeps_addCause _ _ _ _ _ hs)) hs
  · refine .ite hs ?_
    split
    · exact keeps_openClaim _ _ _ _ _ hs
    · exact keeps_raise _ (keeps_modCons _ _ hs)

theorem keeps_takeRequest (r : ClaimRequest) (hs : Keeps k s) : Keeps k (s.takeRequest r) := by
  unfold takeRequest
  split
  · exact .ite (keeps_decideRequest _ _ _ hs) hs
  · exact hs

theorem keeps_requestTake (hs : Keeps k s) : Keeps k s.requestTake := by
  unfold requestTake
  split
  · exact hs
  · exact keeps_takeRequest _ (hs.agree rfl rfl rfl rfl rfl rfl)

theorem keeps_drainRequests (hs : Keeps k s) : Keeps k s.drainRequests :=
  Keeps.foldl _ (fun _ r h => keeps_takeRequest r h) _ _ (hs.agree rfl rfl rfl rfl rfl rfl)

theorem keeps_allocateTo (j : Fin 32) (hs : Keeps k s) : Keeps k (s.allocateTo j) := by
  unfold allocateTo
  split
  · exact .ite (keeps_openClaim _ _ _ _ _ hs) hs
  · exact hs

theorem keeps_allocate (hs : Keeps k s) : Keeps k s.allocate := by
  unfold allocate
  split
  · exact hs
  · exact Keeps.foldl _ (fun _ j h => keeps_allocateTo j h) _ _ (hs.agree rfl rfl rfl rfl rfl rfl)

theorem keeps_decideClaim (j : Fin 32) (x : Consignment) (v : Verdict) (r : Nat) (hs : Keeps k s) :
    Keeps k (s.decideClaim j x v r).1 := by
  unfold decideClaim
  split
  · exact hs
  · split
    · split
      · exact keeps_addCause _ _ _ _ _ hs
      · exact hs
    · split
      · exact keeps_openClaim _ _ _ _ _ hs
      · exact hs

theorem keeps_freeze (i : Fin 16) (x : Claim) (st : ClaimState) (sn : Snapshot) (r : Option Nat) (hs : Keeps k s) :
    Keeps k (s.freeze i x st sn r) :=
  keeps_request _ (keeps_putClaim _ _ hs)

theorem keeps_freezeOpen (x : Consignment) (hs : Keeps k s) : Keeps k (s.freezeOpen x) := by
  unfold freezeOpen
  split
  · exact .ite (keeps_freeze _ _ _ _ _ hs) hs
  · exact hs

theorem keeps_presentClaim (x : Consignment) (r : Receipt) (hs : Keeps k s) : Keeps k (s.presentClaim x r) := by
  unfold presentClaim
  split
  · exact .ite (keeps_freeze _ _ _ _ _ hs) hs
  · exact hs

theorem keeps_loseReference (x : Claim) (hs : Keeps k s) : Keeps k (s.loseReference x) := by
  unfold loseReference
  split
  · exact keeps_modCons _ _ hs
  · exact hs

theorem keeps_removeClaim (i : Fin 16) (x : Claim) (b : Bool) (hs : Keeps k s) : Keeps k (s.removeClaim i x b) :=
  keeps_recomputePins (keeps_request _ (keeps_loseReference _ (keeps_putClaim _ _ hs)))

theorem keeps_cutClaim (n : Nat) (i : Fin 16) (hs : Keeps k s) : Keeps k (cutClaim n s i) := by
  unfold cutClaim
  split
  · exact .ite (keeps_request _ (keeps_putClaim _ _ hs)) hs
  · exact hs

theorem keeps_newSector (i : Fin 16) (left : Option (Fin 16)) (hs : Keeps k s) : Keeps k (s.newSector i left) := by
  unfold newSector
  refine .ite hs (.ite ?_ (Keeps.foldl _ (fun _ i h => keeps_cutClaim _ i h) _ _ hs))
  exact hs.agree rfl rfl rfl rfl rfl rfl

theorem keeps_rebuildOrphans (n : Nat) (hs : Keeps k s) : Keeps k (s.rebuildOrphans n) :=
  hs.agree rfl rfl rfl rfl rfl rfl

/-! ## The exposure engine and the manifest -/

end State

/-- The counts of an exposure record within their ranges. -/
structure Exposure.Within (x : Exposure) : Prop where
  other : x.buckets.other ≤ maxBucket
  door : x.buckets.door ≤ maxBucket
  defrost : x.buckets.defrost ≤ maxBucket
  unit : x.buckets.unit ≤ maxBucket
  shocks : x.shocks ≤ 255

/-- What a sub-step does to the counts: they stay within their ranges and none falls. -/
structure Exposure.Grows (x y : Exposure) : Prop where
  within : y.Within
  other : x.buckets.other ≤ y.buckets.other
  door : x.buckets.door ≤ y.buckets.door
  defrost : x.buckets.defrost ≤ y.buckets.defrost
  unit : x.buckets.unit ≤ y.buckets.unit
  shocks : x.shocks ≤ y.shocks
  triggered : y.triggered = x.triggered
  saturated : x.saturated = true → y.saturated = true

namespace Exposure

variable {x y z : Exposure}

theorem Grows.refl (h : x.Within) : x.Grows x := ⟨h, le_rfl, le_rfl, le_rfl, le_rfl, le_rfl, rfl, id⟩

theorem Grows.trans (h : x.Grows y) (g : y.Grows z) : x.Grows z :=
  ⟨g.within, h.other.trans g.other, h.door.trans g.door, h.defrost.trans g.defrost, h.unit.trans g.unit,
    h.shocks.trans g.shocks, g.triggered.trans h.triggered, fun e => g.saturated (h.saturated e)⟩

theorem le_addBucket {b : Nat} (inc : Nat) (h : b ≤ maxBucket) : b ≤ addBucket b inc :=
  le_min (Nat.le_add_right ..) h

theorem addBucket_le (b inc : Nat) : addBucket b inc ≤ maxBucket := Nat.min_le_right ..

theorem grows_filter (zone : Zone) (a : Int) (h : x.Within) : x.Grows (x.filter zone a) := by
  obtain ⟨a, b, c, d, e⟩ := h
  unfold filter
  split <;> exact ⟨⟨a, b, c, d, e⟩, le_rfl, le_rfl, le_rfl, le_rfl, le_rfl, rfl, id⟩

theorem grows_freeze (h : x.Within) : x.Grows x.freeze := by
  obtain ⟨a, b, c, d, e⟩ := h
  exact ⟨⟨a, b, c, d, e⟩, le_rfl, le_rfl, le_rfl, le_rfl, le_rfl, rfl, id⟩

theorem grows_dose (c : DoseClass) (inc : Nat) (h : x.Within) : x.Grows (x.dose c inc) := by
  obtain ⟨h1, h2, h3, h4, h5⟩ := h
  have hs : x.saturated = true → (x.dose c inc).saturated = true := fun e => by simp [dose, e]
  cases c
  · exact ⟨⟨addBucket_le .., h2, h3, h4, h5⟩, le_addBucket _ h1, le_rfl, le_rfl, le_rfl, le_rfl, rfl, hs⟩
  · exact ⟨⟨h1, addBucket_le .., h3, h4, h5⟩, le_rfl, le_addBucket _ h2, le_rfl, le_rfl, le_rfl, rfl, hs⟩
  · exact ⟨⟨h1, h2, addBucket_le .., h4, h5⟩, le_rfl, le_rfl, le_addBucket _ h3, le_rfl, le_rfl, rfl, hs⟩
  · exact ⟨⟨h1, h2, h3, addBucket_le .., h5⟩, le_rfl, le_rfl, le_rfl, le_addBucket _ h4, le_rfl, rfl, hs⟩

theorem grows_shock (zone : Zone) (e : Int) (h : x.Within) : x.Grows (x.shock zone e) := by
  have h' := h
  obtain ⟨h1, h2, h3, h4, h5⟩ := h
  unfold shock
  split
  · exact ⟨⟨h1, h2, h3, h4, Nat.min_le_right ..⟩, le_rfl, le_rfl, le_rfl, le_rfl, le_min (Nat.le_succ _) h5, rfl, id⟩
  · split
    · exact ⟨⟨h1, h2, h3, h4, h5⟩, le_rfl, le_rfl, le_rfl, le_rfl, le_rfl, rfl, id⟩
    · exact .refl h'

theorem grows_peakOf (e : Int) (h : x.Within) : x.Grows (x.peakOf e) := by
  obtain ⟨a, b, c, d, e⟩ := h
  exact ⟨⟨a, b, c, d, e⟩, le_rfl, le_rfl, le_rfl, le_rfl, le_rfl, rfl, id⟩

theorem grows_afterEstimate (zone : Zone) (c : DoseClass) (h : x.Within) : x.Grows (x.afterEstimate zone c) := by
  unfold afterEstimate
  split
  · rename_i e _
    have h1 := grows_dose c (increment zone e) h
    have h2 := grows_shock zone e h1.within
    exact (h1.trans h2).trans (grows_peakOf _ h2.within)
  · exact .refl h

theorem grows_subStep (zone : Zone) (air : Option Int) (c : DoseClass) (h : x.Within) : x.Grows (x.subStep zone air c) := by
  unfold subStep
  split
  · rename_i a
    have h1 := grows_filter (x := x) zone a h
    exact h1.trans (grows_afterEstimate zone c h1.within)
  · have h1 := grows_freeze h
    exact h1.trans (grows_afterEstimate zone c h1.within)

theorem grows_subSteps (zone : Zone) (air : Option Int) (c : DoseClass) (n : Nat) :
    ∀ {x : Exposure}, x.Within → x.Grows (subSteps zone air c n x) := by
  induction n with
  | zero => exact fun h => .refl h
  | succ n ih => exact fun h => (grows_subStep zone air c h).trans (ih (grows_subStep zone air c h).within)

end Exposure

theorem within_of_bounded {x : Consignment} (h : x.Bounded) : x.exposure.Within := ⟨h.other, h.door, h.defrost, h.unit, h.shocks⟩

theorem bounded_of_within {x : Consignment} (h : x.exposure.Within) : x.Bounded := ⟨h.other, h.door, h.defrost, h.unit, h.shocks⟩

theorem grows_stepOf (p : Publication) (x : Consignment) (z : Zone) (air : Option Int) (h : x.Bounded) :
    (s.stepOf p x z air).Bounded ∧ x.Since (s.stepOf p x z air) := by
  have g := Exposure.grows_subSteps (x := x.exposure) z air (s.doseClass x.comp) (equivalents p.parked) (within_of_bounded h)
  exact ⟨bounded_of_within g.within, rfl, rfl, rfl, rfl, g.other, g.door, g.defrost, g.unit, g.shocks,
    by unfold State.stepOf; rw [g.triggered, BitVec.and_self], g.saturated, id, id⟩

theorem and_foldl_or (cs : List (BitVec 5)) : ∀ a : BitVec 5, a &&& cs.foldl (fun acc c => acc ||| c) a = a := by
  induction cs with
  | nil => exact fun a => BitVec.and_self
  | cons c cs ih =>
    intro a
    have h := ih (a ||| c)
    have h2 : a &&& (a ||| c) = a := by ext i; simp; tauto
    rw [List.foldl_cons]
    calc _ = (a &&& (a ||| c)) &&& cs.foldl (fun acc c => acc ||| c) (a ||| c) := by rw [h2]
      _ = a := by rw [BitVec.and_assoc, h, h2]

theorem since_trigger (x : Consignment) (cs : List (BitVec 5)) : x.Since (x.trigger cs) :=
  ⟨rfl, rfl, rfl, rfl, le_rfl, le_rfl, le_rfl, le_rfl, le_rfl, and_foldl_or cs _, id, id, id⟩

namespace State

theorem keeps_engineSlot (p : Publication) (j : Fin 32) (hs : Keeps k s) : Keeps k (engineSlot p s j) := by
  unfold engineSlot
  split
  · rename_i x hx
    split
    · rename_i z air _
      refine hs.withCons rfl rfl rfl rfl rfl rfl (since_write fun hb y e => ⟨x, hx, ?_⟩)
      cases e
      have g := grows_stepOf (s := s) p x z air (hb j x hx)
      exact ⟨⟨g.1.other, g.1.door, g.1.defrost, g.1.unit, g.1.shocks⟩, g.2.trans (since_trigger _ _)⟩
    · exact hs
  · exact hs

theorem keeps_engineTake (hs : Keeps k s) : Keeps k s.engineTake := by
  unfold engineTake
  split
  · exact hs
  · exact Keeps.foldl _ (fun _ j h => keeps_engineSlot _ j h) _ _ (hs.agree rfl rfl rfl rfl rfl rfl)

theorem read_of_byId {id : BitVec 32} {j : Fin 32} {x : Consignment} (h : s.byId id = some (j, x)) :
    s.cons.read j = some x := by
  simp only [byId, Option.bind_eq_bind, Option.bind_eq_some_iff] at h
  obtain ⟨i, -, y, hy, e⟩ := h
  cases e
  exact hy

theorem keeps_unloadSlot (j : Fin 32) (x : Consignment) (hx : s.cons.read j = some x) (hs : Keeps k s) :
    Keeps k (s.unloadSlot j x) :=
  keeps_request _ (keeps_freezeOpen _ (keeps_putCons _ hx ⟨rfl, rfl, rfl, rfl, rfl, id, id⟩ hs))

/-! ## The settings bank -/

theorem keeps_ask (op : BankOp) (hs : Keeps k s) : Keeps k (s.ask op) := keeps_modBank _ hs

theorem keeps_testBlocks (hs : Keeps k s) : Keeps k s.testBlocks := by
  unfold testBlocks
  split
  · exact keeps_modBank _ hs
  · exact .ite (keeps_modBank _ hs) (keeps_ask _ hs)

theorem keeps_startOp (op : BankOp) (hs : Keeps k s) : Keeps k (s.startOp op) := keeps_modBank _ hs

theorem keeps_endOp (hs : Keeps k s) : Keeps k s.endOp := keeps_modBank _ hs

theorem keeps_startRewrite (hs : Keeps k s) : Keeps k s.startRewrite := keeps_modBank _ (keeps_startOp _ hs)

theorem keeps_endRewrite (ok : Bool) (hs : Keeps k s) : Keeps k (s.endRewrite ok) :=
  .ite (keeps_modBank _ (keeps_endOp hs)) (.ite (keeps_raise _ (keeps_endOp hs)) (keeps_modBank _ hs))

theorem keeps_startCommit (hs : Keeps k s) : Keeps k s.startCommit := keeps_modBank _ (keeps_startOp _ hs)

theorem keeps_answerCommit (c : Commit) (ok : Bool) (hs : Keeps k s) : Keeps k (s.answerCommit c ok) := by
  unfold answerCommit
  split
  · exact keeps_landed _ (keeps_reply _ _ _ _ hs)
  · exact hs

theorem keeps_endCommit (c : Commit) (ok : Bool) (hs : Keeps k s) : Keeps k (s.endCommit c ok) := by
  unfold endCommit
  have h1 := fun f => Keeps.ite (p := ok = true) (keeps_modBank f (keeps_endOp hs)) (keeps_endOp hs)
  exact keeps_answerCommit _ _ ((h1 _).agree rfl rfl rfl rfl rfl rfl)

/-! ## The hand-over unit -/

theorem keeps_dropContext (j : Fin 32) (hs : Keeps k s) : Keeps k (s.dropContext j) :=
  hs.withContexts rfl rfl rfl (fun h => (List.length_filter_le ..).trans h) rfl rfl

theorem keeps_setContext (j : Fin 32) (st : ContextState) (hs : Keeps k s) : Keeps k (s.setContext j st) :=
  hs.withContexts rfl rfl rfl (fun h => by simpa [contextsBounded, setContext] using h) rfl rfl

theorem keeps_endContext (c : Context) (e : EndCause) (hs : Keeps k s) : Keeps k (s.endContext c e) :=
  keeps_request _ (keeps_dropContext _ (keeps_modCons _ _ hs))

theorem keeps_expire (c : Context) (hs : Keeps k s) : Keeps k (s.expire c) := keeps_raise _ (keeps_endContext _ _ hs)

theorem keeps_answerDecide (d : Decision) (st : Status) (bs : List Byte) (hs : Keeps k s) :
    Keeps k (s.answerDecide d st bs) :=
  keeps_landed _ (keeps_reply _ _ _ _ hs)

theorem keeps_failDecide (c : Context) (n : Nat) (d : Decision) (st : Status) (hs : Keeps k s) :
    Keeps k (s.failDecide c n d st) := by
  unfold failDecide
  have h2 := fun f w b => keeps_raiseIf b .store (keeps_answerDecide d st (u8 c.slot.val)
    (keeps_setContext c.slot w (keeps_modBank f hs)))
  exact .ite (keeps_expire _ (h2 _ _ _)) (h2 _ _ _)

theorem keeps_settleWrite (hs : Keeps k s) : Keeps k s.settleWrite := by
  unfold settleWrite
  split
  · split
    · exact .ite (keeps_failDecide _ _ _ _ hs) hs
    · exact hs
  · exact hs

theorem keeps_retest (hs : Keeps k s) : Keeps k s.retest := keeps_settleWrite (keeps_testBlocks hs)

theorem contexts_advance (h : HandOver) : h.advance.contexts = h.contexts := by
  unfold HandOver.advance
  split <;> rfl

theorem keeps_storeReceipt (r : Receipt) (hs : Keeps k s) : Keeps k (s.storeReceipt r) :=
  keeps_modHand (contexts_advance _) hs

theorem same_receipted (x : Consignment) (r : Receipt) : x.Same (s.receipted x r) := by
  unfold receipted
  split <;> exact ⟨rfl, rfl, rfl, rfl, rfl, id, id⟩

theorem keeps_completeReceipt (c : Context) (x : Consignment) (d : Decision) (hx : s.cons.read c.slot = some x)
    (hs : Keeps k s) : Keeps k (s.completeReceipt c x d) := by
  unfold completeReceipt
  exact keeps_retest (keeps_endOp (keeps_answerDecide _ _ _ (keeps_raise _ (keeps_raise _ (keeps_request _ (keeps_request _
    (keeps_dropContext _ (keeps_storeReceipt _ (keeps_presentClaim _ _ (keeps_putCons _ hx (same_receipted _ _) hs))))))))))

theorem keeps_writeCompletion (hs : Keeps k s) : Keeps k s.writeCompletion := by
  unfold writeCompletion
  refine .ite ?_ hs
  dsimp only
  split
  · split
    · exact keeps_completeReceipt _ _ _ ‹_› (keeps_drainRequests hs)
    · exact hs
  · exact hs

theorem keeps_programFailure (hs : Keeps k s) : Keeps k s.programFailure := by
  unfold programFailure
  split
  · split
    · have h2 := fun left => keeps_endOp (keeps_modHand
        (f := fun h => (h.putSlot h.block h.slot (.void left)).advance) (contexts_advance _) (keeps_takeLeaves hs))
      exact .ite (keeps_retest (keeps_failDecide _ _ _ _ (h2 _))) (keeps_retest (keeps_ask _ (keeps_setContext _ _ (h2 _))))
    · exact hs
  · exact hs

theorem keeps_startBlockErase (b : Fin 4) (hs : Keeps k s) : Keeps k (s.startBlockErase b) :=
  keeps_modHand rfl (keeps_startOp _ hs)

theorem keeps_blockErased (b : Fin 4) (hs : Keeps k s) : Keeps k (s.blockErased b) :=
  keeps_retest (keeps_modHand rfl (keeps_endOp hs))

theorem keeps_retireBlock (b : Fin 4) (hs : Keeps k s) : Keeps k (s.retireBlock b) := by
  unfold retireBlock
  refine keeps_retest (keeps_raise _ (keeps_requestRewrite (keeps_modHand ?_ (keeps_modHand rfl
    (keeps_endOp (hs.agree rfl rfl rfl rfl rfl rfl))))))
  split <;> rfl

theorem keeps_blockEraseFailed (b : Fin 4) (hs : Keeps k s) : Keeps k (s.blockEraseFailed b) :=
  .ite (keeps_retireBlock _ hs) (keeps_modHand rfl hs)

theorem keeps_takeDecision (h : Header) (j : Fin 32) (x : Consignment) (c : Context) (v : Verdict) (r : Nat)
    (m : Option (List Byte)) (hx : s.cons.read j = some x) (hs : Keeps k s) : Keeps k (s.takeDecision h j x c v r m) := by
  unfold takeDecision
  exact keeps_modPort (fun _ h => PortUnit.sound_agree h rfl rfl rfl rfl rfl rfl rfl)
    (keeps_ask _ (keeps_setContext _ _ (keeps_decideClaim _ _ _ _ (keeps_putCons _ hx ⟨rfl, rfl, rfl, rfl, rfl, id, id⟩ hs))))

end State

end Sys2Proof.Machine
end

