-- ==== Sys2Proof/Laws/KeepsEvents.lean ====
section
/-! SUPPORT. The ledger through the history writer, the mode and time controller, START and the framers. -/

-- Many short proofs: checked one after another, they need fewer threads.
set_option Elab.async false

namespace Sys2Proof.Machine

variable {k : Ledger} {s t : State}

namespace State

/-! ## The history writer -/

theorem keeps_fillSlot (x : Slot) (hs : Keeps k s) : Keeps k (s.fillSlot x) := by
  unfold fillSlot
  split
  · exact keeps_modHist rfl hs
  · exact hs

theorem keeps_loadWritten (r : Record) (hs : Keeps k s) : Keeps k (s.loadWritten r) := by
  unfold loadWritten
  split
  · exact keeps_modCons _ _ hs
  · exact hs

theorem keeps_settleProgram (p : Program) (hs : Keeps k s) : Keeps k (s.settleProgram p) := by
  unfold settleProgram
  split
  · exact keeps_modHist rfl hs
  · refine hs.withQueue rfl (fun h => ?_) rfl rfl rfl rfl
    have : s.hist.queue.length ≤ 8 := h
    simp only [queueBounded, modHist_hist, List.length_drop]
    omega
  · exact hs

theorem keeps_completeProgram (p : Program) (hs : Keeps k s) : Keeps k (s.completeProgram p) := by
  unfold completeProgram
  exact keeps_answerReads (keeps_judgeUpload (keeps_loadWritten _ (keeps_settleProgram _
    (keeps_modHist rfl (keeps_fillSlot _ hs)))))

theorem keeps_failProgram (p : Program) (hs : Keeps k s) : Keeps k (s.failProgram p) := by
  unfold failProgram
  have h1 := fun x f hf => keeps_modHist (f := f) hf (keeps_fillSlot x (keeps_takeLeaves hs))
  dsimp only
  split
  · exact keeps_modHist rfl (h1 _ _ rfl)
  · exact h1 _ _ rfl

theorem keeps_beginSector (i : Fin 16) (hs : Keeps k s) : Keeps k (s.beginSector i) := by
  unfold beginSector
  refine keeps_chooseNext (keeps_newSector _ _ (keeps_modHist rfl ?_))
  split
  · exact keeps_modHist rfl hs
  · exact hs

theorem keeps_eraseDone (hs : Keeps k s) : Keeps k s.eraseDone := by
  unfold eraseDone
  split
  · exact hs
  · exact keeps_modHist rfl hs

theorem keeps_eraseFailed (hs : Keeps k s) : Keeps k s.eraseFailed := by
  unfold eraseFailed
  split
  · exact hs
  · exact .ite (keeps_chooseNext (keeps_retireSector _ _ (keeps_modHist rfl hs))) (keeps_modHist rfl hs)

theorem keeps_sampleComp (p : Publication) (c : Fin 4) (hs : Keeps k s) : Keeps k (sampleComp p c s) := by
  unfold sampleComp
  split
  · exact keeps_modHist rfl (keeps_createSample _ hs)
  · exact hs

theorem keeps_storeTake (hs : Keeps k s) : Keeps k s.storeTake := by
  unfold storeTake
  split
  · exact hs
  · have h1 : ∀ t : State, t.pending = s.pending → t.hist.queue = s.hist.queue → t.ports = s.ports → t.hand = s.hand →
        t.fe = s.fe → t.ctl = s.ctl → t.cons = s.cons → Keeps k t := fun t a b c d e f g =>
      hs.agree a b c (by rw [d]) (by rw [e]) (by rw [f]) g
    refine .ite (keeps_modHist rfl (Keeps.forComps (fun _ _ h => keeps_sampleComp _ _ h) ?_)) ?_
    all_goals exact h1 _ rfl rfl rfl rfl rfl rfl rfl

theorem keeps_clearHistory (hs : Keeps k s) : Keeps k s.clearHistory := by
  unfold clearHistory
  exact keeps_judgeUpload (keeps_request _ (keeps_chooseNext (keeps_modHist rfl hs)))

/-! ## The mode and time controller -/

theorem keeps_parkTest (hs : Keeps k s) : Keeps k s.parkTest := by
  unfold parkTest
  refine .ite (keeps_enterMode _ _ ?_) ?_
  all_goals exact hs.agree rfl rfl rfl rfl rfl rfl

theorem keeps_quietTest (hs : Keeps k s) : Keeps k s.quietTest := by
  unfold quietTest
  refine .ite (keeps_enterMode _ _ ?_) ?_
  all_goals exact hs.agree rfl rfl rfl rfl rfl rfl

theorem keeps_controlJudge (p : Publication) (hs : Keeps k s) : Keeps k (s.controlJudge p) :=
  .ite (.ite (keeps_parkTest hs) hs) (.ite (keeps_quietTest hs) hs)

theorem keeps_controlTake (hs : Keeps k s) : Keeps k s.controlTake := by
  unfold controlTake
  split
  · exact hs
  · exact keeps_controlJudge _ (hs.agree rfl rfl rfl rfl rfl rfl)

theorem keeps_warmUp (hs : Keeps k s) : Keeps k s.warmUp := by
  unfold warmUp
  split
  · exact .ite (hs.agree rfl rfl rfl rfl rfl rfl) hs
  · exact hs

theorem keeps_completeWaking (a b : BitVec 16) (hs : Keeps k s) : Keeps k (s.completeWaking a b) := by
  unfold completeWaking
  exact .ite (keeps_beginRound (keeps_enterMode _ _ (keeps_startEstimates (keeps_completeCheck _ _ hs)))) hs

theorem keeps_advance (hs : Keeps k s) : Keeps k s.advance := by
  have h1 : ∀ t : State, t.pending = s.pending → t.hist = s.hist → t.ports = s.ports →
      t.hand.contexts.length = s.hand.contexts.length → t.fe = s.fe → t.ctl.working = s.ctl.working →
      t.cons = s.cons → Keeps k t :=
    fun t a b c d e f g =>
      hs.withContexts a (by rw [b]) c (fun h => by unfold contextsBounded; rw [d]; exact h) (by rw [e]) f g
  unfold advance
  refine .ite hs (.ite (h1 _ ?_ ?_ ?_ ?_ ?_ ?_ ?_) (.ite (h1 _ ?_ ?_ ?_ ?_ ?_ ?_ ?_) (h1 _ ?_ ?_ ?_ ?_ ?_ ?_ ?_)))
  all_goals first | rfl | (split <;> rfl) | (split <;> simp)

theorem sound_restartPort (p : Port) {u : PortUnit} : (restartPort p u).Sound :=
  ⟨rfl, Nat.zero_le _, Nat.zero_le _, Nat.zero_le _, Nat.zero_le _⟩

theorem keeps_restart (hs : Keeps k s) : Keeps k s.restart := by
  unfold restart
  refine keeps_request _ (hs.withPorts rfl rfl (fun _ p => ?_) rfl rfl rfl)
  cases p <;> exact sound_restartPort _

theorem keeps_defaulted (hk : ¬ k.working) (hs : Keeps k s) : Keeps k s.defaulted :=
  hs.withSettings hk rfl rfl rfl rfl rfl

theorem keeps_factoryClear (hk : ¬ k.working) (hs : Keeps k s) : Keeps k s.factoryClear := by
  have h1 : Keeps k ((List.finRange 8).foldl (fun t l => t.editLine l (defaultLines.read l)) s) :=
    Keeps.foldl (fun t l => t.editLine l (defaultLines.read l)) (fun _ l h => keeps_editLine l _ hk h) _ _ hs
  exact keeps_clearHistory (keeps_applyComps _ (keeps_defaulted hk h1))

/-! ## Loss of power and START -/

theorem keeps_cutBank (hs : Keeps k s) : Keeps k s.cutBank := by
  unfold cutBank
  refine keeps_modBank _ ?_
  split
  · exact keeps_modHand rfl (keeps_takeLeaves hs)
  · exact keeps_modHand rfl (hs.agree rfl rfl rfl rfl rfl rfl)
  · exact hs

theorem keeps_cutHistory (hs : Keeps k s) : Keeps k s.cutHistory := by
  unfold cutHistory
  have h1 : Keeps k (match s.hist.program with
      | some p => s.takeLeaves.2.fillSlot (.void (leavesOf s.takeLeaves.1 (s.programRecord p)))
      | none => s) := by
    split
    · exact keeps_fillSlot _ (keeps_takeLeaves hs)
    · exact hs
  have h2 : ∀ t : State, Keeps k t → Keeps k (match t.hist.eraseQueue.head? with
      | some i => t.modHist fun h => h.modSector i fun x => { x with touched := true }
      | none => t) := by
    intro t ht
    split
    · exact keeps_modHist rfl ht
    · exact ht
  exact (h2 _ h1).withQueue rfl (fun _ => Nat.zero_le _) rfl rfl rfl rfl

theorem keeps_clearLoadMarks (hs : Keeps k s) : Keeps k s.clearLoadMarks :=
  keeps_mapCons (fun _ => ⟨rfl, rfl, rfl, rfl, rfl, id, id⟩) hs

theorem sound_defaultPorts (p : Port) : ((defaultEnables.map resetPort).at p).Sound := by
  rw [PerPort.at_map]
  exact PortUnit.sound_resetPort _

theorem keeps_loseAll (n : Nat) (hs : Keeps k s) : Keeps k (s.loseAll n) := by
  unfold loseAll
  exact (keeps_interruptEpisodes n (keeps_clearLoadMarks (keeps_cutHistory (keeps_cutBank hs)))).withPorts rfl rfl
    (fun _ p => sound_defaultPorts p) rfl rfl rfl

theorem keeps_powerFails (hs : Keeps k s) : Keeps k s.powerFails := by
  unfold powerFails
  exact .ite hs ((keeps_loseAll _ hs).agree rfl rfl rfl rfl rfl rfl)

theorem keeps_resetAsserted (hs : Keeps k s) : Keeps k s.resetAsserted := by
  unfold resetAsserted
  exact .ite hs (.ite (hs.agree rfl rfl rfl rfl rfl rfl) ((keeps_loseAll _ hs).agree rfl rfl rfl rfl rfl rfl))

theorem keeps_startBegins (v : Bool) (hs : Keeps k s) : Keeps k (s.startBegins v) :=
  hs.withPorts rfl rfl (fun _ p => sound_defaultPorts p) rfl rfl rfl

theorem keeps_loadCounters (v : Bool) (hs : Keeps k s) : Keeps k (s.loadCounters v) := by
  unfold loadCounters
  refine .ite (keeps_requestRewrite ?_) ?_
  all_goals exact hs.agree rfl rfl rfl rfl rfl rfl

theorem keeps_loadSettings (hk : ¬ k.working) (hs : Keeps k s) : Keeps k s.loadSettings := by
  unfold loadSettings
  exact keeps_raiseIf _ _
    { commands := hs.commands
      queue := hs.queue
      ports := hs.ports
      contexts := hs.contexts
      reference := fun _ => ⟨Nat.zero_le _, fun _ => rfl, fun e => Bool.noConfusion e⟩
      working := fun h => absurd h hk
      doses := hs.doses }

theorem keeps_scanHistory (v : Bool) (r : BitVec 16) (hs : Keeps k s) : Keeps k (s.scanHistory v r) := by
  unfold scanHistory
  dsimp only
  refine keeps_judgeUpload ?_
  exact hs.withQueue rfl (fun _ => Nat.zero_le _) rfl rfl rfl rfl

theorem contexts_skipVoid (n : Nat) : ∀ h : HandOver, (HandOver.skipVoid n h).contexts = h.contexts := by
  induction n with
  | zero => exact fun _ => rfl
  | succ n ih =>
    intro h
    unfold HandOver.skipVoid
    split
    · rw [ih, contexts_advance]
    · rfl

theorem contexts_findPosition (h : HandOver) : h.findPosition.contexts = h.contexts := by
  unfold HandOver.findPosition
  split
  · rw [contexts_skipVoid, contexts_advance]
  · rfl

theorem contexts_scan (h : HandOver) (v : Bool) : (h.scan v).contexts = h.contexts := by
  unfold HandOver.scan
  exact contexts_findPosition _

theorem keeps_clearTables (hs : Keeps k s) : Keeps k s.clearTables :=
  { commands := hs.commands
    queue := hs.queue
    ports := hs.ports
    contexts := fun _ => Nat.zero_le _
    reference := fun _ => ⟨Nat.zero_le _, fun _ => rfl, fun e => Bool.noConfusion e⟩
    working := hs.working
    doses := fun _ => by
      constructor
      · intro j x hx
        simp [clearTables] at hx
      · intro j x _
        exact .inl (by simp [clearTables]) }

theorem keeps_loseControl (hs : Keeps k s) : Keeps k s.loseControl := hs.agree rfl rfl rfl rfl rfl rfl

theorem keeps_sampleDoor (l : Fin 8) (hs : Keeps k s) : Keeps k (s.sampleDoor l) := by
  unfold sampleDoor
  split
  · exact keeps_openEpisode _ _ _ hs
  · exact hs

theorem keeps_sampleLines (hs : Keeps k s) : Keeps k s.sampleLines := by
  unfold sampleLines
  exact Keeps.foldl _ (fun _ l h => keeps_sampleDoor l h) _ _ (hs.agree rfl rfl rfl rfl rfl rfl)

theorem keeps_startSteps (v : Bool) (f : StartInputs) (hk : ¬ k.working) (hs : Keeps k s) : Keeps k (s.startSteps v f) := by
  unfold startSteps
  have h1 := keeps_clearLoadMarks (keeps_loadSettings hk (keeps_loadCounters v hs))
  have h2 := Keeps.ite (p := v = true) h1 (keeps_clearTables h1)
  have h3 := fun r => keeps_modHand (f := fun h => h.scan v) (contexts_scan _ v) (keeps_scanHistory v r h2)
  exact keeps_sampleLines (keeps_completeCheck _ _ (.ite (h3 _) (keeps_loseControl (keeps_rebuildOrphans _ (h3 _)))))

theorem keeps_runStart (f : StartInputs) (hk : ¬ k.working) (hs : Keeps k s) : Keeps k (s.runStart f) := by
  unfold runStart
  exact keeps_startSteps (s.domainHolds f) f hk (keeps_startBegins (s.domainHolds f) hs)

theorem keeps_readyBegin (hs : Keeps k s) :
    Keeps k (match s.readyNext with
      | some i => if s.hist.hasFreeSlot then s else s.beginSector i
      | none => s) := by
  split
  · exact .ite hs (keeps_beginSector _ hs)
  · exact hs

theorem keeps_finishHistory (hs : Keeps k s) : Keeps k s.finishHistory := by
  unfold finishHistory
  exact keeps_modHist rfl (keeps_readyBegin (keeps_chooseNext hs))

theorem keeps_cancelContexts (hs : Keeps k s) : Keeps k s.cancelContexts :=
  Keeps.foldl _ (fun _ c h => keeps_endContext c _ h) _ _ hs

theorem keeps_startMarks (hs : Keeps k s) : Keeps k s.startMarks := by
  unfold startMarks
  dsimp only
  split
  · exact keeps_request _ (keeps_request _ hs)
  · exact keeps_request _ hs
  · exact keeps_request _ hs

theorem keeps_markOutage (hs : Keeps k s) : Keeps k s.markOutage :=
  .ite (keeps_mapCons (fun _ => ⟨rfl, rfl, rfl, rfl, rfl, fun e => by simp [e], id⟩) hs) hs

theorem keeps_enterRestored (hs : Keeps k s) : Keeps k s.enterRestored := by
  unfold enterRestored
  have h2 : ∀ t : State, Keeps k t → Keeps k (t.enterMode t.restoredMode .start) := fun _ h => keeps_enterMode _ _ h
  refine .ite (h2 _ ?_) (keeps_rouse _ (h2 _ ?_))
  all_goals exact hs.agree rfl rfl rfl rfl rfl rfl

theorem keeps_answerStartFrames (hs : Keeps k s) : Keeps k s.answerStartFrames := by
  refine hs.withPorts rfl rfl (fun h p => ?_) rfl rfl rfl
  have := h p
  cases p <;> exact ⟨this.attention, this.timeouts, this.breaks, this.strays, this.errors⟩

theorem keeps_finishStart (hs : Keeps k s) : Keeps k s.finishStart := by
  unfold finishStart
  exact keeps_beginRound (keeps_raiseIf _ _ (keeps_raiseIf _ _ (keeps_raiseIf _ _ (keeps_enterRestored (keeps_markOutage
    (keeps_startMarks (keeps_cancelContexts (keeps_testBlocks (keeps_finishHistory (keeps_answerStartFrames hs))))))))))

end State

/-! ## Framers -/

namespace PortUnit

variable {u : PortUnit}

theorem sound_frameError (h : u.Sound) : u.frameError.Sound :=
  ⟨h.attention, h.timeouts, h.breaks, h.strays, bump_le _⟩

theorem sound_startChar (v : Nat) (h : u.Sound) : (u.startChar v).Sound := by
  have h1 : (if u.framer.state = .receiving then { u with breaks := bump u.breaks } else u).Sound := by
    split
    · exact ⟨h.attention, h.timeouts, bump_le _, h.strays, h.errors⟩
    · exact h
  unfold startChar
  dsimp only
  split
  · exact sound_agree h1 rfl rfl rfl rfl rfl rfl rfl
  · exact sound_agree (sound_frameError h1) rfl rfl rfl rfl rfl rfl rfl

theorem sound_complete (n : Nat) (cs : List Byte) (h : u.Sound) : (u.complete n cs).Sound := by
  unfold complete
  dsimp only
  split
  · exact sound_agree h rfl rfl rfl rfl rfl rfl rfl
  · exact sound_frameError (sound_agree h rfl rfl rfl rfl rfl rfl rfl)

theorem sound_bodyChar (b : Byte) (h : u.Sound) : (u.bodyChar b).Sound := by
  unfold bodyChar
  split
  · exact ⟨h.attention, h.timeouts, h.breaks, bump_le _, h.errors⟩
  · exact h
  · dsimp only
    split
    · exact sound_complete _ _ h
    · exact sound_agree h rfl rfl rfl rfl rfl rfl rfl

theorem sound_character (n : Bool) (b : Byte) (h : u.Sound) : (u.character n b).Sound := by
  unfold character
  split
  · exact sound_startChar _ h
  · exact sound_bodyChar _ h

theorem sound_silence (h : u.Sound) : u.silence.Sound := by
  unfold silence
  split
  · exact ⟨h.attention, bump_le _, h.breaks, h.strays, h.errors⟩
  · exact h

theorem sound_sendFirst (h : u.Sound) : u.sendFirst.Sound := by
  unfold sendFirst
  split
  · exact h
  · exact sound_agree h rfl rfl rfl rfl rfl rfl rfl

theorem sound_enableKinds (m : BitVec 12) (f : BitVec 8) (h : u.Sound) : (u.enableKinds m f).Sound :=
  ⟨rfl, h.timeouts, h.breaks, h.strays, h.errors⟩

theorem sound_disableKinds (m : BitVec 12) (h : u.Sound) : (u.disableKinds m).Sound :=
  ⟨rfl, h.timeouts, h.breaks, h.strays, h.errors⟩

theorem sound_ackKinds (m : BitVec 12) (h : u.Sound) : (u.ackKinds m).Sound :=
  ⟨rfl, h.timeouts, h.breaks, h.strays, h.errors⟩

end PortUnit

end Sys2Proof.Machine
end

