-- ==== Sys2Proof/Laws/KeepsCommands.lean ====
section
/-! SUPPORT. The ledger through the serial commands and a received frame. A command that edits the working settings keeps the
clause about them because it is taken in SETUP alone. -/

-- Many short proofs: checked one after another, they need fewer threads.
set_option Elab.async false

namespace Sys2Proof.Machine

variable {k : Ledger} {s t : State} {h : Header}

/-! ## Commands that edit the settings -/

section edits

variable (he : k.working → s.ctl.mode ≠ .setup)
include he

theorem keeps_cmdSetProbe {p : Byte} {o g : BitVec 16} (hs : Keeps k s) : Keeps k (cmdSetProbe h p o g s) := by
  unfold cmdSetProbe
  refine State.keeps_take (State.keeps_edit (fun hm => ?_) hs) hs
  split
  · exact State.keeps_respond _ _ _ hs
  · exact State.keeps_respond _ _ _ (hs.withSettings (fun hw => he hw hm) rfl rfl rfl rfl rfl)

theorem keeps_cmdSetLine {l kd lv : Byte} {d : BitVec 16} {c : Option Byte} (hs : Keeps k s) :
    Keeps k (cmdSetLine h l kd lv d c s) := by
  unfold cmdSetLine
  refine State.keeps_take (State.keeps_edit (fun hm => ?_) hs) hs
  split
  · exact .ite (State.keeps_respond _ _ _ hs)
      (State.keeps_respond _ _ _ (State.keeps_editLine _ _ (fun hw => he hw hm) hs))
  · exact State.keeps_respond _ _ _ hs

theorem keeps_cmdSetCompartment {c u : Byte} {z p q : Option Byte} (hs : Keeps k s) :
    Keeps k (cmdSetCompartment h c u z p q s) := by
  unfold cmdSetCompartment
  refine State.keeps_take (State.keeps_edit (fun hm => ?_) hs) hs
  split
  · refine .ite (State.keeps_respond _ _ _ hs) (State.keeps_respond _ _ _ (State.keeps_applyComps _ ?_))
    exact hs.withSettings (fun hw => he hw hm) rfl rfl rfl rfl rfl
  · exact State.keeps_respond _ _ _ hs

theorem keeps_cmdSetZone {z : Byte} {fs : List (Byte × BitVec 32)} (hs : Keeps k s) : Keeps k (cmdSetZone h z fs s) := by
  unfold cmdSetZone
  refine State.keeps_take (State.keeps_edit (fun hm => ?_) hs) hs
  split
  · refine .ite (State.keeps_respond _ _ _ hs) (State.keeps_respond _ _ _ ?_)
    refine Keeps.forComps (fun _ _ h => State.keeps_decideConflict _ _ h) ?_
    exact hs.withSettings (fun hw => he hw hm) rfl rfl rfl rfl rfl
  · exact State.keeps_respond _ _ _ hs

theorem keeps_cmdSetMarks {u l : BitVec 32} (hs : Keeps k s) : Keeps k (cmdSetMarks h u l s) := by
  unfold cmdSetMarks
  refine State.keeps_take (State.keeps_edit (fun hm => ?_) hs) hs
  exact State.keeps_respond _ _ _ (State.keeps_judgeUpload (hs.withSettings (fun hw => he hw hm) rfl rfl rfl rfl rfl))

theorem keeps_cmdSetInterval {n : Byte} (hs : Keeps k s) : Keeps k (cmdSetInterval h n s) := by
  unfold cmdSetInterval
  refine State.keeps_take (State.keeps_edit (fun hm => ?_) hs) hs
  exact State.keeps_respond _ _ _ (hs.withSettings (fun hw => he hw hm) rfl rfl rfl rfl rfl)

theorem keeps_cmdSetRights {a b c d : Byte} (hs : Keeps k s) : Keeps k (cmdSetRights h a b c d s) := by
  unfold cmdSetRights
  refine State.keeps_take (State.keeps_edit (fun hm => ?_) hs) hs
  split
  · exact State.keeps_respond _ _ _ (hs.withSettings (fun hw => he hw hm) rfl rfl rfl rfl rfl)
  · exact State.keeps_respond _ _ _ hs

theorem keeps_cmdFactoryClear (hs : Keeps k s) : Keeps k (cmdFactoryClear h s) := by
  unfold cmdFactoryClear
  refine State.keeps_take ?_ hs
  dsimp only
  split
  · exact State.keeps_respond _ _ _ hs
  · rename_i hm
    refine .ite (State.keeps_respond _ _ _ hs) (.ite (State.keeps_respond _ _ _ hs) (State.keeps_respond _ _ _ ?_))
    exact State.keeps_factoryClear (fun hw => he hw (Decidable.not_not.mp hm)) hs

end edits

/-! ## Commands of the front end, the line unit and the monitor -/

theorem keeps_cmdReadProbes (hs : Keeps k s) : Keeps k (cmdReadProbes h s) :=
  State.keeps_take (State.keeps_respond _ _ _ hs) hs

theorem keeps_cmdReadDoors (hs : Keeps k s) : Keeps k (cmdReadDoors h s) :=
  State.keeps_take ((State.keeps_respond _ _ _ hs).agree rfl rfl rfl rfl rfl rfl) hs

theorem keeps_cmdReadDoorLog {f : BitVec 32} {c : Byte} (hs : Keeps k s) : Keeps k (cmdReadDoorLog h f c s) :=
  State.keeps_take (State.keeps_respond _ _ _ hs) hs

theorem keeps_cmdReportDefrost {c r : Byte} (hs : Keeps k s) : Keeps k (cmdReportDefrost h c r s) := by
  unfold cmdReportDefrost
  refine State.keeps_take ?_ hs
  split
  · exact State.keeps_respond _ _ _ (State.keeps_defrostChanged _ _ (State.keeps_modComp _ _ hs))
  · exact State.keeps_respond _ _ _ hs

theorem keeps_cmdReportUnit {c r : Byte} (hs : Keeps k s) : Keeps k (cmdReportUnit h c r s) := by
  unfold cmdReportUnit
  refine State.keeps_take ?_ hs
  split
  · exact State.keeps_respond _ _ _ (State.keeps_unitChanged _ (State.keeps_modComp _ _ hs))
  · exact State.keeps_respond _ _ _ hs

theorem keeps_cmdReportSetpoint {c : Byte} {v : BitVec 16} (hs : Keeps k s) : Keeps k (cmdReportSetpoint h c v s) := by
  unfold cmdReportSetpoint
  refine State.keeps_take ?_ hs
  split
  · exact State.keeps_respond _ _ _ (State.keeps_decideConflict _ _ (State.keeps_modComp _ _ hs))
  · exact State.keeps_respond _ _ _ hs

theorem keeps_cmdReadAir (hs : Keeps k s) : Keeps k (cmdReadAir h s) :=
  State.keeps_take (State.keeps_respond _ _ _ hs) hs

/-! ## Commands of the manifest and the claims unit -/

/-- A free slot is filled with a consignment just listed. -/
theorem keeps_fillSlot {j : Fin 32} {i : BitVec 32} {c : Fin 4} {p : Nat} {d n r : Option Nat} {e : Option Int}
    (hj : s.freeSlot = some j) (hc : k.doses → k.table = s.cons) (hs : Keeps k s) :
    Keeps k (s.putCons j (some (freshConsignment i c p d n r e))) := by
  have hfree : s.cons.read j = none := by simpa using List.find?_some hj
  refine { hs with doses := fun hk => ⟨fun i x hx => ?_, fun i x hx => ?_⟩ }
  · rw [State.putCons_cons, Table.read_write] at hx
    split at hx
    · cases hx
      exact ⟨Nat.zero_le _, Nat.zero_le _, Nat.zero_le _, Nat.zero_le _, Nat.zero_le _⟩
    · exact (hs.doses hk).1 i x hx
  · rw [hc hk] at hx
    rw [State.putCons_cons, Table.read_write]
    split
    · rename_i e
      rw [e, hfree] at hx
      cases hx
    · exact .inr ⟨x, hx, .refl x⟩

theorem keeps_cmdList {i : BitVec 32} {c p : Byte} {d : Option (BitVec 32)} {n : Option Byte} {r : Option (BitVec 32)}
    {e : Option (BitVec 16)} (hc : k.doses → k.table = s.cons) (hs : Keeps k s) : Keeps k (cmdList h i c p d n r e s) := by
  have hr := fun st d => State.keeps_respond h st d hs
  unfold cmdList
  refine State.keeps_take (.ite (hr _ _) ?_) hs
  split
  · exact hr _ _
  · refine .ite (hr _ _) (.ite (hr _ _) ?_)
    split
    · exact hr _ _
    · rename_i hj
      exact .ite (hr _ _) (State.keeps_respond _ _ _ (keeps_fillSlot hj hc hs))

theorem loaded_since {x : Consignment} {e : Option Int} (hx : x.Bounded) : (s.loaded x e).Bounded ∧ x.Since (s.loaded x e) := by
  obtain ⟨a, b, c, d, f⟩ := hx
  have hc : x.conflictSeen = true → (s.loaded x e).conflictSeen = true := fun h => by
    simp [State.loaded, State.seeConflict, h]
  cases e <;> exact ⟨⟨a, b, c, d, f⟩, rfl, rfl, rfl, rfl, le_rfl, le_rfl, le_rfl, le_rfl, le_rfl, BitVec.and_self, id, id, hc⟩

theorem keeps_cmdLoad {i : BitVec 32} {e : Option (BitVec 16)} (hs : Keeps k s) : Keeps k (cmdLoad h i e s) := by
  have hr := fun st d => State.keeps_respond h st d hs
  unfold cmdLoad
  refine State.keeps_take (.ite (hr _ _) ?_) hs
  split
  · exact hr _ _
  · rename_i hx
    refine .ite (hr _ _) (.ite (hr _ _)
      (State.keeps_respond _ _ _ (State.keeps_wakeFrom _ (State.keeps_request _ ?_))))
    refine hs.withCons rfl rfl rfl rfl rfl rfl (since_write fun hb y e => ?_)
    cases e
    have hx' := State.read_of_byId hx
    exact ⟨_, hx', loaded_since (hb _ _ hx')⟩

theorem same_moved (x : Consignment) (c : Fin 4) : x.Same (s.moved x c) :=
  ⟨rfl, rfl, rfl, rfl, rfl, id, fun h => by simp [State.moved, State.seeConflict, State.closeOff, h]⟩

theorem keeps_cmdMove {i : BitVec 32} {c : Byte} (hs : Keeps k s) : Keeps k (cmdMove h i c s) := by
  have hr := fun st d => State.keeps_respond h st d hs
  unfold cmdMove
  refine State.keeps_take (.ite (hr _ _) ?_) hs
  split
  · exact hr _ _
  · exact hr _ _
  · rename_i hx
    split
    · exact hr _ _
    · exact .ite (hr _ _) (State.keeps_respond _ _ _ (State.keeps_request _ (State.keeps_putCons _ (State.read_of_byId hx) (same_moved _ _) hs)))

theorem keeps_cmdUnload {i : BitVec 32} (hs : Keeps k s) : Keeps k (cmdUnload h i s) := by
  unfold cmdUnload
  refine State.keeps_take ?_ hs
  split
  · exact State.keeps_respond _ _ _ hs
  · split
    · exact State.keeps_respond _ _ _ hs
    · dsimp only
      split
      · exact State.keeps_drainRequests hs
      · rename_i hx
        exact State.keeps_respond _ _ _ (State.keeps_unloadSlot _ _ (State.read_of_byId hx) (State.keeps_drainRequests hs))

theorem keeps_cmdDrop {i : BitVec 32} (hs : Keeps k s) : Keeps k (cmdDrop h i s) := by
  have hr := fun st d => State.keeps_respond h st d hs
  unfold cmdDrop
  refine State.keeps_take ?_ hs
  split
  · exact hr _ _
  · exact .ite (hr _ _) (.ite (hr _ _) (.ite (hr _ _) (State.keeps_respond _ _ _ (State.keeps_freeCons _ hs))))

theorem keeps_cmdReadConsignment {w : ConsignmentName} (hs : Keeps k s) : Keeps k (cmdReadConsignment h w s) := by
  unfold cmdReadConsignment
  refine State.keeps_take ?_ hs
  split
  · split <;> exact State.keeps_respond _ _ _ hs
  · split
    · exact State.keeps_respond _ _ _ hs
    · split <;> exact State.keeps_respond _ _ _ hs

theorem keeps_cmdSettleClaim {n : BitVec 32} (hs : Keeps k s) : Keeps k (cmdSettleClaim h n s) := by
  have hr := fun st d => State.keeps_respond h st d hs
  unfold cmdSettleClaim
  refine State.keeps_take ?_ hs
  split
  · exact hr _ _
  · exact .ite (hr _ _) (.ite (hr _ _) (State.keeps_respond _ _ _ (State.keeps_removeClaim _ _ _ hs)))

theorem keeps_cmdWithdrawClaim {n : BitVec 32} (hs : Keeps k s) : Keeps k (cmdWithdrawClaim h n s) := by
  have hr := fun st d => State.keeps_respond h st d hs
  unfold cmdWithdrawClaim
  refine State.keeps_take ?_ hs
  split
  · exact hr _ _
  · exact .ite (hr _ _) (.ite (hr _ _) (State.keeps_respond _ _ _ (State.keeps_removeClaim _ _ _ hs)))

theorem keeps_cmdReadClaim {w : ClaimName} (hs : Keeps k s) : Keeps k (cmdReadClaim h w s) := by
  unfold cmdReadClaim
  refine State.keeps_take ?_ hs
  split
  · split <;> exact State.keeps_respond _ _ _ hs
  · split
    · exact State.keeps_respond _ _ _ hs
    · split <;> exact State.keeps_respond _ _ _ hs

/-! ## Commands of the hand-over unit -/

theorem keeps_pushContext (x : Context) (hlt : s.hand.contexts.length < 4) (hs : Keeps k s) :
    Keeps k (s.modHand fun u => { u with contexts := u.contexts ++ [x] }) :=
  hs.withContexts rfl rfl rfl
    (fun _ => by simpa [State.contextsBounded] using hlt) rfl rfl

theorem keeps_cmdBeginHandover {i : BitVec 32} (hs : Keeps k s) : Keeps k (cmdBeginHandover h i s) := by
  have hr := fun st d => State.keeps_respond h st d hs
  unfold cmdBeginHandover
  refine State.keeps_take (.ite (hr _ _) ?_) hs
  split
  · exact hr _ _
  · rename_i hx
    refine .ite (hr _ _) ?_
    split
    · exact hr _ _
    · rename_i hlt
      exact State.keeps_respond _ _ _ (State.keeps_raise _ (State.keeps_request _
        (keeps_pushContext _ (Nat.lt_of_not_le hlt) (State.keeps_putCons _ (State.read_of_byId hx) ⟨rfl, rfl, rfl, rfl, rfl, id, id⟩ hs))))

theorem keeps_cmdCancelHandover {i : BitVec 32} (hs : Keeps k s) : Keeps k (cmdCancelHandover h i s) := by
  have hr := fun st d => State.keeps_respond h st d hs
  unfold cmdCancelHandover
  refine State.keeps_take ?_ hs
  split
  · exact hr _ _
  · split
    · exact hr _ _
    · exact .ite (hr _ _) (.ite (hr _ _) (State.keeps_respond _ _ _ (State.keeps_raise _ (State.keeps_endContext _ _ hs))))

theorem keeps_cmdGetSummary {i : BitVec 32} (hs : Keeps k s) : Keeps k (cmdGetSummary h i s) := by
  unfold cmdGetSummary
  refine State.keeps_take ?_ hs
  split <;> exact State.keeps_respond _ _ _ hs

theorem keeps_cmdDecide {i : BitVec 32} {o r : Byte} {m : Option (List Byte)} (hs : Keeps k s) :
    Keeps k (cmdDecide h i o r m s) := by
  have hr := fun st d => State.keeps_respond h st d hs
  unfold cmdDecide
  refine State.keeps_take ?_ hs
  split
  · exact hr _ _
  · split
    · exact hr _ _
    · rename_i hx
      split
      · exact hr _ _
      · exact .ite (hr _ _) (.ite (hr _ _) (State.keeps_takeDecision _ _ _ _ _ _ _ (State.read_of_byId hx) hs))

theorem keeps_cmdReadReceipt {n : BitVec 32} (hs : Keeps k s) : Keeps k (cmdReadReceipt h n s) := by
  unfold cmdReadReceipt
  refine State.keeps_take ?_ hs
  split <;> exact State.keeps_respond _ _ _ hs

theorem keeps_cmdAckReceipt {n : BitVec 32} (hs : Keeps k s) : Keeps k (cmdAckReceipt h n s) :=
  State.keeps_take (State.keeps_respond _ _ _ (State.keeps_retest (State.keeps_modHand rfl hs))) hs

/-! ## Commands of the history store and the bank -/

theorem sound_inFlight {u : PortUnit} (x : Option InFlight) (hu : u.Sound) : PortUnit.Sound { u with inFlight := x } :=
  PortUnit.sound_agree hu rfl rfl rfl rfl rfl rfl rfl

theorem keeps_cmdReadHistory {f : BitVec 32} {c : Byte} (hs : Keeps k s) : Keeps k (cmdReadHistory h f c s) := by
  unfold cmdReadHistory
  refine State.keeps_take (.ite ?_ (State.keeps_respond _ _ _ hs)) hs
  exact State.keeps_modPort (fun _ => sound_inFlight _) (hs.agree rfl rfl rfl rfl rfl rfl)

theorem keeps_cmdAckHistory {n : BitVec 32} (hs : Keeps k s) : Keeps k (cmdAckHistory h n s) :=
  State.keeps_take (State.keeps_respond _ _ _ (State.keeps_judgeUpload (State.keeps_modHist rfl hs))) hs

theorem keeps_cmdCommitSetup (hs : Keeps k s) : Keeps k (cmdCommitSetup h s) := by
  have hr := fun st d => State.keeps_respond h st d hs
  unfold cmdCommitSetup
  refine State.keeps_take (.ite (hr _ _) (.ite (hr _ _) (.ite (hr _ _) ?_))) hs
  exact State.keeps_modPort (fun _ => sound_inFlight _) (State.keeps_ask _ (hs.agree rfl rfl rfl rfl rfl rfl))

/-! ## Commands of the mode and time controller -/

theorem keeps_cmdEnterService (hs : Keeps k s) : Keeps k (cmdEnterService h s) := by
  have hr := fun st d => State.keeps_respond h st d hs
  unfold cmdEnterService
  refine State.keeps_take (.ite (hr _ _) (.ite (hr _ _) (.ite (hr _ _) ?_))) hs
  split
  · exact hr _ _
  · exact State.keeps_respond _ _ _ (State.keeps_startEstimates (State.keeps_enterMode _ _ hs))

theorem keeps_cmdLeaveService (hs : Keeps k s) : Keeps k (cmdLeaveService h s) := by
  have hr := fun st d => State.keeps_respond h st d hs
  exact State.keeps_take (.ite (hr _ _) (.ite (hr _ _) (State.keeps_respond _ _ _ (State.keeps_enterMode _ _ hs)))) hs

theorem keeps_cmdPark (hs : Keeps k s) : Keeps k (cmdPark h s) :=
  State.keeps_take (State.keeps_respond _ _ _ (hs.agree rfl rfl rfl rfl rfl rfl)) hs

theorem keeps_cmdWake (hs : Keeps k s) : Keeps k (cmdWake h s) := by
  unfold cmdWake
  refine State.keeps_take (State.keeps_respond _ _ _ (State.keeps_rouse _ ?_)) hs
  exact hs.agree rfl rfl rfl rfl rfl rfl

theorem keeps_cmdSetTime {w : BitVec 32} (hs : Keeps k s) : Keeps k (cmdSetTime h w s) := by
  unfold cmdSetTime
  refine State.keeps_take (State.keeps_respond _ _ _ (State.keeps_request _ ?_)) hs
  exact hs.agree rfl rfl rfl rfl rfl rfl

theorem keeps_cmdRestart (hs : Keeps k s) : Keeps k (cmdRestart h s) := by
  unfold cmdRestart
  have h1 := Keeps.ite (p := h.port = .t)
    (State.keeps_modPort (p := .t) (f := fun u => { u with inFlight := none }) (fun _ => sound_inFlight _) hs) hs
  exact .ite (State.keeps_take (State.keeps_respond _ _ _ (State.keeps_restart h1)) h1) (State.keeps_take hs hs)

/-! ## Commands of the port unit -/

theorem keeps_cmdEnableSet {n : BitVec 16} (hs : Keeps k s) : Keeps k (cmdEnableSet h n s) := by
  unfold cmdEnableSet
  refine State.keeps_take ?_ hs
  split
  · exact State.keeps_respond _ _ _ (State.keeps_modPort (fun _ => PortUnit.sound_enableKinds _ _) hs)
  · exact State.keeps_respond _ _ _ hs

theorem keeps_cmdEnableClear {n : BitVec 16} (hs : Keeps k s) : Keeps k (cmdEnableClear h n s) := by
  unfold cmdEnableClear
  refine State.keeps_take ?_ hs
  split
  · exact State.keeps_respond _ _ _ (State.keeps_modPort (fun _ => PortUnit.sound_disableKinds _) hs)
  · exact State.keeps_respond _ _ _ hs

theorem keeps_cmdAckEvents {n : BitVec 16} (hs : Keeps k s) : Keeps k (cmdAckEvents h n s) := by
  unfold cmdAckEvents
  refine State.keeps_take ?_ hs
  split
  · exact State.keeps_respond _ _ _ (State.keeps_modPort (fun _ => PortUnit.sound_ackKinds _) hs)
  · exact State.keeps_respond _ _ _ hs

theorem keeps_cmdReadEvents (hs : Keeps k s) : Keeps k (cmdReadEvents h s) :=
  State.keeps_take (State.keeps_respond _ _ _ hs) hs

theorem keeps_cmdReadStatus (hs : Keeps k s) : Keeps k (cmdReadStatus h s) :=
  State.keeps_take (State.keeps_respond _ _ _ hs) hs

/-! ## A received frame -/

theorem keeps_runCommand (i : Instr) (he : k.working → s.ctl.mode ≠ .setup) (hc : k.doses → k.table = s.cons)
    (hs : Keeps k s) : Keeps k (runCommand i s) := by
  cases i with
  | setProbe => exact keeps_cmdSetProbe he hs
  | readProbes => exact keeps_cmdReadProbes hs
  | setLine => exact keeps_cmdSetLine he hs
  | readDoors => exact keeps_cmdReadDoors hs
  | readDoorLog => exact keeps_cmdReadDoorLog hs
  | setCompartment => exact keeps_cmdSetCompartment he hs
  | setZone => exact keeps_cmdSetZone he hs
  | reportDefrost => exact keeps_cmdReportDefrost hs
  | reportUnit => exact keeps_cmdReportUnit hs
  | reportSetpoint => exact keeps_cmdReportSetpoint hs
  | readAir => exact keeps_cmdReadAir hs
  | list => exact keeps_cmdList hc hs
  | load => exact keeps_cmdLoad hs
  | move => exact keeps_cmdMove hs
  | unload => exact keeps_cmdUnload hs
  | drop => exact keeps_cmdDrop hs
  | readConsignment => exact keeps_cmdReadConsignment hs
  | settleClaim => exact keeps_cmdSettleClaim hs
  | withdrawClaim => exact keeps_cmdWithdrawClaim hs
  | readClaim => exact keeps_cmdReadClaim hs
  | beginHandover => exact keeps_cmdBeginHandover hs
  | cancelHandover => exact keeps_cmdCancelHandover hs
  | getSummary => exact keeps_cmdGetSummary hs
  | decide => exact keeps_cmdDecide hs
  | readReceipt => exact keeps_cmdReadReceipt hs
  | ackReceipt => exact keeps_cmdAckReceipt hs
  | readHistory => exact keeps_cmdReadHistory hs
  | ackHistory => exact keeps_cmdAckHistory hs
  | setMarks => exact keeps_cmdSetMarks he hs
  | setInterval => exact keeps_cmdSetInterval he hs
  | enterService => exact keeps_cmdEnterService hs
  | leaveService => exact keeps_cmdLeaveService hs
  | park => exact keeps_cmdPark hs
  | wake => exact keeps_cmdWake hs
  | setTime => exact keeps_cmdSetTime hs
  | restart => exact keeps_cmdRestart hs
  | commitSetup => exact keeps_cmdCommitSetup hs
  | factoryClear => exact keeps_cmdFactoryClear he hs
  | setRights => exact keeps_cmdSetRights he hs
  | enableSet => exact keeps_cmdEnableSet hs
  | enableClear => exact keeps_cmdEnableClear hs
  | ackEvents => exact keeps_cmdAckEvents hs
  | readEvents => exact keeps_cmdReadEvents hs
  | readStatus => exact keeps_cmdReadStatus hs
  | _ => exact hs

namespace State

theorem keeps_formFailure (code : Nat) (hs : Keeps k s) : Keeps k (s.formFailure h code) :=
  .ite (keeps_respond _ _ _ hs) (.ite (keeps_respond _ _ _ hs) (keeps_respond _ _ _ hs))

theorem keeps_takeFrame (code : Nat) (args : List Byte) (he : k.working → s.ctl.mode ≠ .setup) (hc : k.doses → k.table = s.cons)
    (hs : Keeps k s) : Keeps k (s.takeFrame h code args) := by
  have hr := fun st d => State.keeps_respond h st d hs
  unfold takeFrame
  refine .ite (hr _ _) (.ite (hr _ _) ?_)
  split
  · exact hr _ _
  · refine .ite (hr _ _) ?_
    split
    · exact keeps_runCommand _ he hc hs
    · exact keeps_formFailure _ hs

theorem keeps_receive (p : Port) (he : k.working → s.ctl.mode ≠ .setup) (hc : k.doses → k.table = s.cons)
    (hs : Keeps k s) : Keeps k (s.receive p) := by
  unfold receive
  split
  · exact hs
  · rename_i rest _
    have h1 : Keeps k (s.modPort p fun u => { u with received := rest }) :=
      keeps_modPort (fun _ hu => PortUnit.sound_agree hu rfl rfl rfl rfl rfl rfl rfl) hs
    dsimp only
    split
    · exact .ite (keeps_takeFrame _ _ he hc h1) h1
    · exact h1

end State

end Sys2Proof.Machine
end

