-- ==== Sys2Proof/Laws/KeepsExec.lean ====
section
/-! SUPPORT. The ledger through the dispatch: one case for each row of the opcode table. -/

-- Many short proofs: checked one after another, they need fewer threads.
set_option Elab.async false

namespace Sys2Proof.Machine

/-- Whatever row is taken, the ledger is kept. The clause about the working settings is claimed outside SETUP alone, and not of
the two events that begin START; the clause about the consignment table compares with the table before the row. -/
theorem keeps_exec {k : Ledger} {s t : State} (i : Instr)
  (he : k.working → s.ctl.mode ≠ .setup ∧ (∀ f, i ≠ .mainPowerReturn f) ∧ (∀ f, i ≠ .resetInputReleased f))
  (hc : k.doses → k.table = s.cons) (hs : Keeps k s) (h : exec i s = .next t) : Keeps k t := by
  have he' : k.working → s.ctl.mode ≠ .setup := fun hw => (he hw).1
  cases i <;> (simp only [exec] at h)
  all_goals try
    (simp only [
      execSetProbe, execReadProbes, execSetLine, execReadDoors, execReadDoorLog, execSetCompartment, execSetZone,
      execReportDefrost, execReportUnit, execReportSetpoint, execReadAir, execList, execLoad, execMove, execUnload,
      execDrop, execReadConsignment, execSettleClaim, execWithdrawClaim, execReadClaim, execBeginHandover,
      execCancelHandover, execGetSummary, execDecide, execReadReceipt, execAckReceipt, execReadHistory,
      execAckHistory, execSetMarks, execSetInterval, execEnterService, execLeaveService, execPark, execWake,
      execSetTime, execRestart, execCommitSetup, execFactoryClear, execSetRights, execEnableSet, execEnableClear,
      execAckEvents, execReadEvents, execReadStatus, Host.Outcome.next.injEq] at h
     subst h)
  case setProbe => exact keeps_cmdSetProbe he' hs
  case readProbes => exact keeps_cmdReadProbes hs
  case setLine => exact keeps_cmdSetLine he' hs
  case readDoors => exact keeps_cmdReadDoors hs
  case readDoorLog => exact keeps_cmdReadDoorLog hs
  case setCompartment => exact keeps_cmdSetCompartment he' hs
  case setZone => exact keeps_cmdSetZone he' hs
  case reportDefrost => exact keeps_cmdReportDefrost hs
  case reportUnit => exact keeps_cmdReportUnit hs
  case reportSetpoint => exact keeps_cmdReportSetpoint hs
  case readAir => exact keeps_cmdReadAir hs
  case list => exact keeps_cmdList hc hs
  case load => exact keeps_cmdLoad hs
  case move => exact keeps_cmdMove hs
  case unload => exact keeps_cmdUnload hs
  case drop => exact keeps_cmdDrop hs
  case readConsignment => exact keeps_cmdReadConsignment hs
  case settleClaim => exact keeps_cmdSettleClaim hs
  case withdrawClaim => exact keeps_cmdWithdrawClaim hs
  case readClaim => exact keeps_cmdReadClaim hs
  case beginHandover => exact keeps_cmdBeginHandover hs
  case cancelHandover => exact keeps_cmdCancelHandover hs
  case getSummary => exact keeps_cmdGetSummary hs
  case decide => exact keeps_cmdDecide hs
  case readReceipt => exact keeps_cmdReadReceipt hs
  case ackReceipt => exact keeps_cmdAckReceipt hs
  case readHistory => exact keeps_cmdReadHistory hs
  case ackHistory => exact keeps_cmdAckHistory hs
  case setMarks => exact keeps_cmdSetMarks he' hs
  case setInterval => exact keeps_cmdSetInterval he' hs
  case enterService => exact keeps_cmdEnterService hs
  case leaveService => exact keeps_cmdLeaveService hs
  case park => exact keeps_cmdPark hs
  case wake => exact keeps_cmdWake hs
  case setTime => exact keeps_cmdSetTime hs
  case restart => exact keeps_cmdRestart hs
  case commitSetup => exact keeps_cmdCommitSetup hs
  case factoryClear => exact keeps_cmdFactoryClear he' hs
  case setRights => exact keeps_cmdSetRights he' hs
  case enableSet => exact keeps_cmdEnableSet hs
  case enableClear => exact keeps_cmdEnableClear hs
  case ackEvents => exact keeps_cmdAckEvents hs
  case readEvents => exact keeps_cmdReadEvents hs
  case readStatus => exact keeps_cmdReadStatus hs
  all_goals cases h
  case characterReceived => exact .ite (State.keeps_modPort (fun _ h => PortUnit.sound_character _ _ h) hs) hs
  case frameReceived => exact State.keeps_receive _ he' hc hs
  case frameTimeout => exact State.keeps_modPort (fun _ h => PortUnit.sound_silence h) hs
  case responseSent => exact State.keeps_modPort (fun _ h => PortUnit.sound_sendFirst h) hs
  case roundStart => exact State.keeps_beginRound hs
  case readingsPublished => exact State.keeps_publish _ hs
  case converterFault => exact .ite (.ite (State.keeps_completeWaking _ _ hs) (State.keeps_publish _ hs)) hs
  case probeLost => exact .ite (State.keeps_publish _ hs) hs
  case probeRecovered => exact .ite (State.keeps_publish _ hs) hs
  case rawLevelChange => exact State.keeps_rawLevel _ _ _ hs
  case lineEvent => exact State.keeps_takeDebounced _ _ hs
  case secondAdvance => exact State.keeps_advance hs
  case doorOverstay => exact .ite (.ite (State.keeps_overstay _ hs) (State.keeps_modComp _ _ hs)) hs
  case handoverExpiry => split; exacts [.ite (State.keeps_expire _ hs) hs, hs]
  case warmUpEnd => exact State.keeps_warmUp hs
  case wakingComplete => exact State.keeps_completeWaking _ _ hs
  case airExcursionEvaluation => exact State.keeps_monitorTake hs
  case excursionActive => exact .ite (State.keeps_monitorTake hs) hs
  case recoveryEnd => exact .ite (State.keeps_monitorTake hs) hs
  case defrostOverrun => exact .ite (State.keeps_monitorTake hs) hs
  case episodePeakUpdate => exact State.keeps_lineTake hs
  case exposureStep => exact State.keeps_engineTake hs
  case claimRequest => exact .ite (State.keeps_requestTake hs) hs
  case lateAllocation => exact State.keeps_allocate hs
  case parkTest => exact .ite hs (State.keeps_controlTake hs)
  case quietCount => exact .ite (State.keeps_controlTake hs) hs
  case enterDormant => exact .ite (State.keeps_controlTake hs) hs
  case historyIntervalUpdate => exact State.keeps_storeTake hs
  case sample => exact .ite (State.keeps_storeTake hs) hs
  case markRequest => exact State.keeps_takeMark hs
  case historyProgramStart => split; exacts [State.keeps_modHist rfl hs, hs]
  case historyProgramComplete => split; exacts [State.keeps_completeProgram _ hs, hs]
  case historyProgramFailure => split; exacts [State.keeps_failProgram _ hs, hs]
  case beginNewSector => split; exacts [.ite (State.keeps_beginSector _ hs) hs, hs]
  case sectorEraseComplete => exact .ite (State.keeps_eraseDone hs) hs
  case sectorEraseFailure => exact .ite (State.keeps_eraseFailed hs) hs
  case receiptWriteStart => exact .ite (.ite (State.keeps_startOp _ hs) (State.keeps_settleWrite hs)) hs
  case receiptWriteCompletion => exact State.keeps_writeCompletion hs
  case receiptProgramFailure => exact State.keeps_programFailure hs
  case receiptBlockEraseStart => split; exacts [State.keeps_startBlockErase _ hs, hs]
  case receiptBlockEraseComplete => split; exacts [State.keeps_blockErased _ hs, hs]
  case receiptBlockEraseFailure => split; exacts [State.keeps_blockEraseFailed _ hs, hs]
  case counterBlockRewriteStart => exact .ite (State.keeps_startRewrite hs) hs
  case counterBlockRewriteEnd => exact .ite (State.keeps_endRewrite _ hs) hs
  case commitStart => exact .ite (State.keeps_startCommit hs) hs
  case commitEnd => split; exacts [.ite (State.keeps_endCommit _ _ hs) hs, hs]
  case mainPowerFailure => exact State.keeps_powerFails hs
  case resetInputAsserted => exact State.keeps_resetAsserted hs
  case resetInputReleased f =>
    refine .ite ?_ hs
    have h1 : Keeps k { s with ctl := { s.ctl with resetInput := false } } := hs.agree rfl rfl rfl rfl rfl rfl
    exact .ite (State.keeps_runStart f (fun hw => (he hw).2.2 f rfl) h1) h1
  case mainPowerReturn f =>
    refine .ite hs ?_
    have h1 : Keeps k { s with ctl := { s.ctl with mainPower := true } } := hs.agree rfl rfl rfl rfl rfl rfl
    exact .ite h1 (State.keeps_runStart f (fun hw => (he hw).2.1 f rfl) h1)
  case startComplete => exact .ite (State.keeps_finishStart hs) hs
  case backupSupplyFall => exact hs.agree rfl rfl rfl rfl rfl rfl

end Sys2Proof.Machine
end

