-- ==== Sys2Proof/Laws/PerInstr.lean ====
section
/-! SUPPORT. Per-instruction lemmas: the operands of a well-formed instruction fit the body of a frame, and the code, the header
and the rights group of the opcode table's rows agree (R199, R200, R201). -/

-- Many short proofs: checked one after another, they need fewer threads.
set_option Elab.async false

namespace Sys2Proof.Laws.OperandsFit

open Sys2Proof.Machine

/-- The code and the rights group of a serial command are those of the command summary; an event has no code, no header and no
group. The argument bytes of a well-formed instruction fit the body of a frame beside its code and tag. -/
def Statement (i : Instr) : Prop :=
  (i.wellFormed = true → 2 + (commandBytes i).length ≤ 250) ∧
  group? i = (commandCode i).bind commandGroup ∧
  (header? i).isSome = (commandCode i).isSome

theorem setProbe (h : Header) (probe : Byte) (offset : BitVec 16) (gain : BitVec 16) : Statement
    (.setProbe h probe offset gain) :=
  ⟨fun _ => by simp [commandBytes], rfl, rfl⟩

theorem readProbes (h : Header) : Statement (.readProbes h) :=
  ⟨fun _ => by simp [commandBytes], rfl, rfl⟩

theorem setLine (h : Header) (line : Byte) (kind : Byte) (level : Byte) (debounce : BitVec 16)
    (comp : Option Byte) : Statement (.setLine h line kind level debounce comp) :=
  ⟨fun _ => by simp [commandBytes], rfl, rfl⟩

theorem readDoors (h : Header) : Statement (.readDoors h) :=
  ⟨fun _ => by simp [commandBytes], rfl, rfl⟩

theorem readDoorLog (h : Header) (fromEpisode : BitVec 32) (count : Byte) : Statement (.readDoorLog h fromEpisode count) :=
  ⟨fun _ => by simp [commandBytes], rfl, rfl⟩

theorem setCompartment (h : Header) (comp : Byte) (inUse : Byte) (zone : Option Byte) (primary : Option Byte)
    (secondary : Option Byte) : Statement (.setCompartment h comp inUse zone primary secondary) :=
  ⟨fun _ => by simp [commandBytes], rfl, rfl⟩

theorem setZone (h : Header) (zone : Byte) (fields : List (Byte × BitVec 32)) : Statement (.setZone h zone fields) := by
  refine ⟨fun hw => ?_, rfl, rfl⟩
  have : 3 + 5 * fields.length ≤ 250 := by simpa [Instr.wellFormed] using hw
  rw [length_zoneBytes]
  omega

theorem reportDefrost (h : Header) (comp : Byte) (report : Byte) : Statement (.reportDefrost h comp report) :=
  ⟨fun _ => by simp [commandBytes], rfl, rfl⟩

theorem reportUnit (h : Header) (comp : Byte) (report : Byte) : Statement (.reportUnit h comp report) :=
  ⟨fun _ => by simp [commandBytes], rfl, rfl⟩

theorem reportSetpoint (h : Header) (comp : Byte) (value : BitVec 16) : Statement (.reportSetpoint h comp value) :=
  ⟨fun _ => by simp [commandBytes], rfl, rfl⟩

theorem readAir (h : Header) : Statement (.readAir h) :=
  ⟨fun _ => by simp [commandBytes], rfl, rfl⟩

theorem list (h : Header) (id : BitVec 32) (comp : Byte) (stop : Byte) (dose : Option (BitVec 32))
    (shock : Option Byte) (source : Option (BitVec 32)) (estimate : Option (BitVec 16)) : Statement (.list h id comp stop dose shock source estimate) :=
  ⟨fun _ => by simp [commandBytes], rfl, rfl⟩

theorem load (h : Header) (id : BitVec 32) (estimate : Option (BitVec 16)) : Statement (.load h id estimate) :=
  ⟨fun _ => by simp [commandBytes], rfl, rfl⟩

theorem move (h : Header) (id : BitVec 32) (comp : Byte) : Statement (.move h id comp) :=
  ⟨fun _ => by simp [commandBytes], rfl, rfl⟩

theorem unload (h : Header) (id : BitVec 32) : Statement (.unload h id) :=
  ⟨fun _ => by simp [commandBytes], rfl, rfl⟩

theorem drop (h : Header) (id : BitVec 32) : Statement (.drop h id) :=
  ⟨fun _ => by simp [commandBytes], rfl, rfl⟩

theorem readConsignment (h : Header) (which : ConsignmentName) : Statement (.readConsignment h which) := by
  cases which <;> exact ⟨fun _ => by simp [commandBytes], rfl, rfl⟩

theorem settleClaim (h : Header) (number : BitVec 32) : Statement (.settleClaim h number) :=
  ⟨fun _ => by simp [commandBytes], rfl, rfl⟩

theorem withdrawClaim (h : Header) (number : BitVec 32) : Statement (.withdrawClaim h number) :=
  ⟨fun _ => by simp [commandBytes], rfl, rfl⟩

theorem readClaim (h : Header) (which : ClaimName) : Statement (.readClaim h which) := by
  cases which <;> exact ⟨fun _ => by simp [commandBytes], rfl, rfl⟩

theorem beginHandover (h : Header) (id : BitVec 32) : Statement (.beginHandover h id) :=
  ⟨fun _ => by simp [commandBytes], rfl, rfl⟩

theorem cancelHandover (h : Header) (id : BitVec 32) : Statement (.cancelHandover h id) :=
  ⟨fun _ => by simp [commandBytes], rfl, rfl⟩

theorem getSummary (h : Header) (id : BitVec 32) : Statement (.getSummary h id) :=
  ⟨fun _ => by simp [commandBytes], rfl, rfl⟩

theorem decide (h : Header) (id : BitVec 32) (outcome : Byte) (reason : Byte) (mark : Option (List Byte)) : Statement
    (.decide h id outcome reason mark) := by
  refine ⟨fun hw => ?_, rfl, rfl⟩
  cases mark with
  | none => simp [commandBytes]
  | some m =>
    have : m.length = 16 := by simpa [Instr.wellFormed] using hw
    simp [commandBytes, this]

theorem readReceipt (h : Header) (number : BitVec 32) : Statement (.readReceipt h number) :=
  ⟨fun _ => by simp [commandBytes], rfl, rfl⟩

theorem ackReceipt (h : Header) (through : BitVec 32) : Statement (.ackReceipt h through) :=
  ⟨fun _ => by simp [commandBytes], rfl, rfl⟩

theorem readHistory (h : Header) (fromSequence : BitVec 32) (count : Byte) : Statement (.readHistory h fromSequence count) :=
  ⟨fun _ => by simp [commandBytes], rfl, rfl⟩

theorem ackHistory (h : Header) (through : BitVec 32) : Statement (.ackHistory h through) :=
  ⟨fun _ => by simp [commandBytes], rfl, rfl⟩

theorem setMarks (h : Header) (upper : BitVec 32) (lower : BitVec 32) : Statement (.setMarks h upper lower) :=
  ⟨fun _ => by simp [commandBytes], rfl, rfl⟩

theorem setInterval (h : Header) (rounds : Byte) : Statement (.setInterval h rounds) :=
  ⟨fun _ => by simp [commandBytes], rfl, rfl⟩

theorem enterService (h : Header) : Statement (.enterService h) :=
  ⟨fun _ => by simp [commandBytes], rfl, rfl⟩

theorem leaveService (h : Header) : Statement (.leaveService h) :=
  ⟨fun _ => by simp [commandBytes], rfl, rfl⟩

theorem park (h : Header) : Statement (.park h) :=
  ⟨fun _ => by simp [commandBytes], rfl, rfl⟩

theorem wake (h : Header) : Statement (.wake h) :=
  ⟨fun _ => by simp [commandBytes], rfl, rfl⟩

theorem setTime (h : Header) (wall : BitVec 32) : Statement (.setTime h wall) :=
  ⟨fun _ => by simp [commandBytes], rfl, rfl⟩

theorem restart (h : Header) : Statement (.restart h) :=
  ⟨fun _ => by simp [commandBytes], rfl, rfl⟩

theorem commitSetup (h : Header) : Statement (.commitSetup h) :=
  ⟨fun _ => by simp [commandBytes], rfl, rfl⟩

theorem factoryClear (h : Header) : Statement (.factoryClear h) :=
  ⟨fun _ => by simp [commandBytes], rfl, rfl⟩

theorem setRights (h : Header) (readings : Byte) (handoverBegin : Byte) (receiptRead : Byte)
    (historyRead : Byte) : Statement (.setRights h readings handoverBegin receiptRead historyRead) :=
  ⟨fun _ => by simp [commandBytes], rfl, rfl⟩

theorem enableSet (h : Header) (kinds : BitVec 16) : Statement (.enableSet h kinds) :=
  ⟨fun _ => by simp [commandBytes], rfl, rfl⟩

theorem enableClear (h : Header) (kinds : BitVec 16) : Statement (.enableClear h kinds) :=
  ⟨fun _ => by simp [commandBytes], rfl, rfl⟩

theorem ackEvents (h : Header) (kinds : BitVec 16) : Statement (.ackEvents h kinds) :=
  ⟨fun _ => by simp [commandBytes], rfl, rfl⟩

theorem readEvents (h : Header) : Statement (.readEvents h) :=
  ⟨fun _ => by simp [commandBytes], rfl, rfl⟩

theorem readStatus (h : Header) : Statement (.readStatus h) :=
  ⟨fun _ => by simp [commandBytes], rfl, rfl⟩

theorem characterReceived (p : Port) (ninth : Bool) (value : Byte) : Statement (.characterReceived p ninth value) :=
  ⟨fun _ => by simp [commandBytes], rfl, rfl⟩

theorem frameReceived (p : Port) : Statement (.frameReceived p) :=
  ⟨fun _ => by simp [commandBytes], rfl, rfl⟩

theorem frameTimeout (p : Port) : Statement (.frameTimeout p) :=
  ⟨fun _ => by simp [commandBytes], rfl, rfl⟩

theorem responseSent (p : Port) : Statement (.responseSent p) :=
  ⟨fun _ => by simp [commandBytes], rfl, rfl⟩

theorem roundStart : Statement .roundStart :=
  ⟨fun _ => by simp [commandBytes], rfl, rfl⟩

theorem readingsPublished (conv : Conversion) : Statement (.readingsPublished conv) :=
  ⟨fun _ => by simp [commandBytes], rfl, rfl⟩

theorem converterFault (conv : Conversion) : Statement (.converterFault conv) :=
  ⟨fun _ => by simp [commandBytes], rfl, rfl⟩

theorem probeLost (probe : Fin 8) (conv : Conversion) : Statement (.probeLost probe conv) :=
  ⟨fun _ => by simp [commandBytes], rfl, rfl⟩

theorem probeRecovered (probe : Fin 8) (conv : Conversion) : Statement (.probeRecovered probe conv) :=
  ⟨fun _ => by simp [commandBytes], rfl, rfl⟩

theorem rawLevelChange (line : Fin 8) (high : Bool) (instant : Nat) : Statement (.rawLevelChange line high instant) :=
  ⟨fun _ => by simp [commandBytes], rfl, rfl⟩

theorem lineEvent (line : Fin 8) (instant : Nat) : Statement (.lineEvent line instant) :=
  ⟨fun _ => by simp [commandBytes], rfl, rfl⟩

theorem secondAdvance : Statement .secondAdvance :=
  ⟨fun _ => by simp [commandBytes], rfl, rfl⟩

theorem doorOverstay (comp : Fin 4) : Statement (.doorOverstay comp) :=
  ⟨fun _ => by simp [commandBytes], rfl, rfl⟩

theorem handoverExpiry (slot : Fin 32) : Statement (.handoverExpiry slot) :=
  ⟨fun _ => by simp [commandBytes], rfl, rfl⟩

theorem warmUpEnd : Statement .warmUpEnd :=
  ⟨fun _ => by simp [commandBytes], rfl, rfl⟩

theorem wakingComplete (refA : BitVec 16) (refB : BitVec 16) : Statement (.wakingComplete refA refB) :=
  ⟨fun _ => by simp [commandBytes], rfl, rfl⟩

theorem airExcursionEvaluation : Statement .airExcursionEvaluation :=
  ⟨fun _ => by simp [commandBytes], rfl, rfl⟩

theorem excursionActive (comp : Fin 4) : Statement (.excursionActive comp) :=
  ⟨fun _ => by simp [commandBytes], rfl, rfl⟩

theorem recoveryEnd (comp : Fin 4) : Statement (.recoveryEnd comp) :=
  ⟨fun _ => by simp [commandBytes], rfl, rfl⟩

theorem defrostOverrun (comp : Fin 4) : Statement (.defrostOverrun comp) :=
  ⟨fun _ => by simp [commandBytes], rfl, rfl⟩

theorem episodePeakUpdate : Statement .episodePeakUpdate :=
  ⟨fun _ => by simp [commandBytes], rfl, rfl⟩

theorem exposureStep : Statement .exposureStep :=
  ⟨fun _ => by simp [commandBytes], rfl, rfl⟩

theorem claimRequest : Statement .claimRequest :=
  ⟨fun _ => by simp [commandBytes], rfl, rfl⟩

theorem lateAllocation : Statement .lateAllocation :=
  ⟨fun _ => by simp [commandBytes], rfl, rfl⟩

theorem parkTest : Statement .parkTest :=
  ⟨fun _ => by simp [commandBytes], rfl, rfl⟩

theorem quietCount : Statement .quietCount :=
  ⟨fun _ => by simp [commandBytes], rfl, rfl⟩

theorem enterDormant : Statement .enterDormant :=
  ⟨fun _ => by simp [commandBytes], rfl, rfl⟩

theorem historyIntervalUpdate : Statement .historyIntervalUpdate :=
  ⟨fun _ => by simp [commandBytes], rfl, rfl⟩

theorem sample : Statement .sample :=
  ⟨fun _ => by simp [commandBytes], rfl, rfl⟩

theorem markRequest : Statement .markRequest :=
  ⟨fun _ => by simp [commandBytes], rfl, rfl⟩

theorem historyProgramStart : Statement .historyProgramStart :=
  ⟨fun _ => by simp [commandBytes], rfl, rfl⟩

theorem historyProgramComplete : Statement .historyProgramComplete :=
  ⟨fun _ => by simp [commandBytes], rfl, rfl⟩

theorem historyProgramFailure : Statement .historyProgramFailure :=
  ⟨fun _ => by simp [commandBytes], rfl, rfl⟩

theorem beginNewSector : Statement .beginNewSector :=
  ⟨fun _ => by simp [commandBytes], rfl, rfl⟩

theorem sectorEraseComplete : Statement .sectorEraseComplete :=
  ⟨fun _ => by simp [commandBytes], rfl, rfl⟩

theorem sectorEraseFailure : Statement .sectorEraseFailure :=
  ⟨fun _ => by simp [commandBytes], rfl, rfl⟩

theorem receiptWriteStart : Statement .receiptWriteStart :=
  ⟨fun _ => by simp [commandBytes], rfl, rfl⟩

theorem receiptWriteCompletion : Statement .receiptWriteCompletion :=
  ⟨fun _ => by simp [commandBytes], rfl, rfl⟩

theorem receiptProgramFailure : Statement .receiptProgramFailure :=
  ⟨fun _ => by simp [commandBytes], rfl, rfl⟩

theorem receiptBlockEraseStart : Statement .receiptBlockEraseStart :=
  ⟨fun _ => by simp [commandBytes], rfl, rfl⟩

theorem receiptBlockEraseComplete : Statement .receiptBlockEraseComplete :=
  ⟨fun _ => by simp [commandBytes], rfl, rfl⟩

theorem receiptBlockEraseFailure : Statement .receiptBlockEraseFailure :=
  ⟨fun _ => by simp [commandBytes], rfl, rfl⟩

theorem counterBlockRewriteStart : Statement .counterBlockRewriteStart :=
  ⟨fun _ => by simp [commandBytes], rfl, rfl⟩

theorem counterBlockRewriteEnd (ok : Bool) : Statement (.counterBlockRewriteEnd ok) :=
  ⟨fun _ => by simp [commandBytes], rfl, rfl⟩

theorem commitStart : Statement .commitStart :=
  ⟨fun _ => by simp [commandBytes], rfl, rfl⟩

theorem commitEnd (ok : Bool) : Statement (.commitEnd ok) :=
  ⟨fun _ => by simp [commandBytes], rfl, rfl⟩

theorem mainPowerFailure : Statement .mainPowerFailure :=
  ⟨fun _ => by simp [commandBytes], rfl, rfl⟩

theorem resetInputAsserted : Statement .resetInputAsserted :=
  ⟨fun _ => by simp [commandBytes], rfl, rfl⟩

theorem resetInputReleased (found : StartInputs) : Statement (.resetInputReleased found) :=
  ⟨fun _ => by simp [commandBytes], rfl, rfl⟩

theorem mainPowerReturn (found : StartInputs) : Statement (.mainPowerReturn found) :=
  ⟨fun _ => by simp [commandBytes], rfl, rfl⟩

theorem startComplete : Statement .startComplete :=
  ⟨fun _ => by simp [commandBytes], rfl, rfl⟩

theorem backupSupplyFall : Statement .backupSupplyFall :=
  ⟨fun _ => by simp [commandBytes], rfl, rfl⟩

end Sys2Proof.Laws.OperandsFit
end

