-- ==== Sys2Proof/Laws/Writing.lean ====
section
/-! SUPPORT. The order of writing that START judges two slots of one number by (R144, R162, log 27): what is written last is later
than every other place, and of two places at most one is the later. -/

namespace Sys2Proof.Machine

/-! ## The history bank -/

namespace History

@[simp] theorem openStretch_sectors (h : History) (i : Fin 16) (k : Nat) : (h.openStretch i k).sectors = h.sectors := rfl
@[simp] theorem openStretch_current (h : History) (i : Fin 16) (k : Nat) : (h.openStretch i k).current = h.current := rfl
@[simp] theorem openStretch_next (h : History) (i : Fin 16) (k : Nat) : (h.openStretch i k).next = h.next := rfl
@[simp] theorem openStretch_eraseQueue (h : History) (i : Fin 16) (k : Nat) : (h.openStretch i k).eraseQueue = h.eraseQueue := rfl
@[simp] theorem openStretch_secondErase (h : History) (i : Fin 16) (k : Nat) : (h.openStretch i k).secondErase = h.secondErase := rfl
@[simp] theorem openStretch_newest (h : History) (i : Fin 16) (k : Nat) : (h.openStretch i k).newest = h.newest := rfl
@[simp] theorem openStretch_acked (h : History) (i : Fin 16) (k : Nat) : (h.openStretch i k).acked = h.acked := rfl
@[simp] theorem openStretch_lostUnsent (h : History) (i : Fin 16) (k : Nat) : (h.openStretch i k).lostUnsent = h.lostUnsent := rfl
@[simp] theorem openStretch_queue (h : History) (i : Fin 16) (k : Nat) : (h.openStretch i k).queue = h.queue := rfl
@[simp] theorem openStretch_queuedSamples (h : History) (i : Fin 16) (k : Nat) : (h.openStretch i k).queuedSamples = h.queuedSamples := rfl
@[simp] theorem openStretch_queuedMarks (h : History) (i : Fin 16) (k : Nat) : (h.openStretch i k).queuedMarks = h.queuedMarks := rfl
@[simp] theorem openStretch_droppedSamples (h : History) (i : Fin 16) (k : Nat) : (h.openStretch i k).droppedSamples = h.droppedSamples := rfl
@[simp] theorem openStretch_droppedMarks (h : History) (i : Fin 16) (k : Nat) : (h.openStretch i k).droppedMarks = h.droppedMarks := rfl
@[simp] theorem openStretch_stalled (h : History) (i : Fin 16) (k : Nat) : (h.openStretch i k).stalled = h.stalled := rfl
@[simp] theorem openStretch_degraded (h : History) (i : Fin 16) (k : Nat) : (h.openStretch i k).degraded = h.degraded := rfl
@[simp] theorem openStretch_uploadWanted (h : History) (i : Fin 16) (k : Nat) : (h.openStretch i k).uploadWanted = h.uploadWanted := rfl
@[simp] theorem openStretch_intervalCount (h : History) (i : Fin 16) (k : Nat) : (h.openStretch i k).intervalCount = h.intervalCount := rfl
@[simp] theorem openStretch_intervals (h : History) (i : Fin 16) (k : Nat) : (h.openStretch i k).intervals = h.intervals := rfl
@[simp] theorem openStretch_program (h : History) (i : Fin 16) (k : Nat) : (h.openStretch i k).program = h.program := rfl
@[simp] theorem openStretch_gapDue (h : History) (i : Fin 16) (k : Nat) : (h.openStretch i k).gapDue = h.gapDue := rfl

end History

theorem stretchOf_le_length (xs : List (Fin 16 × Nat)) (p : Fin 16 × Nat) : stretchOf xs p ≤ xs.length := by
  unfold stretchOf
  cases h : (xs.zipIdx.filter fun y => y.1.1 == p.1 && decide (y.1.2 ≤ p.2)).getLast? with
  | none => exact Nat.zero_le _
  | some y =>
    have hy := List.snd_lt_of_mem_zipIdx (List.mem_filter.mp (List.mem_of_getLast? h)).1
    simpa using hy

/-- One more stretch at the end: it is the last one of the places in it, and no other place's. -/
theorem stretchOf_append (xs : List (Fin 16 × Nat)) (i : Fin 16) (k : Nat) (p : Fin 16 × Nat) :
    stretchOf (xs ++ [(i, k)]) p = if p.1 = i ∧ k ≤ p.2 then xs.length + 1 else stretchOf xs p := by
  unfold stretchOf
  by_cases h : p.1 = i ∧ k ≤ p.2
  · simp [List.zipIdx_append, List.filter_append, h.1, h.2]
  · have : ¬ (i = p.1 ∧ k ≤ p.2) := fun e => h ⟨e.1.symm, e.2⟩
    simp [List.zipIdx_append, List.filter_append, h, this]

/-- What the writer fills in a new stretch is later than what stands anywhere else. -/
theorem laterFilled_openStretch (h : History) (i : Fin 16) (k m : Nat) (p : Fin 16 × Nat) (hm : k ≤ m)
    (hp : ¬ (p.1 = i ∧ k ≤ p.2)) : laterFilled (h.openStretch i k).stretches p (i, m) = true := by
  have hle := stretchOf_le_length (h.stretches.filter fun y => !(y.1 == i && decide (k ≤ y.2))) p
  simp only [laterFilled, History.openStretch, stretchOf_append, hp, hm, and_self, if_true, if_false]
  simp only [Bool.or_eq_true, decide_eq_true_eq]
  exact .inl (Nat.lt_succ_of_le hle)

theorem laterFilled_asymm (xs : List (Fin 16 × Nat)) (p q : Fin 16 × Nat) (h : laterFilled xs p q = true) :
    laterFilled xs q p = false := by
  simp only [laterFilled, Bool.or_eq_true, Bool.and_eq_true, decide_eq_true_eq, beq_iff_eq] at h
  simp only [laterFilled, Bool.or_eq_false_iff, Bool.and_eq_false_iff, decide_eq_false_iff_not, beq_eq_false_iff_ne]
  omega

/-! ## The receipt store -/

namespace HandOver

@[simp] theorem putSlot_contexts (h : HandOver) (b : Fin 4) (i : Fin 16) (x : ReceiptSlot) :
    (h.putSlot b i x).contexts = h.contexts := rfl
@[simp] theorem putSlot_block (h : HandOver) (b : Fin 4) (i : Fin 16) (x : ReceiptSlot) :
    (h.putSlot b i x).block = h.block := rfl
@[simp] theorem putSlot_slot (h : HandOver) (b : Fin 4) (i : Fin 16) (x : ReceiptSlot) :
    (h.putSlot b i x).slot = h.slot := rfl
@[simp] theorem putSlot_newest (h : HandOver) (b : Fin 4) (i : Fin 16) (x : ReceiptSlot) :
    (h.putSlot b i x).newest = h.newest := rfl
@[simp] theorem putSlot_chain (h : HandOver) (b : Fin 4) (i : Fin 16) (x : ReceiptSlot) :
    (h.putSlot b i x).chain = h.chain := rfl
@[simp] theorem putSlot_acked (h : HandOver) (b : Fin 4) (i : Fin 16) (x : ReceiptSlot) :
    (h.putSlot b i x).acked = h.acked := rfl
@[simp] theorem putSlot_erasing (h : HandOver) (b : Fin 4) (i : Fin 16) (x : ReceiptSlot) :
    (h.putSlot b i x).erasing = h.erasing := rfl
@[simp] theorem putSlot_secondErase (h : HandOver) (b : Fin 4) (i : Fin 16) (x : ReceiptSlot) :
    (h.putSlot b i x).secondErase = h.secondErase := rfl
@[simp] theorem putSlot_retired (h : HandOver) (b : Fin 4) (i : Fin 16) (x : ReceiptSlot) :
    (h.putSlot b i x).retired = h.retired := rfl

theorem laterWritten_asymm (h : HandOver) (p q : Fin 4 × Fin 16) (hl : h.laterWritten p q = true) :
    h.laterWritten q p = false := by
  simp only [laterWritten, decide_eq_true_eq, decide_eq_false_iff_not] at *
  omega

/-- A slot just programmed is later than every other. -/
theorem laterWritten_putSlot (h : HandOver) (b : Fin 4) (i : Fin 16) (x : ReceiptSlot) (p : Fin 4 × Fin 16)
    (hp : p ≠ (b, i)) : (h.putSlot b i x).laterWritten p (b, i) = true := by
  have hn : ∀ y ∈ h.written.filter fun p => p != (b, i), (y == (b, i)) = false := by simp
  have hpi : ((b, i) == p) = false := by simpa using Ne.symm hp
  have hlt : ∀ n, (h.written.filter fun p => p != (b, i)).findIdx? (fun y => y == p) = some n →
      n < (h.written.filter fun p => p != (b, i)).length := fun n e => (List.findIdx?_eq_some_iff_findIdx_eq.mp e).1
  have hb : (h.written.filter fun p => p != (b, i)).findIdx? (fun y => y == (b, i)) = none :=
    List.findIdx?_eq_none_iff.mpr hn
  simp only [laterWritten, turnOf, putSlot, List.findIdx?_append, hb, decide_eq_true_eq]
  cases e : (h.written.filter fun p => p != (b, i)).findIdx? (fun y => y == p) with
  | none => simp [List.findIdx?_cons, hpi]
  | some n => simpa [List.findIdx?_cons] using hlt n e

end HandOver

end Sys2Proof.Machine
end

