-- ==== Sys2Proof/Tests/Slice0.lean ====
section
/-! SUPPORT. The checks of WellFormed on ill-formed terms, the spec's worked values, and for each obligation with hypotheses a
concrete state and operands that meet them, clause by clause at the boundary values. -/

-- Many short proofs: checked one after another, they need fewer threads.
set_option Elab.async false

namespace Sys2Proof.Tests

open Sys2Proof.Machine

/-! ## Small states -/

def t1 : Header := { port := .t, tag := 1#8 }
def h1 : Header := { port := .h, tag := 1#8 }

/-- A running part with an empty table memory, in the mode given. -/
def inMode (m : Mode) : State :=
  { State.reset with ctl := { State.reset.ctl with mode := m, mainPower := true, domainValid := true, time := 100 } }

def setup : State := inMode .setup
def service : State := inMode .service

theorem taken (g : Group) (m : Mode) (hm : m ≠ .start) (hg : holdsGroup defaultGrants g .t = true) :
    Taken g t1 (inMode m) :=
  ⟨rfl, hm, rfl, hg⟩

/-- A command passes the port's checks, by one finite check. -/
theorem taken_of {g : Group} {h : Header} {s : State} (e : s.powered = true ∧ s.ctl.mode ≠ .start ∧
    (s.ports.at h.port).inFlight = none ∧ holdsGroup s.ctl.working.grants g h.port = true) : Taken g h s :=
  ⟨e.1, e.2.1, e.2.2.1, e.2.2.2⟩

theorem editable_of {h : Header} {s : State} (e : (s.powered = true ∧ s.ctl.mode ≠ .start ∧
    (s.ports.at h.port).inFlight = none ∧ holdsGroup s.ctl.working.grants .config h.port = true) ∧ s.ctl.mode = .setup ∧
    s.ctl.commit = none) : Editable h s :=
  ⟨taken_of e.1, e.2.1, e.2.2⟩

theorem editable : Editable t1 setup := editable_of (by decide +kernel)

/-- A table's entries all meet `P`, by a finite check. -/
theorem all_of {α : Type} {n : Nat} {t : Table (Option α) n} {P : Fin n → α → Prop}
    (h : ∀ i, ∀ a ∈ t.read i, P i a) : ∀ i a, t.read i = some a → P i a :=
  fun i a e => h i a e

def exposure0 : Exposure :=
  { e := some (-2000), armed := true, shocks := 0, buckets := { other := 0, door := 0, defrost := 0, unit := 0 },
    peak := some (-2000), lost := 0, triggered := 0#5, saturated := false, lostSeen := false }

/-- A consignment in C0, in custody since second 40. -/
def aboard : Consignment :=
  { id := 71204#32, state := .aboard, comp := 0, stop := 3, carriedDose := some 5400, carriedShocks := some 1,
    source := some 812, loadEstimate := none, custodyStart := some 40, custodyEnd := none, startSequence := some 1,
    loadMarkOutstanding := false, doorSeconds := 0, doorBase := some 0#32, episodes := 0, claimed := 0#5, claim := none,
    outageSeen := false, conflictSeen := false, claimOverflow := false, lastContextExpired := false, receipt := none,
    exposure := exposure0 }

def listed : Consignment := { aboard with state := .listed, custodyStart := none, doorBase := none }

/-- `s` with `x` in slot 0. -/
def carrying (x : Consignment) (s : State) : State := { s with cons := s.cons.write 0 (some x) }

def airAt (a : Int) : AirRecord :=
  { a := some a, clamped := false, suspect := false, held := false, lost := false, contributors := [0, 1] }

/-- A publication with the air of C0 alone. -/
def publication (parked : Bool) (a : Int) : Publication :=
  { parked := parked, startedIn := if parked then .parked else .service, start := 98, second := 100, check := none,
    probes := Table.const 8 (.good, none), air := (Table.const 4 none).write 0 (some (airAt a)) }

def round0 (check : Bool) : Round :=
  { parked := false, startedIn := .service, start := 98, trims := Table.const 8 { offset := 0, gain := 0 }, check := check,
    converted := Table.const 8 true }

/-- Codes of one value at every probe, and reference codes. -/
def codes (v a b : BitVec 16) : Conversion := { codes := Table.const 8 v, refA := a, refB := b }

def fragment (f : FrontEnd → FrontEnd) (s : State) : State := { s with fe := f s.fe }
def monitor (f : Compartment → Compartment) (s : State) : State := { s with mon := s.mon.modify 0 f }

/-! ## WellFormed -/

/-- R200: fifty fields of SET_ZONE pass 250 body bytes; forty-nine do not. -/
theorem test_wellFormed_setZone :
    (Instr.setZone t1 0#8 (List.replicate 50 (0#8, 0#32))).wellFormed = false ∧
      (Instr.setZone t1 0#8 (List.replicate 49 (0#8, 0#32))).wellFormed = true := by decide

/-- R200: a customer mark has 16 bytes. -/
theorem test_wellFormed_decide :
    (Instr.decide t1 1#32 0#8 0#8 (some (List.replicate 15 0#8))).wellFormed = false ∧
      (Instr.decide t1 1#32 0#8 0#8 (some (List.replicate 17 0#8))).wellFormed = false ∧
      (Instr.decide t1 1#32 0#8 0#8 (some (List.replicate 16 0#8))).wellFormed = true := by decide

/-! ## Worked values of the spec -/

/-- R210: the check values over the nine characters 123456789. -/
theorem test_crc16 : crc16 [0x31, 0x32, 0x33, 0x34, 0x35, 0x36, 0x37, 0x38, 0x39] = 0x29B1#16 := by decide +kernel
theorem test_crc32 : crc32 [0x31, 0x32, 0x33, 0x34, 0x35, 0x36, 0x37, 0x38, 0x39] = 0xCBF43926#32 := by decide +kernel

/-- The state that a command or event leaves. -/
def after (i : Instr) (s : State) : State := match exec i s with | .next t => t | _ => s

/-- The answers on the T-port: each with its status and its data. -/
def answers (s : State) : List (Status × List Byte) := s.ports.t.responses.map fun r => (r.status, r.data)

/-- Section 1.2: code 17,400 on a probe with trims -8 and +82 reads -1,164. -/
theorem test_reading :
    readingOf 17400#16 { offset := -8, gain := 82 } State.reset.fe.ref = .valid (-1164) false false := by decide +kernel

/-- R16: SET_PROBE 2 -8 82 is answered OK, SET_PROBE 3 -250 400 CLAMPED with -200 and +327. -/
theorem test_setProbe :
    answers (after (.setProbe t1 2#8 (BitVec.ofInt 16 (-8)) 82#16) setup) = [(.ok, [0x02#8, 0xFF#8, 0xF8#8, 0x00#8, 0x52#8])] ∧
      answers (after (.setProbe t1 3#8 (BitVec.ofInt 16 (-250)) 400#16) setup) =
        [(.clamped, [0x03#8, 0xFF#8, 0x38#8, 0x01#8, 0x47#8])] := by decide +kernel

/-- R35: SET_LINE 2 DOOR high 5 1 with the raw level of L2 high makes L2 active at once. -/
theorem test_setLine :
    let s : State := { setup with lines := { setup.lines with
      line := setup.lines.line.write 2 { high := true, active := false, candidate := none } } }
    answers (after (.setLine t1 2#8 0#8 0#8 5#16 (some 1#8)) s) = [(.ok, [2#8, 0#8, 0#8, 0#8, 5#8, 1#8, 1#8, 1#8])] := by
  decide +kernel

/-- File 04, worked sequences: one sub-step toward -1,164 in class DOOR takes E from -1,650 to -1,601 and DOOR from 7,650 to 7,849. -/
theorem test_subStep :
    let x : Exposure := { exposure0 with
      e := some (-1650), buckets := { other := 22140, door := 7650, defrost := 720, unit := 0 }, peak := some (-1520) }
    x.subStep zoneHardFrozen (some (-1164)) .door = { x with
      e := some (-1601), buckets := { x.buckets with door := 7849 } } := by decide +kernel

/-- R69: the increments of the worked table. -/
theorem test_increment :
    increment zoneHardFrozen (-1800) = 0 ∧ increment zoneHardFrozen (-1799) = 1 ∧ increment zoneHardFrozen (-1200) = 600 ∧
      increment { zoneHardFrozen with weight := 13 } (-1199) = 602 ∧ increment zoneHardFrozen (-1000) = 1200 ∧
      increment zoneChilled 760 = 420 ∧
      increment { zoneHardFrozen with theta := -4000, soften := -4000, weight := 64 } 8500 = 100000 := by decide +kernel

/-- Section 5.4: LIST with a carried dose of 20,000,000 stores 16,777,215 and answers CLAMPED. -/
theorem test_list :
    let t := after (.list t1 71207#32 0#8 4#8 (some 20000000#32) none none none) setup
    ((t.cons.read 0).map fun x => (x.id, x.stop, x.carriedDose)) = some (71207#32, 4, some 16777215) ∧
      (answers t).map Prod.fst = [.clamped] := by decide +kernel

/-- R97: MOVE with base 8,030, the old counter at 8,125 and the new one at 3,200 answers 95 and 3,200. -/
theorem test_move :
    let s := carrying { aboard with doorBase := some 8030#32 } { service with
      ctl := { service.ctl with working := { service.ctl.working with
        comps := service.ctl.working.comps.write 1 { inUse := true, zone := some 0, primary := none, secondary := none } } }
      lines := { service.lines with counters := (service.lines.counters.write 0 8125#32).write 1 3200#32 } }
    answers (after (.move t1 71204#32 1#8) s) =
      [(.ok, [0#8, 0#8, 1#8] ++ u32 95 ++ u32 3200)] := by decide +kernel

/-- R128: BEGIN_HANDOVER of a consignment behind another ABOARD, at 61,200, expires at 61,800, out of order. -/
theorem test_beginHandover :
    let s := carrying { aboard with id := 71311#32, stop := 4 } { service with
      ctl := { service.ctl with time := 61200 }
      cons := service.cons.write 1 (some { aboard with id := 71315#32, stop := 3 }) }
    let t := after (.beginHandover t1 71311#32) s
    answers t = [(.ok, [0#8, 1#8] ++ u32 61800 ++ [1#8, 1#8])] ∧
      ((answers (after (.beginHandover t1 71311#32) t)).map Prod.fst) = [.ok, .badState] := by decide +kernel

/-- R161: rounds become the nearest interval, midway to the larger. -/
theorem test_setInterval :
    ([0#8, 5#8, 9#8, 20#8, 21#8, 40#8].map fun r => (after (.setInterval t1 r) setup).ctl.working.interval) =
      [1, 6, 12, 12, 30, 30] := by decide +kernel

/-- R160: SET_MARKS 9,000 9,000 stores 8,192 and 8,191. -/
theorem test_setMarks :
    let t := after (.setMarks t1 9000#32 9000#32) setup
    t.ctl.working.upper = 8192 ∧ t.ctl.working.lower = 8191 := by decide +kernel

/-- R180: SET_TIME at 61,290, with an offset that fits and with one that does not. -/
theorem test_setTime :
    let s : State := { service with ctl := { service.ctl with time := 61290 } }
    (after (.setTime t1 1717200000#32) s).ctl.wallOffset = some 1717138710 ∧
      (after (.setTime t1 4000000000#32) s).ctl.wallOffset = some 2147483647 := by decide +kernel

/-- R166 to R169: the first START leaves a delivered part in SETUP with P0 and P1 to convert. -/
theorem test_firstStart :
    let t := after .startComplete (after (.mainPowerReturn { refA := 12800#16, refB := 51200#16, integrity := true }) State.reset)
    t.ctl.mode = .setup ∧ t.ctl.domainValid = true ∧ (t.hist.current.isSome) = true := by decide +kernel

/-! ## Witnesses: the step, the checks and the invariants -/

def readDoors : Instr := .readDoors t1

/-- A port with a command in flight. -/
def inFlightT : State :=
  { service with ports := { service.ports with t := { service.ports.t with
    inFlight := some { command := .commitSetup, tag := 9#8 } } } }

theorem witness_PortChecksComeFirst :
    (header? readDoors = some t1 ∧ group? readDoors = some .readings ∧ isTerminalRestart readDoors = false) ∧
      ((inMode .start).powered = true ∧ (inMode .start).ctl.mode = .start) ∧
      (inFlightT.powered = true ∧ inFlightT.ctl.mode ≠ .start ∧ (inFlightT.ports.at .t).inFlight ≠ none) ∧
      (service.powered = true ∧ service.ctl.mode ≠ .start ∧ (service.ports.at .h).inFlight = none ∧
        header? (.setInterval h1 6#8) = some h1 ∧ group? (.setInterval h1 6#8) = some .config ∧
        holdsGroup service.ctl.working.grants .config .h = false) := by decide +kernel

theorem witness_SettingsChangeOnlyInSetup :
    ∃ t, service.ctl.mode ≠ .setup ∧ (∀ f, Instr.secondAdvance ≠ .mainPowerReturn f) ∧
      (∀ f, Instr.secondAdvance ≠ .resetInputReleased f) ∧ exec .secondAdvance service = .next t :=
  ⟨_, by decide, (by intro f h; cases h), (by intro f h; cases h), rfl⟩

/-- A context that WAITS until second 690. -/
def waiting0 : Context :=
  { slot := 0, begunBy := .h, begin := 90, previous := .aboard, outOfOrder := false, state := .waiting 690 false }

/-- A queue of eight records and four contexts, with a mark to come. -/
def crowded : State :=
  { service with
    pending := [.markRequest]
    marks := [.load 0 0 1#32 3 100 none]
    hist := { service.hist with queue := List.replicate 8 { time := 90, body := .gap 0 0 }, queuedMarks := 8 }
    hand := { service.hand with contexts := List.replicate 4 waiting0 } }

theorem witness_QueueAndContextsStayBounded :
    ∃ t, step crowded = .next t ∧ crowded.queueBounded ∧ crowded.contextsBounded :=
  ⟨_, rfl, by unfold State.queueBounded; decide +kernel, by unfold State.contextsBounded; decide +kernel⟩

/-- Every port with TIME pending and enabled and every link count at its maximum. -/
def attentive : State :=
  { service with
    pending := [.frameTimeout .t]
    ports := service.ports.map fun u => { u with
      timeouts := 65535, breaks := 65535, strays := 65535, errors := 65535, pending := 2048#12, enable := 2048#12,
      attention := true } }

theorem witness_AttentionFollowsTheSets : ∃ t, step attentive = .next t ∧ attentive.portsSound :=
  ⟨_, rfl, fun p => by
    cases p <;> (constructor <;> decide +kernel)⟩

/-- A front end in CONVERTER_FAULT, with a round that makes a check. -/
def faulted : State :=
  { service with
    pending := [.readingsPublished (codes 14600#16 12800#16 51200#16)]
    fe := { service.fe with
      round := some (round0 true)
      ref := { codeA := 0#16, codeB := 0#16, pass := false, consecutive := 3, converterFault := true } } }

theorem witness_ReferenceRecordStaysConsistent : ∃ t, step faulted = .next t ∧ faulted.fe.ref.Sound :=
  ⟨_, rfl, by constructor <;> decide +kernel⟩

/-- A consignment whose DOOR bucket and count stand at their maxima, with a publication for the engine. -/
def heavy : State :=
  carrying { aboard with exposure := { exposure0 with
    buckets := { other := 0, door := 16777215, defrost := 0, unit := 0 }, shocks := 255 } } { service with
    pending := [.exposureStep]
    pubs := { service.pubs with engine := [publication true (-1000)] } }

theorem witness_DosesNeverFallWhileTheSlotIsOccupied : ∃ t, step heavy = .next t ∧ heavy.dosesBounded :=
  ⟨_, rfl, fun i x h => by
    by_cases hi : i = 0
    · subst hi
      have e : heavy.cons.read 0 = some x := h
      have : x = { aboard with exposure := { exposure0 with
          buckets := { other := 0, door := 16777215, defrost := 0, unit := 0 }, shocks := 255 } } := by
        simp [heavy, carrying] at e; exact e.symm
      subst this
      constructor <;> decide
    · have e : heavy.cons.read i = some x := h
      simp [heavy, carrying, Table.read_write_other _ _ hi, service, inMode, State.reset] at e⟩

theorem witness_CommandFramesReadBack :
    header? (.setZone t1 3#8 (List.replicate 49 (15#8, 0xFFFFFFFF#32))) = some t1 ∧
      (commandCode (.setZone t1 3#8 (List.replicate 49 (15#8, 0xFFFFFFFF#32)))).isSome = true ∧
      (Instr.setZone t1 3#8 (List.replicate 49 (15#8, 0xFFFFFFFF#32))).wellFormed = true := by decide +kernel

/-! ## Witnesses: the measurement front end -/

/-- A probe with a held value that contributes, and one that contributes nothing. -/
def goodProbe : Probe :=
  { status := .good, run := 0, raw := some 14600#16, reading := some (.valid (-1850) false false), held := some (-1850) }
def lostProbe : Probe := { goodProbe with status := .lost }

theorem witness_CodesBecomeReadingsAndAir :
    (1#16).toNat ≠ 0 ∧ (1#16).toNat ≠ 65535 ∧ (65534#16).toNat ≠ 65535 ∧ State.reset.fe.ref.converterFault = false ∧
      faulted.fe.ref.converterFault = true ∧ (service.config 0).primary = some 0 ∧ (service.config 0).secondary = some 1 ∧
      goodProbe.contribution.isSome = true ∧ lostProbe.contribution = none := by decide +kernel

/-- A front end whose round is due this second. -/
def dueIn (m : Mode) : State := fragment (fun f => { f with nextStart := some 100, checkDue := 60 }) (inMode m)

/-- A round at its publication second, with the probe table and the reference record given. -/
def publishing (check : Bool) (probe : Probe) (ref : RefRecord) : State :=
  fragment (fun f => { f with round := some (round0 check), probes := f.probes.write 3 probe, ref := ref }) service

/-- SETUP with a commit in flight. -/
def committed0 : State :=
  { setup with ctl := { setup.ctl with commit := some { contents := setup.ctl.working, tag := some 5#8 } } }

theorem witness_ProbeTrimsAreStoredClamped :
    Taken .config t1 setup ∧ Taken .config t1 service ∧ Taken .config t1 committed0 ∧
      (service.ctl.mode ≠ .setup ∧ setup.ctl.mode = .setup ∧ committed0.ctl.mode = .setup ∧ setup.ctl.commit = none ∧
        committed0.ctl.commit ≠ none ∧ (7#8).toNat = (7 : Fin 8).val ∧ 8 ≤ (8#8).toNat ∧
        setup.ctl.working = setup.committed) ∧
      (∀ x ∈ [(-201, -200), (-200, -200), (200, 200), (201, 200)], max (-200) (min 200 (BitVec.ofInt 16 x.1).toInt) = x.2) ∧
      (∀ m ∈ [Mode.setup, .service, .parked], (dueIn m).powered = true ∧ (dueIn m).ctl.mode = m ∧
        (dueIn m).fe.nextStart = some 100 ∧ 100 ≤ (dueIn m).now ∧ (dueIn m).fe.round = none) ∧
      let s := publishing false goodProbe State.reset.fe.ref
      s.powered = true ∧ s.ctl.mode = .service ∧ s.fe.round = some (round0 false) ∧ (round0 false).start + 2 ≤ s.now ∧
        (round0 false).converted.read 3 = true ∧ (s.fe.probes.read 3).status ≠ .unused :=
  ⟨taken .config .setup (by decide) rfl, taken .config .service (by decide) rfl, taken_of (by decide +kernel),
    by decide +kernel⟩

theorem witness_DueRoundStarts :
    ∀ m ∈ [Mode.setup, .service, .parked], (dueIn m).powered = true ∧ (dueIn m).ctl.mode = m ∧
      (dueIn m).fe.nextStart = some 100 ∧ 100 ≤ (dueIn m).now ∧ (dueIn m).fe.round = none := by decide +kernel

def passing : RefRecord := { codeA := 12800#16, codeB := 51200#16, pass := true, consecutive := 0, converterFault := false }
def failing : RefRecord := { codeA := 12800#16, codeB := 0#16, pass := false, consecutive := 2, converterFault := false }

theorem witness_RoundIsPublished :
    (∀ check : Bool, ∀ ref ∈ [passing, failing],
      let s := publishing check goodProbe ref
      s.fe.round = some (round0 check) ∧ (round0 check).start + 2 ≤ s.now ∧ s.powered = true ∧ s.ctl.mode = .service) ∧
      (passing.check 12784#16 51216#16).pass = true ∧ (failing.check 12783#16 51216#16).converterFault = true ∧
      (∀ n ∈ [1, 2], ∀ st ∈ [ProbeStatus.held, .recovering], { goodProbe with status := st, run := n }.status = st ∧
        ({ goodProbe with status := st, run := n }.run < 2 ↔ n = 1)) ∧
      lostProbe.status = .lost ∧ goodProbe.reading = some (.valid (-1850) false false) := by decide +kernel

/-- A publication at which every compartment in use enters (`l`) or leaves SENSOR_LOST, and one at which nothing changes. -/
theorem witness_RoundIsPublished_sensor :
    (∀ l : Bool,
      let s := fragment (fun f => { f with
        probes := Table.const 8 (if l then lostProbe else goodProbe), air := Table.const 4 { airAt (-1850) with lost := !l } })
        (publishing false goodProbe passing)
      let t := after (.readingsPublished (codes (if l then 0#16 else 14600#16) 12800#16 51200#16)) s
      s.inUse 0 = true ∧ (s.fe.air.read 0).lost = !l ∧ (t.fe.air.read 0).lost = l ∧
        (t.fe.probes.read 0).status = (s.fe.probes.read 0).status) ∧
      let s := fragment (fun f => { f with probes := Table.const 8 goodProbe, air := Table.const 4 (airAt (-1850)) })
        (publishing false goodProbe passing)
      let t := after (.readingsPublished (codes 14600#16 12800#16 51200#16)) s
      (∀ c, s.inUse c = true → (t.fe.air.read c).lost = (s.fe.air.read c).lost) ∧
        (∀ i, (t.fe.probes.read i).status = (s.fe.probes.read i).status) ∧
        t.fe.ref.converterFault = s.fe.ref.converterFault := by decide +kernel

theorem witness_ThirdReadingLosesOrRecoversAProbe :
    (∀ check : Bool, ∀ st ∈ [ProbeStatus.held, .recovering],
      let s := publishing check { goodProbe with status := st, run := 2 } passing
      s.fe.round = some (round0 check) ∧ (round0 check).start + 2 ≤ s.now ∧ s.powered = true ∧ s.ctl.mode = .service ∧
        (round0 check).check = check ∧ (round0 check).converted.read 3 = true ∧ (s.fe.probes.read 3).run = 2 ∧
        (s.fe.probes.read 3).status = st ∧ s.fe.ref.converterFault = false ∧
        (s.fe.ref.check 12800#16 51200#16).converterFault = false) ∧
      ((codes 0#16 0#16 0#16).codes.read 3).toNat = 0 ∧ ((codes 65535#16 0#16 0#16).codes.read 3).toNat = 65535 ∧
      (failing.check 12800#16 0#16).converterFault = true ∧
      ((codes 65534#16 0#16 0#16).codes.read 3).toNat ≠ 0 ∧ ((codes 65534#16 0#16 0#16).codes.read 3).toNat ≠ 65535 := by
  decide +kernel

theorem witness_ThirdFailedCheckEntersConverterFault :
    let s := publishing true goodProbe failing
    s.fe.round = some (round0 true) ∧ (round0 true).start + 2 ≤ s.now ∧ s.powered = true ∧ s.ctl.mode = .service ∧
      s.ctl.wakingCheck = false ∧ (round0 true).check = true ∧ s.fe.ref.consecutive = 2 ∧
      s.fe.ref.converterFault = false ∧ (codes 0#16 12783#16 51200#16).refA.toNat < 12784 ∧
      12816 < (codes 0#16 12817#16 51200#16).refA.toNat ∧ (codes 0#16 12800#16 51183#16).refB.toNat < 51184 ∧
      51216 < (codes 0#16 12800#16 51217#16).refB.toNat := by decide +kernel

/-- WAKING with its check begun and the record given. -/
def checking (ref : RefRecord) : State :=
  fragment (fun f => { f with ref := ref })
    { inMode .waking with ctl := { (inMode .waking).ctl with wakingCheck := true } }

/-- Checks that keep the result, change it, and leave CONVERTER_FAULT, of a round and of waking. -/
theorem witness_ThirdFailedCheckEntersConverterFault_others :
    (∀ ref ∈ [passing, failing, { failing with consecutive := 3, converterFault := true }],
      let s := publishing true goodProbe ref
      s.powered = true ∧ s.fe.round = some (round0 true) ∧ (round0 true).start + 2 ≤ s.now ∧ s.ctl.mode = .service ∧
        (checking ref).powered = true ∧ (checking ref).ctl.mode = .waking ∧ (checking ref).ctl.wakingCheck = true) ∧
      (passing.check 12800#16 51200#16).pass = passing.pass ∧ (failing.check 12800#16 51200#16).pass ≠ failing.pass ∧
      (({ failing with consecutive := 3, converterFault := true } : RefRecord).check 12800#16 51200#16).converterFault =
        false := by decide +kernel

/-! ## Witnesses: the line unit -/

/-- Line 0 with the raw level and debounced state given, in SETUP. -/
def lineAt (high active : Bool) (s : State) : State :=
  { s with lines := { s.lines with line := s.lines.line.write 0 { high := high, active := active, candidate := none } } }

theorem witness_LineEditsTakeEffectAtOnce :
    Editable t1 setup ∧ Editable t1 (lineAt true true setup) ∧
      ((0#8).toNat = (0 : Fin 8).val ∧ lineKind 0#8 = some .door ∧ lineKind 1#8 = some .defrost ∧
        lineKind 4#8 = some .unused ∧ level 0#8 = some true ∧ level 1#8 = some false ∧
        (some 4#8 : Option Byte).bind (index 4) = none ∧ (some 3#8 : Option Byte).bind (index 4) = some 3 ∧
        min 255 (256#16).toNat = 255 ∧ min 255 (255#16).toNat = 255 ∧
        setup.entry 0 = { kind := .door, activeHigh := true, debounce := 5, comp := some 0 } ∧
        hasKind (setup.ports.at .t).enable .door = true) ∧
      (setup.doorActiveIn 0 = none ∧ (lineAt true true setup).doorActiveIn 0 = some 0 ∧
        ((lineAt true false setup).lines.line.read 0).high = true) := by
  refine ⟨editable, editable_of ?_, ?_, ?_⟩ <;> decide +kernel

/-- C0 and C1 in use, and line 0 door-active in C0, open since second 50. -/
def opened0 : State :=
  monitor (fun x => { x with door := .allow, openStart := some 50 }) (lineAt true true { setup with
    ctl := { setup.ctl with working := { setup.ctl.working with
      comps := setup.ctl.working.comps.write 1 { inUse := true, zone := some 0, primary := none, secondary := none } } }
    ports := setup.ports.map fun u => { u with enable := 256#12 } })

/-- A line moved from C0 to C1 while active: its last line closes the one, and it is the first to open the other. -/
theorem witness_LineEditsTakeEffectAtOnce_moved :
    Editable t1 opened0 ∧ opened0.doorActiveIn 0 = some 0 ∧ (opened0.lines.line.read 0).high = true ∧
      (opened0.entry 0).comp ≠ some 1 ∧ opened0.inUse 0 = true ∧ opened0.inUse 1 = true ∧
      opened0.zoneOf 0 = some zoneHardFrozen ∧ (opened0.mon.read 0).door = .allow ∧ (opened0.mon.read 1).door = .closed ∧
      (∀ i, i ≠ (0 : Fin 8) → opened0.doorActive 0 i = false ∧ opened0.doorActive 1 i = false) ∧
      (∀ q, hasKind (opened0.ports.at q).enable .door = true) ∧
      (opened0.entry 0).comp ≠ some 3 := by
  refine ⟨editable_of ?_, ?_, ?_, ?_, ?_, ?_, ?_, ?_, ?_, ?_, ?_, ?_⟩
  case refine_11 => intro q; cases q <;> decide +kernel
  all_goals decide +kernel

/-- `s` with line 0 of the kind given. -/
def ofKind (k : LineKind) (comp : Option (Fin 4)) (s : State) : State :=
  { s with ctl := { s.ctl with working := { s.ctl.working with
    lines := s.ctl.working.lines.write 0 { kind := k, activeHigh := true, debounce := 5, comp := comp } } } }

/-- C0 in an overrun of 33 with its DEFROST line active; that line made UNIT_FAULT; and made DEFROST again. -/
def defrosting : State :=
  monitor (fun x => { x with defrost := .overrun, elapsed := 33 }) (ofKind .defrost (some 0) (lineAt true true setup))
def faulting : State := after (.setLine t1 0#8 2#8 0#8 5#16 none) defrosting
def defrostingAgain : State := after (.setLine t1 0#8 1#8 0#8 5#16 (some 0#8)) faulting

theorem witness_LineEditsTakeEffectAtOnce_indications :
    Editable t1 defrosting ∧ Editable t1 faulting ∧ defrosting.inUse 0 = true ∧
      (defrosting.defrostIndication 0 = true ∧ (defrosting.mon.read 0).defrost ≠ .none ∧ defrosting.unitFault 0 = false) ∧
      (faulting.defrostIndication 0 = false ∧ faulting.unitFault 0 = true) ∧
      defrostingAgain.defrostIndication 0 = true ∧ defrostingAgain.unitFault 0 = false :=
  ⟨editable_of (by decide +kernel), editable_of (by decide +kernel), by decide +kernel⟩

/-- R23, R50: an edit that ends C0's defrost and begins its unit fault: DEFROST's mark before UNIT's (log 35). -/
theorem test_editedLineMarks :
    faulting.marks = [.defrost 0 .none 33, .unit 0 .unitFault true 0] ∧
      defrostingAgain.marks = faulting.marks ++ [.defrost 0 .allow 0, .unit 0 .unitFault false 0] := by decide +kernel

/-- The debounce of line 0 set to 0. -/
def undebounced : State :=
  { service with ctl := { service.ctl with working := { service.ctl.working with
    lines := service.ctl.working.lines.write 0 { kind := .door, activeHigh := true, debounce := 0, comp := some 0 } } } }

theorem witness_RawLevelsAreDebounced :
    let s := lineAt true false service
    (service.linesWatched = true ∧ (service.entry 0).kind ≠ .unused ∧ (service.lines.line.read 0).high ≠ true ∧
        service.debounced 0 5 = none ∧ (true == (service.entry 0).activeHigh) ≠ (service.lines.line.read 0).active ∧
        0 < (service.entry 0).debounce ∧ (service.lines.line.read 0).candidate = none) ∧
      (s.linesWatched = true ∧ (s.lines.line.read 0).high ≠ false ∧ s.debounced 0 5 = none ∧
        (false == (s.entry 0).activeHigh) = (s.lines.line.read 0).active) ∧
      (undebounced.linesWatched = true ∧ (undebounced.entry 0).kind ≠ .unused ∧
        (undebounced.lines.line.read 0).high ≠ true ∧ undebounced.debounced 0 0 = none ∧
        (true == (undebounced.entry 0).activeHigh) ≠ (undebounced.lines.line.read 0).active ∧
        (undebounced.entry 0).debounce = 0) := by decide +kernel

/-- Line 0 with a candidate first seen at instant 950, which has stood for its 50 ms at instant 1,000. -/
def settling (active : Bool) (m : Mode) : State :=
  let s := inMode m
  { s with lines := { s.lines with
    line := s.lines.line.write 0 { high := active, active := !active, candidate := some { active := active, instant := 950 } } } }

/-- `s` with C0 out of use. -/
def outOfUse (s : State) : State :=
  { s with ctl := { s.ctl with working := { s.ctl.working with
    comps := s.ctl.working.comps.write 0 { inUse := false, zone := none, primary := none, secondary := none } } } }

theorem witness_LineEventsReachTheirConsumers :
    (∀ active : Bool, ∀ m ∈ [Mode.service, .parked, .dormant],
      (settling active m).linesWatched = true ∧ ((settling active m).entry 0).kind = .door ∧
        ((settling active m).entry 0).comp = some 0 ∧ (settling active m).inUse 0 = true ∧
        ((settling active m).lines.line.read 0).candidate = some { active := active, instant := 950 } ∧
        active = !((settling active m).lines.line.read 0).active ∧
        950 + 10 * ((settling active m).entry 0).debounce ≤ 1000) ∧
      (∀ i, i ≠ (0 : Fin 8) → (settling true .service).doorActive 0 i = false) ∧
      ((settling true .service).mon.read 0).door = .closed ∧
      ((monitor (fun x => { x with door := .overstay, openStart := some 50 }) (settling false .service)).mon.read 0).door =
        .overstay ∧
      (settling false .service).zoneOf 0 = some zoneHardFrozen ∧
      ∀ active : Bool, (outOfUse (settling active .dormant)).inUse 0 = false := by decide +kernel

/-- Line 0 of the kind given, as `settling` has it. -/
def otherLine (k : LineKind) (comp : Option (Fin 4)) (active : Bool) (m : Mode) : State :=
  monitor (fun x => { x with defrost := .overrun, elapsed := 33 }) (ofKind k comp (settling active m))

theorem witness_LineEventsReachTheirConsumers_others :
    (∀ k ∈ [LineKind.defrost, .unitFault, .park], ∀ active : Bool, ∀ m ∈ [Mode.service, .parked, .dormant],
      let s := otherLine k (if k = .defrost then some 0 else none) active m
      s.linesWatched = true ∧ (s.entry 0).kind = k ∧ (s.lines.line.read 0).candidate = some { active := active, instant := 950 } ∧
        active = !(s.lines.line.read 0).active ∧ 950 + 10 * (s.entry 0).debounce ≤ 1000 ∧ s.inUse 0 = true ∧ s.inUse 3 = false) ∧
      ∀ active : Bool,
        let t := fun s : State => after (.lineEvent 0 1000) s
        (let s := otherLine .defrost (some 0) active .service
         (s.entry 0).comp = some 0 ∧ s.defrostIndication 0 = !active ∧ (t s).defrostIndication 0 = active ∧
          (s.mon.read 0).defrost ≠ .none) ∧
        (let s := monitor (fun x => { x with defrostReport := true }) (otherLine .defrost (some 0) active .service)
         (t s).defrostIndication 0 = s.defrostIndication 0) ∧
        (let s := otherLine .unitFault none active .service
         s.unitFault 0 = !active ∧ (t s).unitFault 0 = active) ∧
        ∀ m ∈ [Mode.parked, .dormant],
          let s := otherLine .park none active m
          s.ctl.mode = m ∧ s.parkCondition = !active ∧ (t s).parkCondition = active := by decide +kernel

/-! ## Witnesses: zones, compartments and the monitor -/

theorem witness_CompartmentEditsTakeEffectAtOnce :
    Editable t1 setup ∧
      ((3#8).toNat = (3 : Fin 4).val ∧ yesNo 1#8 = some true ∧ yesNo 0#8 = some false ∧
        optIndex 4 (some 3#8) = some (some 3) ∧ optIndex 8 (some 7#8) = some (some 7) ∧ optIndex 8 none = some none ∧
        setup.inUse 3 = false ∧ setup.inUse 0 = true) ∧
      ∀ p q : Option (Fin 8), (p, q) ∈ [(none, some 7), (some 7, some 7), (some 7, none), (some 6, some 7)] →
        ∃ e : CompConfig, e.primary = p ∧ e.secondary = q ∧
          (e.secondary = none ∨ (e.primary ≠ none ∧ e.primary ≠ e.secondary) ↔ (p, q) ∉ [(none, some 7), (some 7, some 7)]) :=
  ⟨editable, by decide +kernel, fun p q h => ⟨{ inUse := true, zone := none, primary := p, secondary := q }, rfl, rfl, by
    revert p q
    decide⟩⟩

theorem witness_ZoneEditsAreClampedInTwoPasses :
    Editable t1 setup ∧ (3#8).toNat = (3 : Fin 4).val ∧ ¬ ([(15#8, 0#32), (15#8, 1#32)].map Prod.fst).Nodup ∧
      (∃ x ∈ [(16#8, 0#32)], 16 ≤ x.1.toNat) ∧ [(0#8, 9000#32), (15#8, 0#32)] ≠ [] ∧
      ([(0#8, 9000#32), (15#8, 0#32)].map Prod.fst).Nodup ∧ ∀ x ∈ [(0#8, 9000#32), (15#8, 0#32)], x.1.toNat < 16 :=
  ⟨editable, by decide, by decide, ⟨_, List.mem_singleton_self _, by decide⟩, List.cons_ne_nil _ _, by decide, by
    intro x hx; simp at hx; rcases hx with rfl | rfl <;> decide⟩

theorem witness_RefrigerationReportsDriveTheIndications :
    Taken .unitReport t1 service ∧ (0#8).toNat = (0 : Fin 4).val ∧ yesNo 1#8 = some true ∧ yesNo 0#8 = some false ∧
      (service.inUse 0 = true ∧ service.defrostIndication 0 = false ∧ (service.unitLine || true) ≠ service.unitFault 0) ∧
      ((monitor (fun x => { x with defrostReport := true, defrost := .overrun }) service).defrostIndication 0 = true ∧
        (monitor (fun x => { x with defrostReport := true, defrost := .overrun }) service).defrostLine 0 = false) ∧
      (service.inUse 3 = false ∧ (service.defrostLine 0 || false) = service.defrostIndication 0 ∧
        (service.unitLine || false) = service.unitFault 0) :=
  ⟨taken .unitReport .service (by decide) rfl, by decide +kernel⟩

theorem witness_SetpointReportsDecideTheConflict :
    Taken .unitReport t1 service ∧ (0#8).toNat = (0 : Fin 4).val ∧ service.inUse 0 = true ∧
      service.zoneOf 0 = some zoneHardFrozen ∧
      max (-5500) (min 8500 (BitVec.ofInt 16 (-1499)).toInt) = -1499 ∧ zoneHardFrozen.nominal < -1499 ∧
      max (-5500) (min 8500 (BitVec.ofInt 16 (-1500)).toInt) = -1500 ∧ ¬ zoneHardFrozen.nominal < -1500 ∧
      (service.mon.read 0).conflict = false :=
  ⟨taken .unitReport .service (by decide) rfl, by decide +kernel⟩

/-- C0 open since second 100, one second past its limit of 180. -/
def overstaying : State :=
  monitor (fun x => { x with door := .allow, openStart := some 100, overstayDue := true })
    { service with ctl := { service.ctl with time := 281 } }

def episode0 : Episode :=
  { number := 1, line := 0, comp := 0, start := 90, stop := none, peak := none, overstay := false, interrupted := false }

theorem witness_OverstayAndPeaksReachTheEpisodes :
    ((overstaying.mon.read 0).overstayDue = true ∧ overstaying.inUse 0 = true ∧
        overstaying.zoneOf 0 = some zoneHardFrozen ∧ (overstaying.mon.read 0).door = .allow ∧
        (overstaying.mon.read 0).openStart = some 100 ∧ ((100 : Nat) : Int) + 180 < (overstaying.now : Int)) ∧
      let s : State := { service with
        pubs := { service.pubs with line := [publication false (-1000)] }
        lines := { service.lines with log := [episode0, { episode0 with stop := some 95 }, { episode0 with comp := 1 }] } }
      s.pubs.line = [publication false (-1000)] ∧ s.lines.log[0]? = some episode0 ∧ episode0.stop = none ∧
        (publication false (-1000)).air.read 0 = some (airAt (-1000)) ∧ (airAt (-1000)).lost = false ∧
        (publication false (-1000)).air.read 1 = none := by decide +kernel

/-- The monitor with a publication of air `a` to take, and C0 changed by `f`. -/
def judging (parked : Bool) (a : Int) (f : Compartment → Compartment) : State :=
  monitor f { inMode (if parked then .parked else .service) with
    pubs := { service.pubs with monitor := [publication parked a] } }

/-- C0 has the nominal limit -1,500, hysteresis 200 and alarm delay 3 of Z0. -/
theorem witness_AirIsJudgedAgainstTheLimit :
    (∀ parked : Bool, ∀ a ∈ [(-1500 : Int), -1499, -1700, -1699],
      (judging parked a id).pubs.monitor = [publication parked a] ∧
        ((judging parked a id).ctl.mode = .service ∨ (judging parked a id).ctl.mode = .parked) ∧
        (judging parked a id).inUse 0 = true ∧ (judging parked a id).zoneOf 0 = some zoneHardFrozen ∧
        ((judging parked a id).config 0).primary ≠ none ∧
        (publication parked a).air.read 0 = some (airAt a) ∧ (airAt a).lost = false ∧ (airAt a).a = some a) ∧
      ((judging false (-1500) id).mon.read 0).excursion = .clear ∧ zoneHardFrozen.alarmDelay ≠ 0 ∧
      (let f := fun x : Compartment => { x with excursion := .pending, pending := 1 }
       ((judging false (-1499) f).mon.read 0).excursion = .pending ∧
        ((min (((judging false (-1499) f).mon.read 0).pending + 1) 60 : Nat) : Int) < zoneHardFrozen.alarmDelay) ∧
      (let f := fun x : Compartment => { x with excursion := .pending, pending := 2 }
       ((judging false (-1499) f).mon.read 0).excursion = .pending ∧
        zoneHardFrozen.alarmDelay ≤ ((min (((judging false (-1499) f).mon.read 0).pending + 1) 60 : Nat) : Int)) ∧
      (let f := fun x : Compartment => { x with excursion := .active, pending := 3, estimate := some (-1400), startDue := false }
       ((judging false (-1700) f).mon.read 0).excursion = .active ∧ (-1700 : Int) ≤ -1500 - zoneHardFrozen.hysteresis ∧
        (-1500 : Int) - zoneHardFrozen.hysteresis < -1699) := by decide +kernel

/-- C0 SENSOR_LOST, without air and absent in the publication, and a compartment without a zone; no compartment enters ACTIVE
where the excursion of C0 is ACTIVE already. -/
theorem witness_AirIsJudgedAgainstTheLimit_kept :
    (∀ r ∈ [none, some { airAt (-1000) with lost := true }, some { airAt (-1000) with a := none }],
      let p := { publication false (-1000) with air := (Table.const 4 none).write 0 r }
      let s := judging false (-1000) fun x => { x with excursion := .pending, pending := 2 }
      let u : State := { s with pubs := { s.pubs with monitor := [p] } }
      u.pubs.monitor = [p] ∧ (u.mon.read 0).excursion = .pending ∧ u.zoneOf 0 = some zoneHardFrozen ∧
        ∀ q ∈ p.air.read 0, q.lost = true ∨ q.a = none) ∧
      (judging false (-1000) id).zoneOf 3 = none ∧
      let s := judging false (-1000) fun x => { x with excursion := .active }
      ∀ d, ((after .airExcursionEvaluation s).mon.read d).excursion = .active → (s.mon.read d).excursion = .active := by
  decide +kernel

/-- Both rounds, with the estimate's start due, without an estimate, and with one to filter. -/
theorem witness_AirIsJudgedAgainstTheLimit_estimate :
    ∀ parked due : Bool, ∀ e ∈ [none, some (-1400)],
      let s := judging parked (-1700) fun x => { x with startDue := due, estimate := e }
      (s.mon.read 0).startDue = due ∧ (s.mon.read 0).estimate = e ∧ s.pubs.monitor = [publication parked (-1700)] ∧
        s.inUse 0 = true ∧ s.zoneOf 0 = some zoneHardFrozen ∧ (s.config 0).primary ≠ none := by decide +kernel

theorem witness_AirIsJudgedAgainstTheLimit_noDelay :
    let s := judging false (-1499) id
    let z := { zoneHardFrozen with alarmDelay := 0 }
    let u : State := { s with ctl := { s.ctl with working := { s.ctl.working with zones := s.ctl.working.zones.write 0 z } } }
    u.pubs.monitor = [publication false (-1499)] ∧ u.inUse 0 = true ∧ u.zoneOf 0 = some z ∧ z.alarmDelay = 0 ∧
      (u.config 0).primary ≠ none ∧
      (u.mon.read 0).excursion = .clear := by decide +kernel

def withComp (c : Fin 4) (e : CompConfig) : Settings := { defaultSettings with comps := defaultSettings.comps.write c e }

/-- R40: in use with a zone and without a primary probe there is no limit in effect; with one there is. -/
theorem test_limit :
    let f := fun p : Option (Fin 8) => ({ setup with ctl := { setup.ctl with
      working := withComp 0 { inUse := true, zone := some 0, primary := p, secondary := none } } } : State).limit 0
    f none = none ∧ f (some 7) = some (-1500) := by decide +kernel

theorem witness_RecoveryAndDefrostAreCounted :
    (∀ k ∈ [6, 7],
      let s := judging true (-1700) fun x => { x with door := .recovery, recovery := some k, defrost := .allow, elapsed := 264 }
      s.pubs.monitor = [publication true (-1700)] ∧ s.inUse 0 = true ∧ (s.mon.read 0).door = .recovery ∧
        (s.mon.read 0).recovery = some k ∧ s.zoneOf 0 = some zoneHardFrozen ∧ (s.mon.read 0).defrost = .allow ∧
        zoneHardFrozen.defrostMax ≤ ((min ((s.mon.read 0).elapsed + 6) 540 : Nat) : Int)) ∧
      ((min (263 + 6) 540 : Nat) : Int) < zoneHardFrozen.defrostMax := by decide +kernel

/-! ## Witnesses: the exposure engine -/

/-- Each clause of the statement: E set and unset, an air value and none, armed and disarmed at the two heat-shock lines. -/
theorem witness_SubStepRunsTheFiveStages :
    exposure0.e = some (-2000) ∧ ({ exposure0 with e := none } : Exposure).e = none ∧
      ({ exposure0 with e := none } : Exposure).subStep zoneHardFrozen none .door =
        { exposure0 with e := none, lost := 1, lostSeen := true } ∧
      (let x : Exposure := { exposure0 with e := none }
       let y := x.subStep zoneHardFrozen (some (-1199)) .door
       y.e = some (-1199) ∧ zoneHardFrozen.soften < -1199 ∧ x.e = none ∧ decide ((-1199 : Int) ≤ zoneHardFrozen.soften) = false) ∧
      (let x : Exposure := { exposure0 with e := some (-1200) }
       (x.subStep zoneHardFrozen (some (-1200)) .door).e = some (-1200) ∧ x.armed = true ∧
        (-1200 : Int) ≤ zoneHardFrozen.soften) ∧
      (let x : Exposure := { exposure0 with e := some (-1500), armed := false }
       (x.subStep zoneHardFrozen (some (-1500)) .door).e = some (-1500) ∧
        (-1500 : Int) ≤ zoneHardFrozen.soften - zoneHardFrozen.shockHysteresis) ∧
      (let x : Exposure := { exposure0 with e := some (-1499), armed := false }
       (x.subStep zoneHardFrozen (some (-1499)) .door).e = some (-1499) ∧
        zoneHardFrozen.soften - zoneHardFrozen.shockHysteresis < -1499) := by decide +kernel

theorem witness_EngineStepsEveryConsignmentInCustody :
    heavy.pubs.engine = [publication true (-1000)] ∧ heavy.cons.read 1 = none ∧
      (heavy.cons.read 0).map (fun x => x.inCustody) = some true ∧ heavy.zoneOf 0 = some zoneHardFrozen ∧
      (publication true (-1000)).air.read 0 = some (airAt (-1000)) ∧ (airAt (-1000)).a ≠ none ∧
      ((carrying listed heavy).cons.read 0).map (fun x => x.inCustody) = some false ∧
      causeDose.getLsbD 0 = true ∧ exposure0.triggered.getLsbD 0 = false := by decide +kernel

/-! ## Witnesses: the manifest -/

theorem witness_ListFillsTheLowestFreeSlot :
    Taken .manifest t1 (carrying listed service) ∧ (carrying listed service).ctl.mode = .service ∧
      (0#8).toNat = (0 : Fin 4).val ∧ (carrying listed service).inUse 0 = true ∧ (1#8 : Byte) ≠ 0#8 ∧
      (none : Option (BitVec 32)) ≠ some 0#32 ∧
      (∀ i x, (carrying listed service).cons.read i = some x → x.id ≠ 71205#32) ∧
      (carrying listed service).cons.read 1 = none ∧ ∀ i, i < (1 : Fin 32) → (carrying listed service).cons.read i ≠ none :=
  ⟨⟨rfl, by decide, rfl, rfl⟩, rfl, by decide, by decide +kernel, by decide, by decide,
    all_of (P := fun _ (x : Consignment) => x.id ≠ 71205#32) (by decide +kernel), by decide +kernel, by decide +kernel⟩

theorem witness_LoadTakesCustody :
    ∀ m ∈ [Mode.service, .parked, .waking, .dormant],
      Taken .manifest t1 (carrying listed (inMode m)) ∧
        ((carrying listed (inMode m)).byId 71204#32 = some (0, listed) ∧ listed.state = .listed ∧
          (carrying listed (inMode m)).inUse listed.comp = true ∧
          (carrying listed (inMode m)).zoneOf listed.comp = some zoneHardFrozen) := by
  intro m hm
  have h : m ≠ .start := by rintro rfl; simp at hm
  refine ⟨⟨rfl, h, rfl, rfl⟩, ?_⟩
  revert m
  decide +kernel

theorem witness_MoveClosesOffTheDoorSeconds :
    Taken .manifest t1 (carrying aboard service) ∧ (0#8).toNat = (0 : Fin 4).val ∧ (3#8).toNat = (3 : Fin 4).val ∧
      (carrying aboard service).byId 71204#32 = some (0, aboard) ∧ aboard.state = .aboard ∧ aboard.doorBase = some 0#32 ∧
      (carrying aboard service).inUse 0 = true ∧ (carrying aboard service).inUse 3 = false ∧
      (carrying listed service).byId 71204#32 = some (0, listed) ∧ listed.state = .listed ∧
      (carrying { aboard with state := .handingOver } service).byId 71204#32 =
        some (0, { aboard with state := .handingOver }) :=
  ⟨⟨rfl, by decide, rfl, rfl⟩, by decide +kernel⟩

/-- Claim 7, of the consignment in slot 0. -/
def claim0 : Claim :=
  { number := 7, cons := some (0, 71204#32), comp := 0, causes := causeDose, state := .gathering, first := 1, last := none,
    frontCut := false, endCut := false, opened := 90, snapshot := none, receipt := none, reason := none }

def claimed : Consignment := { aboard with claim := some 7, claimed := causeDose }

/-- `s` with the claim `k` in claim slot 0. -/
def claiming (k : Claim) (s : State) : State :=
  { s with claims := { s.claims with table := s.claims.table.write 0 (some k), counter := 7 } }

theorem witness_UnloadAndDropEndTheOccupancy :
    Taken .manifest t1 (carrying aboard service) ∧ Taken .manifest t1 (claiming claim0 (carrying claimed service)) ∧
      (carrying aboard service).byId 71204#32 = some (0, aboard) ∧ aboard.state = .aboard ∧ aboard.claim = none ∧
      aboard.doorBase = some 0#32 ∧ aboard.custodyStart = some 40 ∧ aboard.custodyEnd = none ∧
      (carrying aboard service).claims.requests = [] ∧
      (claiming claim0 (carrying claimed service)).byId 71204#32 = some (0, claimed) ∧
      (claiming claim0 (carrying claimed service)).claimOf claimed = some (0, claim0) ∧ claim0.state = .gathering ∧
      (carrying listed service).byId 71204#32 = some (0, listed) ∧
      (carrying { claimed with state := .unloaded } service).byId 71204#32 = some (0, { claimed with state := .unloaded }) ∧
      (carrying { aboard with state := .handingOver } service).byId 71204#32 =
        some (0, { aboard with state := .handingOver }) ∧
      let k := { claim0 with state := .presented }
      (claiming k (carrying claimed service)).claimOf claimed = some (0, k) ∧ k.state ≠ .gathering ∧
        (carrying aboard service).claimOf aboard = none :=
  ⟨taken_of (by decide +kernel), taken_of (by decide +kernel), by decide +kernel⟩

/-! ## Witnesses: claims -/

def hot : Consignment := { aboard with exposure := { exposure0 with triggered := causeDose ||| causeHard } }
def request0 : ClaimRequest := { slot := 0, id := 71204#32, cause := causeDose, comp := 0, second := 100 }

def requesting (s : State) : State := { s with claims := { s.claims with requests := [request0] } }

theorem witness_ClaimRequestsOpenOrExtendAClaim :
    (let s := requesting (carrying hot service)
     s.powered = true ∧ s.claims.requests = [request0] ∧ s.cons.read request0.slot = some hot ∧ hot.id = request0.id ∧
      hot.inCustody = true ∧ hot.claim = none ∧ hot.claimed &&& request0.cause ≠ request0.cause ∧ s.claims.table.read 0 = none ∧ (∀ a, a < (0 : Fin 16) → s.claims.table.read a ≠ none) ∧
      hot.startSequence = some 1 ∧
      setSize (s.claims.pins ||| (s.hist.sectorsHolding (max 1 s.hist.coveredFrom) s.hist.newest ||| s.hist.writingSet)) ≤
        s.hist.usable - 4) ∧
      (let s := requesting (claiming claim0 (carrying claimed service))
       s.powered = true ∧ s.claims.requests = [request0] ∧ s.cons.read request0.slot = some claimed ∧ claimed.inCustody = true ∧
        claimed.id = request0.id ∧
        s.claimOf claimed = some (0, claim0) ∧ claim0.state = .gathering ∧
        claim0.causes &&& request0.cause = request0.cause) ∧
      (let k := { claim0 with causes := causeHard }
       (requesting (claiming k (carrying claimed service))).claimOf claimed = some (0, k) ∧
        k.causes &&& request0.cause ≠ request0.cause) ∧
      (let s := requesting (carrying hot { service with claims := { service.claims with table := Table.const 16 (some claim0) } })
       s.powered = true ∧ s.claims.requests = [request0] ∧ s.cons.read request0.slot = some hot ∧ hot.claim = none ∧
        ∀ i, s.claims.table.read i ≠ none) := by decide +kernel

/-- The claim of the cause is gone, and its request still waits. -/
theorem witness_ClaimRequestsOpenOrExtendAClaim_claimed :
    let x := { hot with claimed := causeDose ||| causeHard }
    let s := requesting (carrying x service)
    s.powered = true ∧ s.claims.requests = [request0] ∧ s.cons.read request0.slot = some x ∧ x.id = request0.id ∧
      x.inCustody = true ∧ x.claim = none ∧ x.claimed &&& request0.cause = request0.cause := by decide +kernel

/-- R109, R122: DOSE opens a claim with HARD; withdrawn, it is not opened again by HARD's request. -/
theorem test_withdrawnCauseStaysClaimed :
    let s := carrying hot service
    let q := { s with claims := { s.claims with requests := [request0, { request0 with cause := causeHard }] } }
    let t := after .claimRequest (after (.withdrawClaim t1 1#32) (after .claimRequest q))
    t.claims.requests = [] ∧ t.claimCount = 0 ∧ t.claims.counter = 1 := by decide +kernel

/-- Records of the sequences and seconds from `first` on, in a sector. -/
def sectorFrom (st : SectorState) (first n : Nat) : Sector :=
  { state := st, slots := (List.range n).map fun k => .record { sequence := first + k, time := first + k, body := .gap 0 0 },
    voids := 0, touched := false }

/-- Records 20 to 52 in sectors 15, 0, 1 and 2, the one being written, and a claim request of `x`. -/
def windowed (pins : BitVec 16) (x : Consignment) : State :=
  let s := requesting (carrying x service)
  { s with
    hist := { s.hist with
      sectors := (((s.hist.sectors.write 15 (sectorFrom .full 20 10)).write 0 (sectorFrom .full 30 10)).write 1
        (sectorFrom .full 40 10)).write 2 (sectorFrom .writing 50 3)
      current := some 2, next := some 3, newest := 52 }
    claims := { s.claims with pins := pins } }

/-- The pins with what a window from `first` needs, and whether it fits, as the statement has them. -/
def fitsFrom (s : State) (first : Nat) : Bool :=
  let p := s.claims.pins ||| (s.hist.sectorsHolding first s.hist.newest ||| s.hist.writingSet)
  decide (p = s.claims.pins) || decide (setSize p ≤ s.hist.usable - 4)

/-- Custody since record 20; and custody since second `n` without a start sequence. -/
def since20 : Consignment := { hot with startSequence := some 20 }
def unstarted (outstanding : Bool) (n : Nat) : Consignment :=
  { hot with startSequence := none, loadMarkOutstanding := outstanding, custodyStart := some n }

/-- A window that fits, one cut to its last sector, and one that fits nowhere. -/
theorem witness_ClaimRequestsOpenOrExtendAClaim_windows :
    (windowed 0#16 since20).hist.coveredFrom = 20 ∧ (windowed 0#16 since20).claims.requests = [request0] ∧
      (windowed 0#16 since20).claims.table.read 0 = none ∧
      ([0#16, 0x3FF8#16, 0x7FF8#16].map fun pins => [20, 40, 50, 53].map (fitsFrom (windowed pins since20))) =
        [[true, true, true, true], [false, false, true, true], [false, false, false, false]] := by decide +kernel

/-- No start sequence: the LOAD mark outstanding, and lost with and without a record of the custody's time. -/
theorem witness_ClaimRequestsOpenOrExtendAClaim_unstarted :
    ((windowed 0#16 (unstarted true 35)).cons.read 0).map (fun x => (x.startSequence, x.loadMarkOutstanding)) = some (none, true) ∧
      ([35, 60].map fun n => (windowed 0#16 (unstarted false n)).hist.readable.any fun q =>
        decide (20 ≤ q.sequence) && decide (n ≤ q.time)) = [true, false] := by decide +kernel

theorem witness_ClaimRequestsOpenOrExtendAClaim_frozen :
    let k := { claim0 with state := .presented }
    let x := { hot with claim := some 7 }
    (requesting (claiming k (carrying x service))).claimOf x = some (0, k) ∧ k.state ≠ .gathering := by decide +kernel

/-- The window of the claim opened: its first, its last, FRONT_CUT and END_CUT. -/
def openedWindow (pins : BitVec 16) (x : Consignment) : List Nat × List Bool :=
  match (after .claimRequest (windowed pins x)).claims.table.read 0 with
  | some k => (k.first :: k.last.toList, [k.frontCut, k.endCut])
  | none => ([], [])

/-- R112, R115: the windows of those claims. -/
theorem test_windows :
    ([0#16, 0x3FF8#16, 0x7FF8#16].map fun pins => openedWindow pins since20) =
        [([20], [false, false]), ([50], [true, false]), ([53, 52], [true, true])] ∧
      ([true, false].map fun b => openedWindow 0#16 (unstarted b 35)) =
        [([53], [false, false]), ([35], [true, false])] := by decide +kernel

def publishedToClaims (s : State) : State :=
  { s with pubs := { s.pubs with claims := [publication false (-1000)] } }

theorem witness_LateAllocationServesTheLowestSlotFirst :
    ((publishedToClaims (carrying aboard service)).pubs.claims = [publication false (-1000)] ∧
        ∀ j x, (publishedToClaims (carrying aboard service)).cons.read j = some x →
          x.inCustody = false ∨ x.claim ≠ none ∨ x.exposure.triggered &&& ~~~ x.claimed = 0#5) ∧
      let s := publishedToClaims { carrying aboard service with cons := (carrying aboard service).cons.write 1 (some hot) }
      s.pubs.claims = [publication false (-1000)] ∧ s.cons.read 1 = some hot ∧ hot.inCustody = true ∧ hot.claim = none ∧
        hot.exposure.triggered &&& ~~~ hot.claimed ≠ 0#5 ∧
        (∀ a y, a < (1 : Fin 32) → s.cons.read a = some y →
          y.inCustody = false ∨ y.claim ≠ none ∨ y.exposure.triggered &&& ~~~ y.claimed = 0#5) ∧
        s.claims.table.read 0 = none ∧ ∀ a, a < (0 : Fin 16) → s.claims.table.read a ≠ none :=
  ⟨⟨rfl, all_of (P := fun _ (x : Consignment) =>
      x.inCustody = false ∨ x.claim ≠ none ∨ x.exposure.triggered &&& ~~~ x.claimed = 0#5) (by decide +kernel)⟩,
    rfl, by decide +kernel, by decide, rfl, by decide,
    fun a y ha h => all_of (t := (carrying aboard service).cons) (P := fun _ (x : Consignment) =>
      x.inCustody = false ∨ x.claim ≠ none ∨ x.exposure.triggered &&& ~~~ x.claimed = 0#5) (by decide +kernel) a y
      (by have e := h
          simp only [publishedToClaims] at e
          rwa [Table.read_write_other _ _ (ne_of_lt ha)] at e),
    by decide +kernel, by decide +kernel⟩

/-- The context of slot 0, DECIDING with `n` seconds left. -/
def deciding0 (n : Nat) (v : Verdict) (second : Bool) : Context :=
  let r : Receipt := { service.receiptBody aboard false false v 0 [] true with previous := 0#32 }
  let d : Decision := { receipt := r, secondAttempt := second, tag := 1#8 }
  { waiting0 with state := .deciding n d }

/-- Claim 7 with its window ending at 10, and the history acknowledged through `acked` of 10. -/
def settling7 (state : ClaimState) (acked : Nat) : State :=
  claiming { claim0 with state := state, last := some 10 }
    (carrying claimed { service with hist := { service.hist with newest := 10, acked := acked } })

theorem witness_RemovedClaimsGiveUpTheirPins :
    (∀ st ∈ [ClaimState.gathering, .opened, .presented, .orphaned], ∀ a ∈ [9, 10],
      Taken .claims t1 (settling7 st a)) ∧
      (∀ st ∈ [ClaimState.gathering, .opened, .presented, .orphaned], ∀ a ∈ [9, 10],
        (settling7 st a).claimByNumber (7#32).toNat = some (0, { claim0 with state := st, last := some 10 }) ∧
        (settling7 st a).hist.stalled = false ∧ ((some 10).getD (settling7 st a).hist.newest ≤ (settling7 st a).hist.acked ↔ a = 10) ∧
        (settling7 st a).claimDeciding { claim0 with state := st, last := some 10 } = false) ∧
      let s := { settling7 .gathering 10 with hand := { service.hand with contexts := [deciding0 5 .accept false] } }
      s.claimDeciding { claim0 with last := some 10 } = true :=
  ⟨fun _ _ _ _ => ⟨rfl, (show Mode.service ≠ .start by decide), rfl, rfl⟩, by decide +kernel, by decide +kernel⟩

/-! ## Witnesses: hand-over and receipts -/

def presenting : Consignment := { aboard with state := .handingOver }

/-- `s` with the contexts given. -/
def within (cs : List Context) (s : State) : State := { s with hand := { s.hand with contexts := cs } }

theorem witness_BeginOpensAContext :
    (∀ m ∈ [Mode.service, .parked, .waking], Taken .handoverBegin t1 (carrying aboard (inMode m)) ∧
      (carrying aboard (inMode m)).byId 71204#32 = some (0, aboard)) ∧
      aboard.state = .aboard ∧ (carrying presenting service).byId 71204#32 = some (0, presenting) ∧
      presenting.state ≠ .aboard ∧ presenting.state ≠ .returned ∧
      (within (List.replicate 3 waiting0) service).hand.contexts.length < 4 ∧
      4 ≤ (within (List.replicate 4 waiting0) service).hand.contexts.length ∧
      ∃ i, i ≠ (0 : Fin 32) ∧
        ((carrying aboard { service with cons := service.cons.write 31 (some { aboard with stop := 2 }) }).cons.read i).map
          (fun y => (y.state, decide (y.stop < aboard.stop))) = some (.aboard, true) :=
  ⟨fun m hm => ⟨⟨rfl, by rintro h; change m = .start at h; subst h; simp at hm, rfl, rfl⟩, by
      revert m; decide +kernel⟩, by decide +kernel⟩

theorem witness_WaitingContextsEndByCancelOrExpiry :
    (∀ c ∈ [waiting0, { waiting0 with begunBy := .t }, deciding0 5 .accept false, { waiting0 with state := .waiting 100 true }],
      let s := within [c] (carrying presenting service)
      s.cons.read 0 = some presenting ∧ s.contextOf 0 = some c ∧ s.slotOf 71204#32 = some 0 ∧ s.powered = true ∧
        s.ctl.mode ≠ .start) ∧
      Taken .handoverBegin t1 (within [waiting0] (carrying presenting service)) ∧
      Taken .handoverBegin h1 (within [{ waiting0 with begunBy := .t }] (carrying presenting service)) ∧
      h1.port ≠ .t ∧ 100 ≤ service.now :=
  ⟨by decide +kernel, taken_of (by decide +kernel), taken_of (by decide +kernel), by decide +kernel⟩

def handing : State := within [waiting0] (carrying presenting service)

theorem witness_DecideFixesTheReceipt_refused :
    Taken .handoverDecide h1 handing ∧
      (verdict 0#8 = none ∧ verdict 1#8 = some .accept ∧ verdict 2#8 = some .acceptWithClaim ∧ verdict 3#8 = some .refuse ∧
        verdict 4#8 = none ∧ 15 < (16#8).toNat ∧ (15#8).toNat ≤ 15 ∧ (List.replicate 15 0#8).length ≠ 16 ∧
        (List.replicate 16 0#8).length = 16) ∧
      (service.byId 71204#32 = none ∧ handing.byId 71204#32 = some (0, presenting) ∧
        (carrying presenting service).contextOf 0 = none ∧ handing.contextOf 0 = some waiting0 ∧
        (within [deciding0 5 .accept false] handing).deciding ≠ none) ∧
      let s : State := { handing with hand := { handing.hand with retired := 15#4 } }
      s.hand.writable = false ∧ s.deciding = none :=
  ⟨taken_of (by decide +kernel), by decide +kernel⟩

theorem witness_DecideFixesTheReceipt :
    (handing.deciding = none ∧ handing.hand.writable = true ∧ waiting0.state = .waiting 690 false ∧
        presenting.inCustody = true ∧ presenting.doorBase = some 0#32 ∧ presenting.custodyStart = some 40 ∧
        presenting.custodyEnd = none ∧ presenting.claim = none ∧ handing.claims.table.read 0 = none) ∧
      (∀ i, ({ handing with claims := { handing.claims with table := Table.const 16 (some claim0) } } : State).claims.table.read i ≠
        none) ∧
      (∀ st ∈ [ClaimState.gathering, .presented],
        let k := { claim0 with state := st }
        let x := { presenting with claim := some 7 }
        let s := within [waiting0] (claiming k (carrying x service))
        s.claimOf x = some (0, k) ∧ s.byId 71204#32 = some (0, x) ∧ s.contextOf 0 = some waiting0 ∧ s.deciding = none ∧
          s.hand.writable = true) ∧
      ∀ a q, handing.claims.table.read a = some q → q.number ≠ nextNumber handing.claims.counter :=
  ⟨by decide +kernel, by decide +kernel, by decide +kernel,
    all_of (P := fun _ (q : Claim) => q.number ≠ nextNumber handing.claims.counter) (by decide +kernel)⟩

/-- A receipt write requested, and one in flight, at slot `i` of block 0. -/
def writing (c : Context) (i : Fin 16) (s : State) : State :=
  { s with
    hand := { s.hand with contexts := [c], slot := i }
    bank := { s.bank with busy := some .receiptWrite } }

theorem witness_ReceiptWritesEndTheHandOver :
    (let s : State := { handing with bank := { handing.bank with queue := [.receiptWrite] } }
     s.powered = true ∧ s.bank.busy = none ∧ s.bank.queue = [.receiptWrite] ∧ s.hand.isRetired s.hand.block = false ∧
      (s.hand.blocks.read s.hand.block).read s.hand.slot = .empty ∧ s.hand.due s.hand.block = false) ∧
      (let b : Table ReceiptSlot 16 := (Table.const 16 (.void .garbage)).write 0 .empty
       let s : State := { handing with
        bank := { handing.bank with queue := [.receiptWrite] }
        hand := { handing.hand with blocks := handing.hand.blocks.write 0 b } }
       s.powered = true ∧ s.bank.busy = none ∧ s.hand.isRetired s.hand.block = false ∧
        (s.hand.blocks.read s.hand.block).read s.hand.slot = .empty ∧ s.hand.due s.hand.block = true) ∧
      (∀ v ∈ [Verdict.accept, .refuse], ∀ i ∈ [(14 : Fin 16), 15],
        let c := deciding0 5 v false
        let s := writing c i (carrying presenting service)
        s.bank.busy = some .receiptWrite ∧ s.claims.requests = [] ∧ s.deciding = some c ∧
          (∀ q ∈ s.hand.contexts, q.isDeciding = true → q = c) ∧ s.cons.read c.slot = some presenting ∧
          presenting.inCustody = true ∧ presenting.doorBase = some 0#32 ∧ s.hand.slot = i) ∧
      let s := writing (deciding0 5 .accept false) 0 (claiming claim0 (carrying { presenting with claim := some 7 } service))
      s.claimOf { presenting with claim := some 7 } = some (0, claim0) ∧ claim0.state = .gathering := by decide +kernel

/-- A consignment whose claim was frozen before, and one without a claim. -/
theorem witness_ReceiptWritesEndTheHandOver_frozen :
    (let k := { claim0 with state := .presented }
     let x := { presenting with claim := some 7 }
     let s := writing (deciding0 5 .accept false) 0 (claiming k (carrying x service))
     s.claimOf x = some (0, k) ∧ k.state ≠ .gathering ∧ s.cons.read 0 = some x ∧ s.bank.busy = some .receiptWrite) ∧
      (writing (deciding0 5 .accept false) 0 (carrying presenting service)).claimOf presenting = none := by decide +kernel

theorem witness_FailedReceiptWritesAreMadeTwice :
    ∀ second : Bool,
      let c := deciding0 1 .accept second
      let s := writing c 14 (carrying presenting service)
      s.hand.slot.val + 1 < 16 ∧ s.bank.busy = some .receiptWrite ∧ s.deciding = some c ∧
        (∀ q ∈ s.hand.contexts, q.isDeciding = true → q = c) ∧ s.hand.isRetired s.hand.block = false ∧
        (s.hand.blocks.read s.hand.block).read 15 = .empty := by decide +kernel

theorem witness_BlocksAreErasedOnceAcknowledged :
    (let s : State := { service with bank := { service.bank with queue := [.blockErase 1] } }
     s.deciding = none ∧ s.powered = true ∧ s.bank.busy = none ∧ s.bank.queue = [.blockErase 1]) ∧
      (∀ second : Bool, ∀ b ∈ [(0 : Fin 4), 1],
        let s : State := { service with
          bank := { service.bank with busy := some (.blockErase b) }
          hand := { service.hand with erasing := some b, secondErase := second } }
        s.deciding = none ∧ s.bank.busy = some (.blockErase b) ∧ s.hand.secondErase = second ∧ (s.hand.block = b ↔ b = 0)) ∧
      Taken .receiptAck t1 service ∧ service.deciding = none ∧ service.hand.nextBlock = some 1 ∧
      (service.hand.block = 0 ∧ (1 : Fin 4).val = ((0 : Fin 4).val + 1) % 4 ∧ service.hand.isRetired 1 = false) ∧
      (let h : HandOver := { service.hand with retired := 6#4 }
       (3 : Fin 4).val = ((0 : Fin 4).val + 3) % 4 ∧ h.isRetired 3 = false ∧ h.isRetired 1 = true ∧ h.isRetired 2 = true) ∧
      (let b : Table ReceiptSlot 16 := Table.const 16 (.void .garbage)
       let s : State := { service with hand := { service.hand with blocks := service.hand.blocks.write 0 b } }
       s.hand.due s.hand.block = true) ∧
      let b : Table ReceiptSlot 16 := Table.const 16 (.void .garbage)
      let s : State := { service with hand := { service.hand with blocks := service.hand.blocks.write 1 b } }
      s.hand.due s.hand.block = false ∧ s.hand.nextBlock = some 1 ∧ s.hand.due 1 = true :=
  ⟨by decide +kernel, by decide +kernel, taken .receiptAck .service (by decide) rfl, by decide +kernel⟩

/-- R143: the write position at the start of block 2, the newest receipt in the last slot of block 1, and every receipt
acknowledged: the 64 slots of the four blocks are usable. -/
theorem test_usableSlots :
    let r : Receipt := { service.receiptBody aboard false false .accept 0 [] true with number := 1 }
    ({ service.hand with
      block := 2, slot := 0, newest := 1, acked := 1
      blocks := service.hand.blocks.write 1 ((Table.const 16 (.void .garbage)).write 15 (.receipt r)) } : HandOver).usableSlots =
      64 := by decide +kernel

/-- R144: of two slots with one number, far apart in the only usable block, the later written is the receipt. -/
theorem test_laterReceipt :
    let r : Receipt := { service.receiptBody aboard false false .accept 0 [] true with
      number := 1, previous := 0#32, check := 0#32 }
    let h := (({ service.hand with retired := 14#4, newest := 1 } : HandOver).putSlot 0 2 (.void (.whole r))).putSlot 0 13
      (.receipt r)
    ((h.scan true).blocks.read 0).read 2 = .void (.whole r) ∧ ((h.scan true).blocks.read 0).read 13 = .receipt r := by
  decide +kernel

/-! ## Witnesses: the history store -/

def record0 : Record := { sequence := 1, time := 50, body := .gap 0 0 }
def queued0 : Queued := { time := 90, body := .mark (.load 0 0 71204#32 3 90 none) }

def sampleBody : Sample :=
  { comp := 0, a := none, clamped := false, suspect := false, held := false, parked := false, degraded := false,
    highest := none, estimate := none, limit := none, setpoint := none, doorSeconds := 0, door := .closed,
    defrost := .none, excursion := .clear, unitFault := false, lost := false, probes := Table.const 8 .good,
    custody := 0, equivalents := 6, excursionEquivalents := 0 }

def sample0 : Queued := { time := 90, body := .sample sampleBody }

/-- R162: a program that failed in H0 with its bytes whole, and its record written in H13, the next sector that was not pinned:
the later written is the record, and the other slot is VOID. -/
theorem test_laterRecord :
    let h := (State.reset.hist.openStretch 0 0).openStretch 13 0
    let x : Sector := { state := .full, slots := [.void (.whole record0)], voids := 1, touched := false }
    let t := judgeSectors h.stretches (classSectors ((h.sectors.write 0 x).write 13
      { state := .writing, slots := [.record record0], voids := 0, touched := false }) 0#16 (some 1) true 0)
    t.read 0 = x ∧ (t.read 13).slots = [.record record0] ∧ scanCurrent t = some 13 := by decide +kernel

/-- The store with `n` slots of sector 0, the one it writes, programmed, and sector 1 next. -/
def store (n : Nat) (s : State) : State :=
  { s with hist := { s.hist with
    sectors := s.hist.sectors.write 0
      { state := .writing, slots := List.replicate n (.record record0), voids := 0, touched := false }
    current := some 0
    next := some 1
    newest := 1 } }

def queueing (q : List Queued) (s : State) : State := { s with hist := { s.hist with queue := q } }

theorem witness_HistoryIsReadAndAcknowledged :
    Taken .historyRead t1 (store 1 service) ∧
      ((store 1 service).hist.readable = [record0] ∧ (1#32).toNat ≤ record0.sequence ∧ max 1 (min 7 (0#8).toNat) = 1 ∧
        max 1 (min 7 (8#8).toNat) = 7 ∧ (store 0 service).hist.readable = [] ∧ (store 0 service).hist.queue = [] ∧
        (queueing [queued0] (store 0 service)).hist.queue ≠ [] ∧
        (queueing [queued0] (store 0 service)).hist.stalled = false) ∧
      Taken .historyRead t1 (queueing [queued0] (store 0 service)) ∧ Taken .historyAck t1 (store 1 service) ∧
      (store 1 service).hist.degraded = false ∧ (store 1 service).hist.uploadWanted = false ∧
      (let s : State := { service with
        hist := { service.hist with newest := 4096 } }
       s.ctl.working.upper ≤ s.hist.newest - s.hist.acked) :=
  ⟨taken_of (by decide +kernel), by decide +kernel, taken_of (by decide +kernel), taken_of (by decide +kernel), by decide +kernel⟩

def marking (s : State) : State := { s with marks := [.load 0 0 71204#32 3 100 none] }

def programming (p : Program) (s : State) : State := { s with hist := { s.hist with program := some p } }

theorem witness_MarksDisplaceTheNewestSample :
    ((marking (inMode .start)).marks = [.load 0 0 71204#32 3 100 none] ∧ (marking (inMode .start)).ctl.mode = .start) ∧
      (let s := marking (programming (.head queued0) (queueing (List.replicate 7 queued0) service))
       s.marks = [.load 0 0 71204#32 3 100 none] ∧ s.ctl.mode ≠ .start ∧ s.hist.queue.length < 8) ∧
      (∀ x ∈ [([queued0, sample0], List.replicate 5 queued0), ([], List.replicate 7 queued0)],
        let s := marking (programming (.head ((x.1 ++ sample0 :: x.2).headD queued0)) (queueing (x.1 ++ sample0 :: x.2) service))
        s.ctl.mode ≠ .start ∧ 8 ≤ s.hist.queue.length ∧ s.hist.queue = x.1 ++ sample0 :: x.2 ∧ sample0.isSample = true ∧
          ∀ y ∈ x.2, y.isSample = false) ∧
      let s := marking (queueing (List.replicate 8 queued0) service)
      s.ctl.mode ≠ .start ∧ 8 ≤ s.hist.queue.length ∧ ∀ y ∈ s.hist.queue, y.isSample = false := by decide +kernel

theorem witness_HistoryProgramsCompleteOrVoidASlot :
    (let s := queueing [queued0] (store 511 service)
     s.hist.current = some 0 ∧ s.powered = true ∧ s.ctl.mode ≠ .start ∧ s.hist.program = none ∧
      (s.hist.sectors.read 0).slots.length < 512 ∧ s.hist.gapDue = false ∧ s.hist.droppedSamples = 0 ∧
      s.hist.droppedMarks = 0 ∧ s.hist.queue = [queued0]) ∧
      (let s := store 511 service
       ({ s with hist := { s.hist with droppedMarks := 1 } } : State).hist.droppedMarks ≠ 0) ∧
      (programming (.head queued0) (queueing [queued0] (store 511 service))).hist.program = some (.head queued0) ∧
      queued0.body.loadSlot? = some 0 ∧
      (programming (.displaced sample0) (queueing [queued0] (store 511 service))).hist.program = some (.displaced sample0) ∧
      sample0.isSample = true ∧
      (programming (.gap 90 1 1) (store 511 service)).hist.program = some (.gap 90 1 1) := by decide +kernel

theorem witness_SectorsTurnOverAndRetire :
    (∀ q ∈ [[queued0], []],
      let f := queueing q (store 512 service)
      let s : State := { f with hist := { f.hist with gapDue := q.isEmpty } }
      s.powered = true ∧ s.ctl.mode ≠ .start ∧ s.hist.current = some 0 ∧ 512 ≤ (s.hist.sectors.read 0).slots.length ∧
        s.hist.program = none ∧ (s.hist.queue ≠ [] ∨ s.hist.gapDue = true) ∧ s.hist.next = some 1 ∧ (1 : Fin 16) ≠ 0 ∧
        (s.hist.sectors.read 1).state = .ready ∧ (∀ a, (s.hist.sectors.read a).state = .writing → a = 0) ∧
        (s.hist.sectors.read 0).state = .writing) ∧
      ∀ second : Bool,
        let s : State := { service with hist := { service.hist with eraseQueue := [3, 5], secondErase := second } }
        s.hist.eraseQueue = 3 :: [5] ∧ s.hist.secondErase = second := by decide +kernel

/-- Held reads of the T- and the H-port, and a program in flight. -/
def heldT : HeldRead := { port := .t, tag := 9#8, fromSequence := 2, count := 0 }
def holding (s : State) : State :=
  { s with heldReads := [heldT, { port := .h, tag := 8#8, fromSequence := 3, count := 3 }] }

theorem witness_HistoryProgramsCompleteOrVoidASlot_held :
    ∀ p ∈ [Program.head queued0, .displaced sample0, .gap 90 1 1],
      let s := holding (programming p (queueing [queued0] (store 511 service)))
      s.hist.program = some p ∧ s.hist.current = some 0 ∧ s.heldReads ≠ [] := by decide +kernel

/-- Sector 0 full and sector 2 FULL with records 100 to 104, the history acknowledged through `acked`. -/
def recycling (acked : Nat) (pins : BitVec 16) : State :=
  let s := holding (queueing [queued0] (store 512 service))
  let x : Sector :=
    { state := .full, slots := (List.range 5).map fun k => .record { record0 with sequence := 100 + k }, voids := 0, touched := false }
  { s with
    hist := { s.hist with sectors := s.hist.sectors.write 2 x, newest := 2000, acked := acked }
    claims := { s.claims with pins := pins } }

/-- The sector chosen next is FULL and is erased, with and without unsent records; or every sector is pinned. -/
theorem witness_SectorsTurnOverAndRetire_erased :
    (∀ a ∈ [99, 103, 104],
      let s := recycling a 0#16
      let t := after .beginNewSector s
      s.powered = true ∧ s.ctl.mode ≠ .start ∧ s.hist.current = some 0 ∧ 512 ≤ (s.hist.sectors.read 0).slots.length ∧
        s.hist.program = none ∧ s.hist.queue ≠ [] ∧ s.hist.next = some 1 ∧ (s.hist.sectors.read 1).state = .ready ∧
        (∀ b, (s.hist.sectors.read b).voids < 4) ∧ t.hist.next = some 2 ∧ (s.hist.sectors.read 2).state = .full) ∧
      (after .beginNewSector (recycling 104 0xFFFD#16)).hist.next = none ∧ (recycling 104 0xFFFD#16).hist.queue.length < 8 := by
  decide +kernel

/-- R149: of five records erased, the two past the acknowledged 102 are counted and acknowledged, and STORE is raised. -/
theorem test_unsentRecordsErased :
    let t := after .beginNewSector (recycling 102 0#16)
    t.hist.lostUnsent = 2 ∧ t.hist.acked = 104 ∧ hasKind t.ports.h.pending .store = true := by decide +kernel

/-- A claim whose window grows, and the pins given. -/
def growing (pins : BitVec 16) : State :=
  { store 0 (carrying claimed service) with claims :=
    { (claiming claim0 service).claims with pins := pins } }

/-- Whether the pins with sector 1 stay within the budget. -/
def fits (pins : BitVec 16) : Bool :=
  decide (setSize ((growing pins).claims.pins ||| single 1) ≤ (growing pins).hist.usable - 4)

/-- The sector to come fits the budget of 12 exactly, and is one past it. -/
theorem witness_SectorsTurnOverAndRetire_claims :
    (fits 0#16 = true ∧ fits 0xFFE0#16 = true ∧ fits 0xFFF0#16 = false) ∧
      (growing 0xFFF0#16).claims.table.read 0 = some claim0 ∧ claim0.state = .gathering ∧ claim0.endCut = false ∧
      (growing 0xFFF0#16).claims.pins.getLsbD 1 = false := by decide +kernel

/-- A part in START, without power or with the reset input asserted. -/
def lost (power reset : Bool) (valid ran : Bool) : State :=
  { inMode .start with ctl := { (inMode .start).ctl with
    mainPower := power, resetInput := reset, domainValid := valid, startRan := ran, heldMode := .dormant } }

/-- R166: in START, with no usable sector left after the failure, the STALL mark waits and nothing is queued. -/
theorem test_stallInStart :
    let x : Sector := { state := .retired, slots := [], voids := 0, touched := false }
    let f := lost true false true true
    let s : State := { f with hist := { f.hist with
      sectors := (Table.const 16 x).write 3 { x with state := .erasing }, eraseQueue := [3], secondErase := true } }
    let t := after .sectorEraseFailure s
    t.hist.stalled = true ∧ t.hist.queue = [] ∧ t.hist.queuedMarks = 0 ∧ t.marks = [.stall 0 0] := by decide +kernel

theorem witness_SectorsTurnOverAndRetire_records (n : Nat) :
    ((store n service).hist.sectors.read 0).slots = List.replicate n (.record record0) ∧
      ∀ q, Slot.record q ∈ List.replicate n (Slot.record record0) → q.sequence ≤ record0.sequence :=
  ⟨by simp [store], fun q h => by simp [List.mem_replicate] at h; rw [h.2]⟩

theorem witness_SectorsTurnOverAndRetire_noClaim : ∀ a, service.claims.table.read a = none := by decide +kernel

/-- A publication of a service round for the store, with the interval counter at `n`. -/
def counting (n : Nat) : State :=
  { service with
    pubs := { service.pubs with store := [publication false (-1000)] }
    hist := { service.hist with
      intervalCount := n
      intervals := service.hist.intervals.write 0
        (some { base := 0#32, highest := some (-1200), equivalents := 5, excursionEquivalents := 0 }) } }

theorem witness_SamplesAreCreatedEveryIntervals :
    (∀ n ∈ [4, 5], (counting n).pubs.store = [publication false (-1000)] ∧ (counting n).hist.queue.length ≤ 4 ∧
      ((counting n).hist.intervals.read 0).isSome = true ∧ (publication false (-1000)).parked = false ∧
      (publication false (-1000)).air.read 0 = some (airAt (-1000)) ∧ (publication false (-1000)).air.read 1 = none ∧
      ((counting n).hist.intervalCount + 1 < (counting n).ctl.working.interval ↔ n = 4)) ∧
      (let s : State := { counting 5 with hist := { (counting 5).hist with intervals := service.hist.intervals } }
       s.hist.intervals.read 0 = none ∧ s.pubs.store = [publication false (-1000)]) ∧
      (8 ≤ (queueing (List.replicate 8 queued0) (counting 5)).hist.queue.length ∧
        ((List.finRange 4).filter fun c => ((publication false (-1000)).air.read c).isSome).length = 1) ∧
      ∀ c r, (publication false (-1000)).air.read c = some r → (counting 5).inUse c = true :=
  ⟨by decide +kernel, by decide +kernel, by decide +kernel, all_of (P := fun c _ => (counting 5).inUse c = true) (by decide +kernel)⟩

/-- R59: a SAMPLE's SENSOR_LOST stands as the store finds it, whatever the publication carries. -/
theorem test_sampleSensorLost :
    let s := fragment (fun f => { f with air := f.air.write 0 { airAt (-1000) with lost := true } }) (counting 5)
    ((after .sample s).hist.queue.map fun q => match q.body with | .sample x => x.lost | _ => false) = [true] := by
  decide +kernel

/-! ## Witnesses: settings, modes, time and power -/

theorem witness_PlainSettingsAreStored :
    Editable t1 setup ∧ max 1 (min 8192 (8193#32).toNat) = 8192 ∧ max 1 (min 8192 (0#32).toNat) = 1 ∧
      min (1 - 1) (5#32).toNat = 0 ∧ setup.hist.degraded = false ∧ yesNo 1#8 = some true ∧ yesNo 0#8 = some false ∧
      1 < (2#8).toNat :=
  ⟨editable, by decide +kernel⟩

/-- SETUP with the settings `w` working and committed. -/
def committing (w : Settings) : State :=
  { setup with
    ctl := { setup.ctl with working := w }
    bank := { setup.bank with settings := { a := some { generation := 1, contents := w }, b := none } } }

/-- Whether the command meets what every clause of ENTER_SERVICE's statement asks. -/
def entering (s : State) : Bool := s.ctl.mode == .setup && s.ctl.commit.isNone && s.ctl.working == s.committed

theorem witness_ServiceIsEnteredAndLeft_enter :
    (∀ w, Taken .mode t1 (committing w)) ∧
      ({ setup with ctl := { setup.ctl with working := withComp 0 (defaultSettings.comps.read 1) } } : State).ctl.working ≠
        setup.committed ∧
      (entering (fragment (fun f => { f with ref := failing }) setup) = true ∧ failing.pass = false ∧ setup.fe.ref.pass = true) ∧
      (let s := committing (withComp 0 { inUse := false, zone := none, primary := none, secondary := none })
       entering s = true ∧ ∀ c, s.inUse c = false) ∧
      (let s := committing (withComp 3 { inUse := true, zone := none, primary := none, secondary := none })
       entering s = true ∧ s.inUse 3 = true ∧ (s.config 3).zone = none ∧
        ∀ d, d < (3 : Fin 4) → s.inUse d = true → (s.config d).zone ≠ none ∧ (s.config d).primary ≠ none) ∧
      (let s := committing (withComp 3 { inUse := true, zone := some 0, primary := some 1, secondary := none })
       entering s = true ∧ (∃ c, s.inUse c = true) ∧
        (∀ c, s.inUse c = true → (s.config c).zone ≠ none ∧ (s.config c).primary ≠ none) ∧
        2 ≤ (assignment s.ctl.working.comps 1).length ∧ ∀ q, q < (1 : Fin 8) → (assignment s.ctl.working.comps q).length < 2) :=
  ⟨fun w => ⟨rfl, (show Mode.setup ≠ .start by decide), rfl, rfl⟩, by decide +kernel⟩

theorem witness_ServiceIsEnteredAndLeft_line :
    let s := committing { defaultSettings with
      lines := defaultSettings.lines.write 7 { kind := .door, activeHigh := true, debounce := 5, comp := some 3 } }
    entering s = true ∧ (∃ c, s.inUse c = true) ∧
      (∀ c, s.inUse c = true → (s.config c).zone ≠ none ∧ (s.config c).primary ≠ none) ∧
      (∀ p, (assignment s.ctl.working.comps p).length < 2) ∧ (s.entry 7).kind = .door ∧ (s.entry 7).comp = some 3 ∧
      s.inUse 3 = false ∧
      ∀ k d, k < (7 : Fin 8) → (s.entry k).kind = .door ∨ (s.entry k).kind = .defrost → (s.entry k).comp = some d →
        s.inUse d = true := by decide +kernel

theorem witness_ServiceIsEnteredAndLeft_entered :
    entering setup = true ∧ (∃ c, setup.inUse c = true) ∧
      (∀ c, setup.inUse c = true → (setup.config c).zone ≠ none ∧ (setup.config c).primary ≠ none) ∧
      (∀ p, (assignment setup.ctl.working.comps p).length < 2) ∧
      ∀ l c, (setup.entry l).kind = .door ∨ (setup.entry l).kind = .defrost → (setup.entry l).comp = some c →
        setup.inUse c = true := by decide +kernel

theorem witness_ServiceIsEnteredAndLeft_leave :
    Taken .mode t1 service ∧ Taken .mode t1 (inMode .parked) ∧ service.custodySlots = [] ∧ service.hand.contexts = [] ∧
      Taken .mode t1 (carrying aboard service) ∧ (carrying aboard service).custodySlots ≠ [] :=
  ⟨taken .mode .service (by decide) rfl, taken .mode .parked (by decide) rfl, by decide +kernel, rfl,
    ⟨rfl, by decide, rfl, rfl⟩, by decide +kernel⟩

theorem witness_ParkAndWakeActOnTheParkFlag : ∀ m, m ≠ Mode.start → Taken .mode t1 (inMode m) :=
  fun m hm => taken .mode m hm rfl

/-- A publication for the controller, with the quiet count at `q`. -/
def controlling (m : Mode) (q : Nat) (park : Bool) : State :=
  { inMode m with
    pubs := { service.pubs with control := [publication (m == .parked) (-1000)] }
    ctl := { (inMode m).ctl with quiet := q, parkFlag := park } }

theorem witness_ParkingSleepAndWaking :
    (∀ park : Bool,
      let s := controlling .service 0 park
      s.pubs.control = [publication false (-1000)] ∧ s.ctl.mode = .service ∧ (publication false (-1000)).parked = false ∧
        (publication false (-1000)).startedIn = .service ∧ s.parkCondition = park ∧
        ∀ c, s.inUse c = true → (s.mon.read c).door = .closed) ∧
      (∀ q ∈ [28, 29],
        let s := controlling .parked q false
        s.pubs.control = [publication true (-1000)] ∧ s.ctl.mode = .parked ∧ s.custodySlots = [] ∧ s.hand.contexts = [] ∧
          (s.ctl.quiet < 29 ↔ q = 28)) ∧
      (carrying aboard (controlling .parked 5 false)).custodySlots ≠ [] ∧
      (let s : State := { inMode .waking with ctl := { (inMode .waking).ctl with warmUpEnd := some 100 } }
       s.powered = true ∧ s.ctl.mode = .waking ∧ s.ctl.warmUpEnd = some 100 ∧ 100 ≤ s.now) ∧
      let s : State := { inMode .waking with ctl := { (inMode .waking).ctl with warmUpEnd := some 100, wakingCheck := true } }
      s.powered = true ∧ s.ctl.mode = .waking ∧ s.ctl.wakingCheck = true ∧ s.fe.round = none := by decide +kernel

theorem witness_TimeIsSetAndRuns :
    Taken .mode t1 service ∧ 4294967295 ≤ ({ service with ctl := { service.ctl with time := 4294967295 } } : State).now ∧
      (let s : State := { service with ctl := { service.ctl with time := 4294967294, mainPower := false } }
       s.now < 4294967295 ∧ s.linesWatched = false ∧ s.ctl.mainPower = false ∧ s.ctl.supplyFell = false) ∧
      (∀ reset : Bool, let s := lost true reset true false
       s.now < 4294967295 ∧ s.linesWatched = false ∧ s.ctl.mainPower = true) ∧
      (let s : State := { service with ctl := { service.ctl with mainPower := false, supplyFell := true } }
       s.ctl.mainPower = false ∧ s.ctl.supplyFell = true) ∧
      (service.now < 4294967295 ∧ service.linesWatched = true) ∧
      (let s := monitor (fun x => { x with door := .allow, openStart := some 100 })
         { service with ctl := { service.ctl with time := 280 } }
       s.inUse 0 = true ∧ s.zoneOf 0 = some zoneHardFrozen ∧ (s.mon.read 0).door = .allow ∧
        (s.mon.read 0).openStart = some 100 ∧ ((100 : Nat) : Int) + zoneHardFrozen.doorOpenLimit < (s.now : Int) + 1) ∧
      (let s := monitor (fun x => { x with door := .allow, openStart := some 100 })
         { service with ctl := { service.ctl with time := 279 } }
       s.zoneOf 0 = some zoneHardFrozen ∧ (s.mon.read 0).openStart = some 100 ∧
        (s.now : Int) + 1 = ((100 : Nat) : Int) + zoneHardFrozen.doorOpenLimit) ∧
      (let s := within [{ waiting0 with state := .waiting 101 false }] (lost true false true true)
       s.now < 4294967295 ∧ s.linesWatched = true ∧ s.ctl.mode = .start ∧ 101 ≤ s.now + 1) ∧
      service.inUse 3 = false :=
  ⟨taken .mode .service (by decide) rfl, by decide +kernel⟩

theorem witness_RestartResetsThePorts :
    service.powered = true ∧ service.ctl.mode ≠ .start ∧ inFlightT.powered = true ∧ inFlightT.ctl.mode ≠ .start := by
  decide +kernel

theorem witness_CommitsAndRewritesKeepOneGoodCopy :
    Editable t1 setup ∧ setup.ctl.working = setup.committed ∧
      (let s : State := { setup with ctl := { setup.ctl with working := { setup.ctl.working with interval := 30 } } }
       Editable t1 s ∧ s.ctl.working ≠ s.committed) ∧
      (∀ op ∈ [BankOp.commit, .counterRewrite],
        let s : State := { setup with bank := { setup.bank with queue := [op] } }
        s.powered = true ∧ s.bank.busy = none ∧ s.bank.queue = [op]) ∧
      (∀ tag ∈ [none, some 5#8],
        let s : State := { setup with
          ctl := { setup.ctl with commit := some { contents := setup.ctl.working, tag := tag } }
          bank := { setup.bank with busy := some .commit } }
        s.ctl.commit = some { contents := setup.ctl.working, tag := tag } ∧ s.bank.busy = some .commit) ∧
      ∀ second : Bool,
        let s : State := { setup with bank := { setup.bank with busy := some .counterRewrite, secondRewrite := second } }
        s.bank.busy = some .counterRewrite ∧ s.bank.secondRewrite = second :=
  ⟨editable, by decide +kernel, ⟨⟨⟨rfl, by decide, rfl, rfl⟩, rfl, rfl⟩, by decide +kernel⟩, by decide +kernel⟩

theorem witness_FactoryClearRestoresTheDefaults :
    Editable t1 setup ∧ setup.claimCount = 0 ∧ setup.occupied = 0 ∧ setup.hand.newest ≤ setup.hand.acked ∧
      (claiming claim0 setup).claimCount ≠ 0 ∧ (carrying listed setup).occupied ≠ 0 ∧
      ({ setup with hand := { setup.hand with newest := 1 } } : State).hand.acked <
        ({ setup with hand := { setup.hand with newest := 1 } } : State).hand.newest :=
  ⟨editable, by decide +kernel⟩

/-- SETUP with C1 and not C0 in use, line 0 door-active in C1, line 1 raw high and unused, and line 2 a third DOOR line. -/
def rewired : State :=
  let w := setup.ctl.working
  let door : LineEntry := { kind := .door, activeHigh := true, debounce := 5, comp := some 1 }
  { setup with
    ctl := { setup.ctl with working := { w with
      lines := ((w.lines.write 0 door).write 1 { door with kind := .unused, comp := none }).write 2 door
      comps := (w.comps.write 0 (w.comps.read 3)).write 1 { inUse := true, zone := some 0, primary := none, secondary := none } } }
    lines := { setup.lines with
      log := [{ episode0 with comp := 1 }]
      line := (setup.lines.line.write 0 { high := true, active := true, candidate := none }).write 1
        { high := true, active := false, candidate := none } } }

theorem witness_FactoryClearRestoresTheDefaults_effects :
    let t := after (.factoryClear t1) rewired
    Editable t1 rewired ∧ (rewired.heldReads = [] ∧ rewired.claimCount = 0 ∧ rewired.occupied = 0 ∧ rewired.hand.newest ≤ rewired.hand.acked) ∧
      (rewired.entry 0 ≠ t.entry 0 ∧ rewired.entry 7 = t.entry 7) ∧
      (rewired.doorActiveIn 0 = some 1 ∧ t.doorActiveIn 0 = some 0 ∧ rewired.doorActiveIn 1 = none ∧ t.doorActiveIn 1 = some 0) ∧
      (rewired.inUse 0 = false ∧ t.inUse 0 = true ∧ rewired.inUse 1 = true ∧ t.inUse 1 = false ∧
        rewired.inUse 2 = t.inUse 2) :=
  ⟨editable_of (by decide +kernel), by decide +kernel⟩

theorem witness_PowerLossKeepsTheBackupDomain :
    service.ctl.mainPower = true ∧ service.ctl.resetInput = false ∧
      ∀ c ∈ [StartCause.power, .reset, .backupLost], ∀ ran : Bool,
        let s := lost true false true ran
        let u : State := { s with ctl := { s.ctl with startCause := c } }
        u.ctl.mainPower = true ∧ u.ctl.resetInput = false ∧ u.ctl.mode = .start ∧ u.ctl.startCause = c := by decide +kernel

/-- R166: the reset input asserted in a START that follows a power loss leaves its cause and loss second. -/
theorem test_resetDuringStart :
    let s := lost true false true true
    let t := after .resetInputAsserted { s with ctl := { s.ctl with startCause := .power, lossSecond := some 90 } }
    t.ctl.startCause = .power ∧ t.ctl.lossSecond = some 90 ∧ t.ctl.startRan = false ∧ t.powered = false := by decide +kernel

theorem witness_StartRestoresThePart :
    (∀ valid : Bool, (lost false false valid false).ctl.mainPower = false ∧ (lost false false valid false).ctl.resetInput = false ∧
      (lost true true valid false).ctl.mainPower = true ∧ (lost true true valid false).ctl.resetInput = true ∧
      (lost false false valid false).ctl.mode = .start ∧ (lost true true valid false).ctl.mode = .start) ∧
      (let s := lost true false true true
       s.powered = true ∧ s.ctl.mode = .start ∧ s.ctl.startRan = true ∧ s.ctl.wallOffset = none ∧ s.hand.contexts = []) ∧
      (within [waiting0] (carrying presenting (lost true false true true))).hand.contexts ≠ [] ∧
      let s := lost true false true true
      let u : State := { s with ports := { s.ports with t := { s.ports.t with received := [[43#8, 7#8], [0#8, 8#8, 1#8]] } } }
      u.powered = true ∧ u.ctl.mode = .start ∧ u.ctl.startRan = true ∧ u.heldReads = [] ∧
        ∀ f ∈ u.ports.t.received, 2 ≤ f.length := by decide +kernel

/-- START about to complete with the cause given, a context of slot 0 and a consignment ABOARD in slot 6. -/
def starting (c : StartCause) : State :=
  let s := within [waiting0] (carrying presenting (lost true false true true))
  { s with
    cons := s.cons.write 6 (some { aboard with id := 71206#32 })
    ctl := { s.ctl with
      startCause := c, lossSecond := some 90, startSecond := 95
      lossReport := some { readable := 1, rebuilt := 2, notRebuilt := 3, lowest := 4 } } }

theorem witness_StartRestoresThePart_contexts :
    ∀ c ∈ [StartCause.power, .reset, .backupLost],
      (starting c).powered = true ∧ (starting c).ctl.mode = .start ∧ (starting c).ctl.startRan = true ∧
        (starting c).ctl.startCause = c ∧ (starting c).ctl.lossSecond = some 90 ∧ (starting c).ctl.lossReport ≠ none ∧
        (starting c).hand.contexts = [waiting0] ∧ (starting c).cons.read 0 = some presenting ∧
        (∀ q ∈ (starting c).hand.contexts, q.slot = waiting0.slot → q = waiting0) ∧
        (∀ q ∈ (starting c).hand.contexts, q.slot ≠ 6) ∧ ((starting c).cons.read 6).isSome = true ∧
        (starting c).cons.read 1 = none := by decide +kernel

/-- R125, R163, R166: after a power loss the context of slot 0 is cancelled, its consignment ABOARD again and marked. -/
theorem test_startCancelsContexts :
    let t := after .startComplete (starting .power)
    t.hand.contexts = [] ∧ t.cons.read 0 = some { aboard with outageSeen := true } ∧
      t.marks = [.handoverEnd 0 71204#32 .power 0, .powerLoss 90 .dormant, .powerReturn 5, .mode .start .parked .start,
        .mode .parked .service .parkEnded] := by decide +kernel

/-! ## Witnesses: reads, events and links -/

theorem witness_ReadsChangeNothing :
    (∀ g ∈ [Group.readings, .claims, .summary, .receiptRead, .readStatus], Taken g t1 service) ∧
      max 1 (min 8 (0#8).toNat) = 1 ∧ max 1 (min 8 (9#8).toNat) = 8 ∧
      (carrying aboard service).byId 71204#32 = some (0, aboard) ∧ service.byId 71204#32 = none ∧
      (31#8).toNat = (31 : Fin 32).val ∧ 32 ≤ (32#8).toNat ∧ (15#8).toNat = (15 : Fin 16).val ∧ 16 ≤ (16#8).toNat ∧
      (0#8).toNat = (0 : Fin 32).val ∧ (claiming claim0 service).claims.table.read 0 = some claim0 ∧
      (claiming claim0 service).claimByNumber (7#32).toNat = some (0, claim0) ∧ service.lines.log = [] ∧
      ({ service with lines := { service.lines with log := [episode0] } } : State).lines.log ≠ [] := by
  refine ⟨fun g hg => taken g .service (by decide) ?_, by decide +kernel⟩
  revert g
  decide

theorem witness_ReadEventsGivesTheTopReason :
    Taken .events t1 attentive ∧ ((attentive.ports.at .t).pending &&& (attentive.ports.at .t).enable) ≠ 0#12 ∧
      ((service.ports.at .t).pending &&& (service.ports.at .t).enable) = 0#12 :=
  ⟨⟨rfl, by decide, rfl, rfl⟩, by decide +kernel⟩

theorem witness_EventSetsAreEditedPortByPort :
    Taken .events t1 service ∧ Taken .events h1 service ∧ 4096 ≤ (4096#16).toNat ∧ (4095#16).toNat = (4095#12).toNat ∧
      (4095#12).getLsbD 8 = true ∧ (service.ports.at .h).enable.getLsbD 8 = false ∧
      service.lines.flags.at .h = 0#8 ∧
      ({ service with lines := { service.lines with flags := service.lines.flags.put .h 1#8 } } : State).lines.flags.at .h ≠ 0#8 ∧
      (service.ports.at .t).enable.getLsbD 8 = true :=
  ⟨taken .events .service (by decide) rfl, taken_of (by decide +kernel), by decide +kernel⟩

/-- The T-port in the middle of a frame of `n` body characters, with `chars` received. -/
def receiving (n : Nat) (chars : List Byte) : State :=
  { service with ports := { service.ports with t := { service.ports.t with
    framer := { state := .receiving, expected := n, chars := chars } } } }

/-- The body of READ_EVENTS with tag 7, its characters and their check. -/
theorem witness_LinksFrameCommandsAndAnswers :
    service.powered = true ∧ (2 ≤ (2#8).toNat ∧ (250#8).toNat ≤ 250) ∧ ((1#8).toNat < 2 ∧ 250 < (251#8).toNat) ∧
      ((service.ports.at .t).framer.state = .rest ∧ (service.ports.at .t).framer.state ≠ .receiving) ∧
      (((receiving 2 []).ports.at .t).framer.state = .receiving ∧
        ((receiving 2 [1#8, 7#8]).ports.at .t).framer.chars.length + 1 < 2 + 2) ∧
      let c := crc16 [2#8, 43#8, 7#8]
      ((receiving 2 [43#8, 7#8, c.extractLsb' 8 8]).ports.at .t).framer.chars = [43#8, 7#8] ++ [c.extractLsb' 8 8] ∧
        [43#8, 7#8].length = 2 ∧ (c.extractLsb' 8 8).toNat * 256 + (c.extractLsb' 0 8).toNat = c.toNat ∧
        (c.extractLsb' 8 8).toNat * 256 + (~~~ (c.extractLsb' 0 8)).toNat ≠ c.toNat := by decide +kernel

/-- `s` with a frame of command code `code`, tag 7 and the arguments given waiting on the T-port. -/
def framed (code : Byte) (args : List Byte) (s : State) : State :=
  { s with ports := { s.ports with t := { s.ports.t with received := [code :: 7#8 :: args] } } }

/-- A frame in START, with a command in flight, of no command, outside the rights of a port, RESTART with a command in
flight, and READ_EVENTS, which is taken. -/
theorem witness_LinksFrameCommandsAndAnswers_received :
    (let s := framed 43#8 [] (inMode .start)
     s.powered = true ∧ s.ports.t.received = [43#8 :: 7#8 :: []] ∧ s.ctl.mode = .start) ∧
      (let s := framed 43#8 [] inFlightT
       s.powered = true ∧ s.ctl.mode ≠ .start ∧ s.ports.t.inFlight ≠ none ∧ (43#8).toNat ≠ 36) ∧
      ((framed 36#8 [] inFlightT).ctl.mode ≠ .start ∧ (36#8).toNat = 36 ∧ commandGroup 36 = some .mode ∧
        parseCommand { port := .t, tag := 7#8 } 36 [] = some (.restart { port := .t, tag := 7#8 })) ∧
      (let s := framed 43#8 [] service
       s.powered = true ∧ s.ctl.mode ≠ .start ∧ s.ports.t.inFlight = none ∧ commandGroup 43 = some .events ∧
        commandGroup 255 = none ∧ holdsGroup s.ctl.working.grants .events .t = true ∧
        holdsGroup s.ctl.working.grants .config .h = false ∧ commandGroup 1 = some .config ∧
        parseCommand { port := .t, tag := 7#8 } 43 [] = some (.readEvents { port := .t, tag := 7#8 })) := by decide +kernel

/-- An argument byte too many for READ_EVENTS, in every mode and with a commit in flight. -/
theorem witness_LinksFrameCommandsAndAnswers_length :
    (∀ i, commandCode i = some 43 → (commandBytes i).length ≠ [0#8].length) ∧
      (∀ m ∈ [Mode.setup, .service, .dormant], modeTakes m 43 = true) ∧ commitHolds 43 = false :=
  ⟨fun i h => by cases i <;> simp_all [commandCode, commandBytes], by decide⟩

end Sys2Proof.Tests
end

/-! ## The front end: conversion, the reference record, the round (file 01) -/

namespace Sys2Proof.Machine

/-! ### The reference-check record -/

/-- The ledger that claims of a step only that the reference-check record stays consistent. -/
def Ledger.ofReference (s : State) (rest : List Instr) : Ledger where
  commands := rest
  settings := s.ctl.working
  queue := False
  ports := False
  contexts := False
  reference := True
  working := False
  table := s.cons
  doses := False

theorem keeps_ofReference {s : State} (rest : List Instr) (hs : s.fe.ref.Sound) :
    Keeps (.ofReference s rest) { s with pending := rest } where
  commands := rfl
  queue := False.elim
  ports := False.elim
  contexts := False.elim
  reference := fun _ => hs
  working := False.elim
  doses := False.elim

/-- Settles O7: an empty queue idles, and every command and event keeps the ledger's reference clause. -/
theorem referenceRecordStaysConsistent : Obligations.ReferenceRecordStaysConsistent := by
  unfold Obligations.ReferenceRecordStaysConsistent
  intro s t hs h
  unfold step at h
  split at h
  · cases h; exact hs
  · next c rest _ => exact (keeps_exec c False.elim False.elim (keeps_ofReference rest hs) h).reference trivial

/-! ### From code to reading -/

theorem clampInt_eq (lo hi v : Int) : clampInt lo hi v = max lo (min hi v) := rfl

/-- A clamp into a range that is not empty changes a value exactly when the value lies outside the range. -/
theorem clampInt_ne_iff {lo hi : Int} (h : lo ≤ hi) (v : Int) : clampInt lo hi v ≠ v ↔ v < lo ∨ hi < v := by
  rw [clampInt_eq]; omega

theorem eq_zero_iff_toNat {n : Nat} (x : BitVec n) : x = 0#n ↔ x.toNat = 0 := by
  rw [← BitVec.toNat_inj]; simp

theorem eq_max_iff_toNat (code : BitVec 16) : code = 0xFFFF#16 ↔ code.toNat = 65535 := by
  rw [← BitVec.toNat_inj]; rfl

/-- The codes that read FAULT (R4, R8). -/
theorem readingOf_fault {code : BitVec 16} {t : Trim} {r : RefRecord}
    (h : code.toNat = 0 ∨ code.toNat = 65535 ∨ r.converterFault = true) : readingOf code t r = .fault := by
  rw [← eq_zero_iff_toNat, ← eq_max_iff_toNat] at h
  simp [readingOf, h]

/-- Every other code reads its trimmed, clamped temperature (R4, R5, R8). -/
theorem readingOf_valid {code : BitVec 16} {t : Trim} {r : RefRecord} (h0 : code.toNat ≠ 0) (h1 : code.toNat ≠ 65535)
    (hf : r.converterFault = false) :
    readingOf code t r = .valid (clampInt (-5500) 8500 (trimmed code.toNat t))
      (decide (clampInt (-5500) 8500 (trimmed code.toNat t) ≠ trimmed code.toNat t))
      (!r.pass && decide (r.consecutive = 1 ∨ r.consecutive = 2)) := by
  rw [Ne, ← eq_zero_iff_toNat] at h0
  rw [Ne, ← eq_max_iff_toNat] at h1
  simp [readingOf, h0, h1, hf]

/-! ### The air of a compartment with two probes -/

section air

variable {g : CompConfig} {probes : Table Probe 8} {p q : Fin 8} {x y : Int × Bool × Bool × Bool}

theorem airOf_both (before : AirRecord) (hp : g.primary = some p) (hq : g.secondary = some q)
    (hx : (probes.read p).contribution = some x) (hy : (probes.read q).contribution = some y) :
    airOf g probes before =
      { a := some (max x.1 y.1), clamped := x.2.1 || y.2.1, suspect := x.2.2.1 || y.2.2.1, held := x.2.2.2 || y.2.2.2,
        lost := false, contributors := [p, q] } := by
  simp [airOf, hp, hq, hx, hy]

theorem airOf_primary (before : AirRecord) (hp : g.primary = some p) (hq : g.secondary = some q)
    (hx : (probes.read p).contribution = some x) (hy : (probes.read q).contribution = none) :
    airOf g probes before =
      { a := some x.1, clamped := x.2.1, suspect := x.2.2.1, held := x.2.2.2, lost := false, contributors := [p] } := by
  simp [airOf, hp, hq, hx, hy]

theorem airOf_secondary (before : AirRecord) (hp : g.primary = some p) (hq : g.secondary = some q)
    (hx : (probes.read p).contribution = none) (hy : (probes.read q).contribution = some y) :
    airOf g probes before =
      { a := some y.1, clamped := y.2.1, suspect := y.2.2.1, held := y.2.2.2, lost := false, contributors := [q] } := by
  simp [airOf, hp, hq, hx, hy]

theorem airOf_none (before : AirRecord) (hp : g.primary = some p) (hq : g.secondary = some q)
    (hx : (probes.read p).contribution = none) (hy : (probes.read q).contribution = none) :
    airOf g probes before = { before with lost := true, contributors := [] } := by
  simp [airOf, hp, hq, hx, hy]

end air

/-- Settles O12: the two clauses of `readingOf`, and the four cases of which of the two probes contribute. -/
theorem codesBecomeReadingsAndAir : Obligations.CodesBecomeReadingsAndAir := by
  unfold Obligations.CodesBecomeReadingsAndAir
  refine ⟨fun code t r => ⟨readingOf_fault, fun h0 h1 hf => ⟨_, _, _, readingOf_valid h0 h1 hf, ⟨rfl, ?_⟩, ?_⟩⟩, ?_⟩
  · rw [decide_eq_true_iff]
    exact clampInt_ne_iff (by decide) _
  · simp
  · intro g probes before p q hp hq
    cases hx : (probes.read p).contribution <;> cases hy : (probes.read q).contribution
    · exact airOf_none before hp hq hx hy
    · exact airOf_secondary before hp hq hx hy
    · exact airOf_primary before hp hq hx hy
    · exact airOf_both before hp hq hx hy

/-! ### The start of a round -/

/-- A probe is assigned when it is the primary or the secondary of a compartment in use (R9). -/
theorem assigned_iff (comps : Table CompConfig 4) (p : Fin 8) :
    assigned comps p = true ↔
      ∃ c, (comps.read c).inUse = true ∧ ((comps.read c).primary = some p ∨ (comps.read c).secondary = some p) := by
  simp only [assigned, assignment, Bool.not_eq_true', List.isEmpty_eq_false_iff, ne_eq, List.filterMap_eq_nil_iff,
    List.mem_finRange, true_imp_iff, not_forall]
  refine exists_congr fun c => ?_
  cases (comps.read c).inUse
  · simp
  · by_cases h : (comps.read c).primary = some p <;> simp [h]

/-- The round that a mode with rounds starts: its kind, second, trims, check and probes (R1, R3, R7, R9). -/
def State.newRound (s : State) : Round where
  parked := s.ctl.mode == .parked
  startedIn := s.ctl.mode
  start := s.now
  trims := s.ctl.working.trims
  check := 60 ≤ s.fe.checkDue || !s.fe.ref.pass || s.fe.checkRequest
  converted := Table.ofIdx (assigned s.ctl.working.comps)

theorem State.newRound_check_iff (s : State) :
    s.newRound.check = true ↔ 60 ≤ s.fe.checkDue ∨ s.fe.ref.pass = false ∨ s.fe.checkRequest = true := by
  simp [State.newRound, or_assoc]

/-- A due round starts, and advances the next-start second by its period (R1). -/
theorem State.beginRound_due {s : State} {n : Nat} (hp : s.powered = true) (hm : s.ctl.mode.hasRounds = true)
    (hn : s.fe.nextStart = some n) (hle : n ≤ s.now) (hr : s.fe.round = none) :
    s.beginRound = { s with fe := { s.fe with
      nextStart := some (n + period (s.ctl.mode == .parked)), round := some s.newRound } } := by
  simp [State.beginRound, State.roundDue, hp, hm, hn, hle, hr, State.newRound]

theorem period_parked (m : Mode) : period (m == .parked) = if m = .parked then 60 else 10 := by
  cases m <;> rfl

/-- Settles O13. -/
theorem dueRoundStarts : Obligations.DueRoundStarts := by
  unfold Obligations.DueRoundStarts
  intro s n hp hm hn hle hr
  have hb := State.beginRound_due hp ((hasRounds_iff _).mpr hm) hn hle hr
  refine ⟨s.newRound, ?_, by simp [State.newRound], rfl, rfl, rfl, s.newRound_check_iff, fun p => ?_⟩
  · rw [← period_parked, ← hb]; rfl
  · simp only [State.newRound, Table.read_ofIdx]
    exact assigned_iff s.ctl.working.comps p

end Sys2Proof.Machine

namespace Sys2Proof.Machine

/-! ### The publication of a round -/

namespace State

theorem completeCheck_frame (s : State) (a b : BitVec 16) :
    s.completeCheck a b = { s with
      fe := (s.completeCheck a b).fe, marks := (s.completeCheck a b).marks, ports := (s.completeCheck a b).ports } := by
  unfold completeCheck
  rw [raiseIf_frame, requestIf_frame]

theorem completeCheck_fe (s : State) (a b : BitVec 16) :
    (s.completeCheck a b).fe = { s.fe with
      ref := s.fe.ref.check a b, checkDue := 0, checkRequest := s.fe.checkRequest && !(s.fe.ref.check a b).pass } := by
  simp [completeCheck]

/-- The mark of a check: one REFCHECK mark where the result changes or CONVERTER_FAULT is entered or left (R8). -/
def checkMarks (x y : RefRecord) : List Mark :=
  if x.pass = y.pass ∧ x.converterFault = y.converterFault then []
  else [.refcheck y.codeA y.codeB y.pass y.consecutive y.converterFault]

theorem completeCheck_marks (s : State) (a b : BitVec 16) :
    (s.completeCheck a b).marks = s.marks ++ checkMarks s.fe.ref (s.fe.ref.check a b) := by
  by_cases h : s.fe.ref.pass = (s.fe.ref.check a b).pass ∧ s.fe.ref.converterFault = (s.fe.ref.check a b).converterFault
  · simp [completeCheck, checkMarks, h]
  · simp only [completeCheck, checkMarks, raiseIf_marks, requestIf_marks, if_neg h, Bool.or_eq_true, bne_iff_ne, ne_eq,
      ← not_and_or, if_pos h]

/-- CONVERTER_FAULT entered or left makes SENSOR pending (R8). -/
theorem completeCheck_sensor {s : State} {a b : BitVec 16}
    (h : s.fe.ref.converterFault ≠ (s.fe.ref.check a b).converterFault) (q : Port) :
    hasKind ((s.completeCheck a b).ports.at q).pending .sensor = true := by
  have hb : (s.fe.ref.converterFault != (s.fe.ref.check a b).converterFault) = true := by simpa using h
  simp only [completeCheck, hb, raiseIf, if_true]
  exact hasKind_raise _ _ _

theorem completeCheck_ports {s : State} {a b : BitVec 16}
    (h : (s.fe.ref.check a b).converterFault = s.fe.ref.converterFault) : (s.completeCheck a b).ports = s.ports := by
  simp [completeCheck, h]

/-- The state after the check of a round, where the round makes one (R3 step 1). -/
def checkedFor (s : State) (r : Round) (conv : Conversion) : State :=
  if r.check then s.completeCheck conv.refA conv.refB else s

section checked

variable (s : State) (r : Round) (conv : Conversion)

theorem checkedFor_frame :
    s.checkedFor r conv = { s with
      fe := (s.checkedFor r conv).fe, marks := (s.checkedFor r conv).marks, ports := (s.checkedFor r conv).ports } := by
  unfold checkedFor; split <;> [exact completeCheck_frame s _ _; rfl]

theorem checkedFor_ref :
    (s.checkedFor r conv).fe.ref = if r.check then s.fe.ref.check conv.refA conv.refB else s.fe.ref := by
  unfold checkedFor; split <;> [rw [completeCheck_fe]; rfl]

theorem checkedFor_fe :
    (s.checkedFor r conv).fe = { s.fe with
      ref := (s.checkedFor r conv).fe.ref
      checkDue := if r.check then 0 else s.fe.checkDue
      checkRequest := s.fe.checkRequest && !(r.check && (s.checkedFor r conv).fe.ref.pass) } := by
  unfold checkedFor; split <;> rename_i h
  · simp only [completeCheck_fe, h, Bool.true_and]
  · simp only [Bool.not_eq_true] at h; simp [h]

@[simp] theorem checkedFor_probes : (s.checkedFor r conv).fe.probes = s.fe.probes := by rw [checkedFor_fe]
@[simp] theorem checkedFor_air : (s.checkedFor r conv).fe.air = s.fe.air := by rw [checkedFor_fe]
@[simp] theorem checkedFor_ctl : (s.checkedFor r conv).ctl = s.ctl := by rw [checkedFor_frame]

@[simp] theorem checkedFor_config (c : Fin 4) : (s.checkedFor r conv).config c = s.config c := by simp [config]
@[simp] theorem checkedFor_inUse (c : Fin 4) : (s.checkedFor r conv).inUse c = s.inUse c := by simp [inUse]

end checked

/-- The probes' changes of status reported from P0 to P7 (R13). -/
def reportProbes (s : State) (old new : Fin 8 → ProbeStatus) : State :=
  (List.finRange 8).foldl (fun t p => t.probeChange p (old p) (new p)) s

/-- The mark of a probe's change of status, where R13 asks for one. -/
def probeMark (p : Fin 8) (old new : ProbeStatus) : List Mark :=
  if ((old = .held ∧ new = .lost) ∨ (old = .recovering ∧ new = .good)) ∨ (old = .recovering ∧ new = .lost) then
    [.probe p old new]
  else []

theorem probeChange_marks (s : State) (p : Fin 8) (old new : ProbeStatus) :
    (s.probeChange p old new).marks = s.marks ++ probeMark p old new := by
  unfold probeChange probeMark
  split <;> rename_i h
  · simp [h]
  · split <;> rename_i h'
    · simp [h']
    · simp [h, h']

/-- The marks that the probes' changes request are PROBE marks, after those that stand. -/
theorem reportProbes_marks (s : State) (old new : Fin 8 → ProbeStatus) :
    (s.reportProbes old new).marks = s.marks ++ (List.finRange 8).flatMap fun p => probeMark p (old p) (new p) := by
  unfold reportProbes
  generalize List.finRange 8 = ps
  induction ps generalizing s with
  | nil => simp
  | cons p ps ih => rw [List.foldl_cons, ih, probeChange_marks, List.flatMap_cons, List.append_assoc]

theorem probeChange_self (s : State) (p : Fin 8) (x : ProbeStatus) : s.probeChange p x x = s := by
  cases x <;> simp [probeChange]

/-- Where no probe changes its status nothing is reported. -/
theorem reportProbes_self (s : State) {old new : Fin 8 → ProbeStatus} (h : ∀ p, new p = old p) :
    s.reportProbes old new = s := by
  have hf : (fun (t : State) p => t.probeChange p (old p) (new p)) = fun t _ => t := by
    funext t p; rw [h, probeChange_self]
  rw [reportProbes, hf]
  exact List.foldl_fixed _

/-- Whether a compartment in use enters or leaves SENSOR_LOST (R15). -/
def lostChanges (s : State) (air : Table AirRecord 4) : Bool :=
  (List.finRange 4).any fun c => s.inUse c && (s.fe.air.read c).lost != (air.read c).lost

theorem lostChanges_iff (s : State) (air : Table AirRecord 4) :
    s.lostChanges air = true ↔ ∃ c, s.inUse c = true ∧ (air.read c).lost ≠ (s.fe.air.read c).lost := by
  simp only [lostChanges, List.any_eq_true, List.mem_finRange, true_and, Bool.and_eq_true, bne_iff_ne]
  exact exists_congr fun _ => and_congr_right fun _ => ne_comm

/-- The reports of a publication: the probes' changes of status, then SENSOR where SENSOR_LOST changes (R13, R15). -/
def reportRound (s : State) (probes : Table Probe 8) : State :=
  (s.reportProbes (fun p => (s.fe.probes.read p).status) fun p => (probes.read p).status).raiseIf
    (s.lostChanges (s.stepAir probes)) .sensor

theorem reportRound_frame (s : State) (probes : Table Probe 8) :
    s.reportRound probes = { s with marks := (s.reportRound probes).marks, ports := (s.reportRound probes).ports } := by
  rw [reportRound, raiseIf_frame, reportProbes, probeChanges_frame]

@[simp] theorem reportRound_fe (s : State) (probes : Table Probe 8) : (s.reportRound probes).fe = s.fe := by
  rw [reportRound_frame]

theorem reportRound_marks (s : State) (probes : Table Probe 8) :
    (s.reportRound probes).marks = s.marks ++ (List.finRange 8).flatMap fun p =>
      probeMark p (s.fe.probes.read p).status (probes.read p).status := by
  rw [reportRound, raiseIf_marks, reportProbes_marks]

theorem reportRound_sensor_of_lost {s : State} {probes : Table Probe 8} (h : s.lostChanges (s.stepAir probes) = true)
    (q : Port) : hasKind ((s.reportRound probes).ports.at q).pending .sensor = true := by
  simp only [reportRound, raiseIf, h, if_true]
  exact hasKind_raise _ _ _

/-- A kind that is pending stays pending through the reports. -/
theorem reportRound_grows {s : State} (probes : Table Probe 8) {e : EventKind} {q : Port}
    (h : hasKind (s.ports.at q).pending e = true) : hasKind ((s.reportRound probes).ports.at q).pending e = true := by
  unfold reportRound raiseIf
  have hr := (probeChanges_grow (fun p => (s.fe.probes.read p).status) (fun p => (probes.read p).status)
    (List.finRange 8) s).2 e q h
  split <;> [exact hasKind_raise_of _ _ _ _ hr; exact hr]

/-- A probe that enters LOST from HELD, or GOOD from RECOVERING, makes SENSOR pending (R13). -/
theorem reportRound_sensor_of_probe {s : State} {probes : Table Probe 8} {p : Fin 8}
    (h : ((s.fe.probes.read p).status = .held ∧ (probes.read p).status = .lost) ∨
      ((s.fe.probes.read p).status = .recovering ∧ (probes.read p).status = .good)) (q : Port) :
    hasKind ((s.reportRound probes).ports.at q).pending .sensor = true := by
  unfold reportRound raiseIf
  have hr := (probeChanges_report (fun p => (s.fe.probes.read p).status) (fun p => (probes.read p).status)
    (List.finRange 8) p (List.mem_finRange p) h s).2 q
  split <;> [exact hasKind_raise_of _ _ _ _ hr; exact hr]

/-- Where no probe changes its status and no compartment its SENSOR_LOST the ports are left alone. -/
theorem reportRound_ports {s : State} {probes : Table Probe 8}
    (hp : ∀ p, (probes.read p).status = (s.fe.probes.read p).status) (hl : s.lostChanges (s.stepAir probes) = false) :
    (s.reportRound probes).ports = s.ports := by
  rw [reportRound, reportProbes_self _ hp, hl]; rfl

/-! The publication of a due round, field by field. -/

section publish

variable (s : State) (r : Round) (conv : Conversion)

/-- The probes after the readings of a round (R3 steps 1 to 3). -/
def probesAfter : Table Probe 8 := (s.checkedFor r conv).stepProbes r conv

theorem publish_due {s : State} {r : Round} (conv : Conversion) (hr : s.fe.round = some r) (hn : r.start + 2 ≤ s.now)
    (hp : s.powered = true) (hm : s.ctl.mode.hasRounds = true) : s.publish conv = s.publishRound r conv := by
  simp [publish, publishDue, hr, hn, hp, hm]

/-- The state of a round's publication before it is handed on (R3 steps 1 to 5, R7). -/
def roundTaken : State :=
  let t := (s.checkedFor r conv).reportRound (s.probesAfter r conv)
  { t with fe := { t.fe with
    probes := s.probesAfter r conv
    air := (s.checkedFor r conv).stepAir (s.probesAfter r conv)
    round := none
    lastStart := some r.start
    checkDue := t.fe.checkDue + equivalents r.parked } }

theorem publishRound_eq :
    s.publishRound r conv = (s.roundTaken r conv).handPublication ((s.roundTaken r conv).publicationOf r) := rfl

theorem roundTaken_fe :
    (s.roundTaken r conv).fe = { (s.checkedFor r conv).fe with
      probes := s.probesAfter r conv
      air := (s.checkedFor r conv).stepAir (s.probesAfter r conv)
      round := none
      lastStart := some r.start
      checkDue := (s.checkedFor r conv).fe.checkDue + equivalents r.parked } := by
  simp [roundTaken]

theorem roundTaken_marks :
    (s.roundTaken r conv).marks = (s.checkedFor r conv).marks ++ (List.finRange 8).flatMap fun p =>
      probeMark p (s.fe.probes.read p).status ((s.probesAfter r conv).read p).status := by
  rw [← checkedFor_probes s r conv, ← reportRound_marks]
  rfl

theorem roundTaken_frame :
    s.roundTaken r conv = { s with
      fe := (s.roundTaken r conv).fe, marks := (s.roundTaken r conv).marks, ports := (s.roundTaken r conv).ports } := by
  have tr : ∀ {a b c : State} (f : FrontEnd), b = { a with fe := b.fe, marks := b.marks, ports := b.ports } →
      c = { b with marks := c.marks, ports := c.ports } →
      { c with fe := f } = { a with fe := f, marks := c.marks, ports := c.ports } := fun f h1 h2 => by rw [h2, h1]
  exact tr (s.roundTaken r conv).fe (checkedFor_frame s r conv) (reportRound_frame _ _)

theorem publishRound_frame :
    s.publishRound r conv = { s with
      fe := (s.publishRound r conv).fe
      pubs := (s.publishRound r conv).pubs
      marks := (s.publishRound r conv).marks
      ports := (s.publishRound r conv).ports } := by
  rw [publishRound_eq, roundTaken_frame]
  rfl

end publish

end State
end Sys2Proof.Machine

namespace Sys2Proof.Machine

/-! ### What a check gives -/

theorem checkPasses_iff (a b : BitVec 16) :
    checkPasses a b = true ↔ 12784 ≤ a.toNat ∧ a.toNat ≤ 12816 ∧ 51184 ≤ b.toNat ∧ b.toNat ≤ 51216 := by
  simp [checkPasses, and_assoc]

namespace RefRecord

variable (x : RefRecord) (a b : BitVec 16)

@[simp] theorem check_codeA : (x.check a b).codeA = a := rfl
@[simp] theorem check_codeB : (x.check a b).codeB = b := rfl

theorem check_pass_iff : (x.check a b).pass = true ↔
    12784 ≤ a.toNat ∧ a.toNat ≤ 12816 ∧ 51184 ≤ b.toNat ∧ b.toNat ≤ 51216 :=
  checkPasses_iff a b

theorem check_consecutive :
    (x.check a b).consecutive = if (x.check a b).pass then 0 else min (x.consecutive + 1) 3 := rfl

theorem check_converterFault_iff : (x.check a b).converterFault = true ↔
    (x.check a b).pass = false ∧ (x.converterFault = true ∨ (x.check a b).consecutive = 3) := by
  cases h : checkPasses a b <;> simp [check, h]

/-- The check that fails for the third time running enters CONVERTER_FAULT (R8). -/
theorem check_third {x : RefRecord} {a b : BitVec 16} (hc : x.consecutive = 2) (hf : checkPasses a b = false) :
    x.check a b = { codeA := a, codeB := b, pass := false, consecutive := 3, converterFault := true } := by
  simp [check, hf, hc]

end RefRecord

/-! ### The table of probe statuses -/

namespace Probe

variable {x : Probe} {code : BitVec 16} {v : Int} {c u : Bool}

theorem step_good_of_valid (h : x.status = .unknown ∨ x.status = .good ∨ x.status = .held ∨
    (x.status = .recovering ∧ 2 ≤ x.run)) :
    x.step code (.valid v c u) =
      { x with raw := some code, reading := some (.valid v c u), status := .good, run := 0, held := some v } := by
  rcases h with h | h | h | ⟨h, hr⟩
  · simp [step, h]
  · simp [step, h]
  · simp [step, h]
  · have : 3 ≤ x.run + 1 := by omega
    simp [step, h, this]

theorem step_recovering_of_lost (h : x.status = .lost) :
    x.step code (.valid v c u) =
      { x with raw := some code, reading := some (.valid v c u), status := .recovering, run := 1 } := by
  simp [step, h]

theorem step_recovering_of_recovering (h : x.status = .recovering) (hr : x.run < 2) :
    x.step code (.valid v c u) = { x with raw := some code, reading := some (.valid v c u), run := x.run + 1 } := by
  have : ¬ 3 ≤ x.run + 1 := by omega
  simp [step, h, this]

theorem step_fault_of_unknown (h : x.status = .unknown) :
    x.step code .fault =
      { x with raw := some code, reading := some .fault, status := .held, run := 1, held := none } := by
  simp [step, h]

theorem step_fault_of_good (h : x.status = .good) :
    x.step code .fault = { x with raw := some code, reading := some .fault, status := .held, run := 1 } := by
  simp [step, h]

theorem step_fault_of_held (h : x.status = .held) (hr : x.run < 2) :
    x.step code .fault = { x with raw := some code, reading := some .fault, run := x.run + 1 } := by
  have : ¬ 3 ≤ x.run + 1 := by omega
  simp [step, h, this]

theorem step_lost_of_fault (h : x.status = .recovering ∨ (x.status = .held ∧ 2 ≤ x.run)) :
    x.step code .fault = { x with raw := some code, reading := some .fault, status := .lost, run := 0 } := by
  rcases h with h | ⟨h, hr⟩
  · simp [step, h]
  · have : 3 ≤ x.run + 1 := by omega
    simp [step, h, this]

theorem step_fault_of_lost (h : x.status = .lost) :
    x.step code .fault = { x with raw := some code, reading := some .fault } := by
  simp [step, h]

theorem contribution_good (hs : x.status = .good) (hr : x.reading = some (.valid v c u)) :
    x.contribution = some (v, c, u, false) := by
  simp [contribution, hs, hr]

theorem contribution_held (hs : x.status = .held) : x.contribution = x.held.map fun v => (v, false, false, true) := by
  simp [contribution, hs]

theorem contribution_none (h : x.status ≠ .good) (h' : x.status ≠ .held) : x.contribution = none := by
  unfold contribution
  split
  · next hs _ => exact absurd hs h
  · next hs => exact absurd hs h'
  · rfl

/-- Whatever a probe reads becomes its latest reading (R4). -/
@[simp] theorem step_reading (x : Probe) (code : BitVec 16) (r : Reading) : (x.step code r).reading = some r := by
  unfold step
  repeat' split
  all_goals rfl

end Probe

namespace State

variable (s : State) (r : Round) (conv : Conversion)

theorem probesAfter_read (i : Fin 8) :
    (s.probesAfter r conv).read i =
      if r.converted.read i = true ∧ (s.fe.probes.read i).status ≠ .unused then
        (s.fe.probes.read i).step (conv.codes.read i)
          (readingOf (conv.codes.read i) (r.trims.read i) (s.checkedFor r conv).fe.ref)
      else s.fe.probes.read i := by
  simp [probesAfter, stepProbes]

theorem publishRound_fe :
    (s.publishRound r conv).fe = { (s.checkedFor r conv).fe with
      probes := s.probesAfter r conv
      air := (s.checkedFor r conv).stepAir (s.probesAfter r conv)
      round := none
      lastStart := some r.start
      checkDue := (s.checkedFor r conv).fe.checkDue + equivalents r.parked } :=
  roundTaken_fe s r conv

theorem publishRound_probes : (s.publishRound r conv).fe.probes = s.probesAfter r conv := by
  rw [publishRound_fe]

theorem publishRound_ref :
    (s.publishRound r conv).fe.ref = if r.check then s.fe.ref.check conv.refA conv.refB else s.fe.ref := by
  rw [publishRound_fe, ← checkedFor_ref]

theorem publishRound_checkDue :
    (s.publishRound r conv).fe.checkDue = (if r.check then 0 else s.fe.checkDue) + equivalents r.parked := by
  rw [publishRound_fe, checkedFor_fe]

theorem publishRound_checkRequest :
    (s.publishRound r conv).fe.checkRequest =
      (s.fe.checkRequest && !(r.check && (s.publishRound r conv).fe.ref.pass)) := by
  rw [publishRound_fe, checkedFor_fe]

theorem publishRound_air_read (c : Fin 4) :
    (s.publishRound r conv).fe.air.read c =
      if s.inUse c then airOf (s.config c) (s.probesAfter r conv) (s.fe.air.read c) else s.fe.air.read c := by
  rw [publishRound_fe]
  simp [stepAir]

theorem publishRound_marks :
    (s.publishRound r conv).marks = (s.checkedFor r conv).marks ++ (List.finRange 8).flatMap fun p =>
      probeMark p (s.fe.probes.read p).status ((s.probesAfter r conv).read p).status :=
  roundTaken_marks s r conv

theorem publishRound_ports :
    (s.publishRound r conv).ports = ((s.checkedFor r conv).reportRound (s.probesAfter r conv)).ports := rfl

theorem publishRound_lostChanges_iff :
    (s.checkedFor r conv).lostChanges ((s.checkedFor r conv).stepAir (s.probesAfter r conv)) = true ↔
      ∃ c, s.inUse c = true ∧ ((s.publishRound r conv).fe.air.read c).lost ≠ (s.fe.air.read c).lost := by
  rw [lostChanges_iff]
  simp only [checkedFor_inUse, checkedFor_air]
  rw [publishRound_fe]

/-- The publication that a due round hands on. -/
def publicationAfter : Publication := (s.roundTaken r conv).publicationOf r

theorem publishRound_pubs :
    (s.publishRound r conv).pubs =
      { line := s.pubs.line ++ [s.publicationAfter r conv], monitor := s.pubs.monitor ++ [s.publicationAfter r conv],
        engine := s.pubs.engine ++ [s.publicationAfter r conv], claims := s.pubs.claims ++ [s.publicationAfter r conv],
        control := s.pubs.control ++ [s.publicationAfter r conv], store := s.pubs.store ++ [s.publicationAfter r conv] } := by
  have h : (s.roundTaken r conv).pubs = s.pubs := by rw [roundTaken_frame]
  rw [publishRound_eq, ← h]
  rfl

theorem publicationAfter_second : (s.publicationAfter r conv).second = s.now := by
  change (s.roundTaken r conv).now = s.now
  rw [roundTaken_frame]; rfl

theorem publicationAfter_check :
    (s.publicationAfter r conv).check = if r.check then some (s.publishRound r conv).fe.ref.pass else none := rfl

theorem publicationAfter_air_read (c : Fin 4) :
    (s.publicationAfter r conv).air.read c = if s.inUse c then some ((s.publishRound r conv).fe.air.read c) else none := by
  have h : (s.roundTaken r conv).inUse c = s.inUse c := by rw [roundTaken_frame]; rfl
  rw [← h]
  exact Table.read_mapIdx _ _ c

/-- A publication at which nothing changes its status leaves the ports alone. -/
theorem publishRound_ports_kept {s : State} {r : Round} {conv : Conversion}
    (ha : ∀ c, s.inUse c = true → ((s.publishRound r conv).fe.air.read c).lost = (s.fe.air.read c).lost)
    (hp : ∀ i, ((s.publishRound r conv).fe.probes.read i).status = (s.fe.probes.read i).status)
    (hf : (s.publishRound r conv).fe.ref.converterFault = s.fe.ref.converterFault) :
    (s.publishRound r conv).ports = s.ports := by
  have hl : (s.checkedFor r conv).lostChanges ((s.checkedFor r conv).stepAir (s.probesAfter r conv)) = false := by
    rw [← Bool.not_eq_true, publishRound_lostChanges_iff]
    rintro ⟨c, hc, hne⟩
    exact hne (ha c hc)
  rw [publishRound_probes] at hp
  rw [publishRound_ports, reportRound_ports (by simpa using hp) hl]
  rw [publishRound_ref] at hf
  unfold checkedFor
  split <;> rename_i hc
  · rw [if_pos hc] at hf; exact completeCheck_ports hf
  · rfl

end State

/-- Settles O14: the check, the table of probe statuses, and the publication field by field. -/
theorem roundIsPublished : Obligations.RoundIsPublished := by
  unfold Obligations.RoundIsPublished
  refine ⟨?_, fun x code => ⟨?_, ?_, fun v c u => Probe.contribution_good, Probe.contribution_held, Probe.contribution_none⟩, ?_⟩
  · rintro x y a b rfl
    exact ⟨rfl, rfl, x.check_pass_iff a b, x.check_consecutive a b, x.check_converterFault_iff a b⟩
  · rintro v c u y rfl
    exact ⟨Probe.step_good_of_valid, Probe.step_recovering_of_lost, Probe.step_recovering_of_recovering⟩
  · rintro y rfl
    exact ⟨Probe.step_fault_of_unknown, Probe.step_fault_of_good, Probe.step_fault_of_held, Probe.step_lost_of_fault,
      Probe.step_fault_of_lost⟩
  · intro s r conv hr hn hp hm
    have hpub := State.publish_due conv hr hn hp ((hasRounds_iff _).mpr hm)
    refine ⟨s.publishRound r conv, s.publicationAfter r conv, by rw [← hpub]; rfl, s.publishRound_frame r conv,
      s.publishRound_ref r conv, ?_, ?_, ?_, s.publishRound_checkDue r conv, s.publishRound_checkRequest r conv, ?_,
      s.publishRound_air_read r conv, rfl, rfl, rfl, s.publicationAfter_second r conv, s.publicationAfter_check r conv, ?_,
      s.publicationAfter_air_read r conv, s.publishRound_pubs r conv, ?_, State.publishRound_ports_kept⟩
    · rw [State.publishRound_fe]
    · rw [State.publishRound_fe]
    · rw [State.publishRound_fe, State.checkedFor_fe]
    · intro i
      rw [State.publishRound_probes, State.publishRound_ref, ← State.checkedFor_ref]
      exact s.probesAfter_read r conv i
    · exact fun i => Table.read_mapIdx _ _ i
    · intro h q
      rw [State.publishRound_ports]
      exact State.reportRound_sensor_of_lost ((s.publishRound_lostChanges_iff r conv).mpr h) q

end Sys2Proof.Machine

namespace Sys2Proof.Machine

/-! ### Probes lost and recovered, and checks -/

/-- A probe that the round converts steps on its reading. -/
theorem State.probesAfter_converted {s : State} {r : Round} {conv : Conversion} {p : Fin 8}
    (hc : r.converted.read p = true) (hu : (s.fe.probes.read p).status ≠ .unused) :
    (s.probesAfter r conv).read p = (s.fe.probes.read p).step (conv.codes.read p)
      (readingOf (conv.codes.read p) (r.trims.read p) (s.checkedFor r conv).fe.ref) := by
  rw [State.probesAfter_read, if_pos ⟨hc, hu⟩]

/-- A probe that enters LOST from HELD, or GOOD from RECOVERING, at a publication has its mark requested and makes SENSOR
pending (R13). -/
theorem State.publishRound_reports {s : State} {r : Round} {conv : Conversion} {p : Fin 8} {old new : ProbeStatus}
    (ho : (s.fe.probes.read p).status = old) (hn : ((s.probesAfter r conv).read p).status = new)
    (h : (old = .held ∧ new = .lost) ∨ (old = .recovering ∧ new = .good)) :
    Mark.probe p old new ∈ (s.publishRound r conv).marks ∧
      ∀ q, hasKind ((s.publishRound r conv).ports.at q).pending .sensor = true := by
  subst ho hn
  constructor
  · rw [publishRound_marks]
    refine List.mem_append_right _ (List.mem_flatMap.mpr ⟨p, List.mem_finRange p, ?_⟩)
    simp [probeMark, h]
  · intro q
    rw [publishRound_ports]
    exact reportRound_sensor_of_probe (by simpa using h) q

/-- Settles O15: the publication steps the probe by the third reading, and reports its change of status. -/
theorem thirdReadingLosesOrRecoversAProbe : Obligations.ThirdReadingLosesOrRecoversAProbe := by
  unfold Obligations.ThirdReadingLosesOrRecoversAProbe
  intro s r conv p ref hr hn hp hm hc hrun href
  have hpub := State.publish_due conv hr hn hp ((hasRounds_iff _).mpr hm)
  rw [← State.checkedFor_ref] at href
  subst href
  constructor
  · intro hs hcode
    have hx := State.probesAfter_converted (conv := conv) hc (by rw [hs]; decide)
    rw [readingOf_fault hcode, Probe.step_lost_of_fault (.inr ⟨hs, hrun.ge⟩)] at hx
    obtain ⟨hmark, hsensor⟩ := State.publishRound_reports (r := r) (conv := conv) hs (by rw [hx]) (.inl ⟨rfl, rfl⟩)
    refine ⟨s.publishRound r conv, ?_, ?_, ?_, ?_, hmark, hsensor⟩
    · simp [exec, execProbeLost, hpub, hs, State.publishRound_probes, hx]
    all_goals rw [State.publishRound_probes, hx]
  · intro hs hf h0 h1
    have hx := State.probesAfter_converted (conv := conv) hc (by rw [hs]; decide)
    have hread := readingOf_valid (t := r.trims.read p) h0 h1 hf
    rw [hread, Probe.step_good_of_valid (.inr (.inr (.inr ⟨hs, hrun.ge⟩)))] at hx
    obtain ⟨hmark, hsensor⟩ := State.publishRound_reports (r := r) (conv := conv) hs (by rw [hx]) (.inr ⟨rfl, rfl⟩)
    refine ⟨s.publishRound r conv, _, _, _, ?_, hread, ?_, ?_, ?_, hmark, hsensor⟩
    · simp [exec, execProbeRecovered, hpub, hs, State.publishRound_probes, hx]
    all_goals rw [State.publishRound_probes, hx]

namespace State

/-- The marks of a publication that makes the check: those of the check, then PROBE marks. -/
theorem publishRound_marks_checked {s : State} {r : Round} {conv : Conversion} (hc : r.check = true) :
    (s.publishRound r conv).marks = s.marks ++ checkMarks s.fe.ref (s.fe.ref.check conv.refA conv.refB) ++
      (List.finRange 8).flatMap fun p => probeMark p (s.fe.probes.read p).status ((s.probesAfter r conv).read p).status := by
  rw [publishRound_marks, checkedFor, if_pos hc, completeCheck_marks]

theorem publishRound_sensor_of_check {s : State} {r : Round} {conv : Conversion} (hc : r.check = true)
    (h : s.fe.ref.converterFault ≠ (s.fe.ref.check conv.refA conv.refB).converterFault) (q : Port) :
    hasKind ((s.publishRound r conv).ports.at q).pending .sensor = true := by
  rw [publishRound_ports]
  refine reportRound_grows _ ?_
  rw [checkedFor, if_pos hc]
  exact completeCheck_sensor h q

/-- The marks that the probes' changes of status request are PROBE marks (R13). -/
theorem mem_probeMarks {old new : Fin 8 → ProbeStatus} {m : Mark}
    (h : m ∈ (List.finRange 8).flatMap fun p => probeMark p (old p) (new p)) : ∃ p old new, m = .probe p old new := by
  obtain ⟨p, -, hp⟩ := List.mem_flatMap.mp h
  unfold probeMark at hp
  split at hp
  · exact ⟨p, old p, new p, List.mem_singleton.mp hp⟩
  · exact absurd hp List.not_mem_nil

/-! The end of waking. -/

theorem beginRound_frame (s : State) : s.beginRound = { s with
    fe := { s.fe with nextStart := s.beginRound.fe.nextStart, round := s.beginRound.fe.round } } := by
  unfold beginRound
  split
  · rfl
  · split <;> rfl

theorem completeCheck_parkCondition (s : State) (a b : BitVec 16) : (s.completeCheck a b).parkCondition = s.parkCondition := by
  rw [completeCheck_frame]; rfl

/-- The mode that waking ends in (R178). -/
def wakingMode (s : State) : Mode := if s.parkCondition then .parked else .service

/-- The waking check, the estimates made due and the mode change, before the round starts (R178). -/
def wakingEntered (s : State) (a b : BitVec 16) : State :=
  (s.completeCheck a b).startEstimates.enterMode s.wakingMode .wakingDone

theorem completeWaking_eq {s : State} (a b : BitVec 16) (hp : s.powered = true) (hm : s.ctl.mode = .waking)
    (hc : s.ctl.wakingCheck = true) : s.completeWaking a b = (s.wakingEntered a b).beginRound := by
  have h : (s.completeCheck a b).startEstimates.parkCondition = s.parkCondition := completeCheck_parkCondition s a b
  simp only [completeWaking, hp, hm, hc, h]
  rfl

section waking

variable (s : State) (a b : BitVec 16)

theorem wakingEntered_mode : (s.wakingEntered a b).ctl.mode = s.wakingMode := rfl

theorem wakingEntered_ref : (s.wakingEntered a b).fe.ref = s.fe.ref.check a b := by
  change (s.completeCheck a b).fe.ref = _
  rw [completeCheck_fe]

theorem wakingEntered_checkDue : (s.wakingEntered a b).fe.checkDue = 0 := by
  change (s.completeCheck a b).fe.checkDue = _
  rw [completeCheck_fe]

theorem wakingEntered_marks : (s.wakingEntered a b).marks =
    s.marks ++ checkMarks s.fe.ref (s.fe.ref.check a b) ++ [.mode s.ctl.mode s.wakingMode .wakingDone] := by
  rw [← completeCheck_marks]
  change (s.completeCheck a b).marks ++ [.mode (s.completeCheck a b).ctl.mode s.wakingMode .wakingDone] = _
  rw [completeCheck_frame]

theorem wakingEntered_sensor {s : State} {a b : BitVec 16}
    (h : s.fe.ref.converterFault ≠ (s.fe.ref.check a b).converterFault) (q : Port) :
    hasKind ((s.wakingEntered a b).ports.at q).pending .sensor = true :=
  hasKind_raise_of _ _ _ _ (completeCheck_sensor h q)

end waking

end State

/-- Settles O16: the publication that makes the check and the end of waking request the check's own mark, and the third failure
in a row enters CONVERTER_FAULT. -/
theorem thirdFailedCheckEntersConverterFault : Obligations.ThirdFailedCheckEntersConverterFault := by
  unfold Obligations.ThirdFailedCheckEntersConverterFault
  constructor
  · intro s r conv hr hn hp hm hw hc h2 hf hcodes
    have hpub := State.publish_due conv hr hn hp ((hasRounds_iff _).mpr hm)
    have hfail : checkPasses conv.refA conv.refB = false := by
      rw [← Bool.not_eq_true, checkPasses_iff]; omega
    have hy := RefRecord.check_third h2 hfail
    have href := s.publishRound_ref r conv
    rw [if_pos hc, hy] at href
    have hdue := s.publishRound_checkDue r conv
    rw [if_pos hc, Nat.zero_add] at hdue
    refine ⟨s.publishRound r conv, ?_, href, hdue, ?_,
      State.publishRound_sensor_of_check hc (by rw [hy, hf]; exact Bool.false_ne_true)⟩
    · simp [exec, execConverterFault, hw, hpub, hf, href]
    · rw [State.publishRound_marks_checked hc, hy]
      simp [State.checkMarks, hf]
  · rintro s a b y own hp rfl rfl
    constructor
    · rintro r conv hr hn hm hc rfl rfl
      have hpub := State.publish_due conv hr hn hp ((hasRounds_iff _).mpr hm)
      have href := s.publishRound_ref r conv
      rw [if_pos hc] at href
      exact ⟨s.publishRound r conv, _, by rw [← hpub]; rfl, href, State.publishRound_marks_checked hc,
        fun m => State.mem_probeMarks, State.publishRound_sensor_of_check hc⟩
    · intro hm hc
      refine ⟨(s.wakingEntered a b).beginRound, by rw [← State.completeWaking_eq a b hp hm hc]; rfl, ?_⟩
      rw [State.beginRound_frame]
      exact ⟨s.wakingEntered_ref a b, s.wakingEntered_checkDue a b, by rw [State.wakingEntered_marks, hm]; rfl,
        State.wakingEntered_sensor⟩

/-! ### SET_PROBE -/

theorem State.take_edit_wrongMode {h : Header} {s : State} (hs : Taken .config h s) (hm : s.ctl.mode ≠ .setup)
    (body : State → State) : s.take .config h (fun s => s.edit h body) = s.respond h .wrongMode [] := by
  rw [State.take_taken hs, State.edit, if_pos hm]

theorem State.take_edit_busy {h : Header} {s : State} (hs : Taken .config h s) (hm : s.ctl.mode = .setup)
    (hc : s.ctl.commit ≠ none) (body : State → State) :
    s.take .config h (fun s => s.edit h body) = s.respond h .busy [] := by
  have : s.ctl.commit.isSome = true := Option.isSome_iff_ne_none.mpr hc
  rw [State.take_taken hs, State.edit, if_neg (not_not.mpr hm), if_pos this]

/-- An index field names an index by its value. -/
theorem index_of_val {n : Nat} {b : Byte} {i : Fin n} (h : b.toNat = i.val) : index n b = some i := by
  rw [index_of_lt (h ▸ i.isLt)]
  exact congrArg some (Fin.ext h)

theorem clampedIf_bne {α : Type} [DecidableEq α] (x y : α) : clampedIf (x != y) = if x = y then .ok else .clamped := by
  by_cases h : x = y <;> simp [clampedIf, h]

theorem clampedIf_bne_or {α β : Type} [DecidableEq α] [DecidableEq β] (x y : α) (z w : β) :
    clampedIf (x != y || z != w) = if x = y ∧ z = w then .ok else .clamped := by
  by_cases h : x = y <;> by_cases h' : z = w <;> simp [clampedIf, h, h']

/-- Working settings that were the committed ones differ from them after a write of one trim unless it stands there already. -/
theorem trims_write_ne_iff (w : Settings) (p : Fin 8) (t : Trim) :
    { w with trims := w.trims.write p t } ≠ w ↔ w.trims.read p ≠ t := by
  refine not_congr ⟨fun h => ?_, ?_⟩
  · rw [← congrArg Settings.trims h]
    exact Table.read_write_same _ _ _
  · rintro rfl
    rw [Table.write_read]

/-- Settles O11: SET_PROBE's refusals and its effect, and the trims of a round at its start and at its publication. -/
theorem probeTrimsAreStoredClamped : Obligations.ProbeTrimsAreStoredClamped := by
  unfold Obligations.ProbeTrimsAreStoredClamped
  constructor
  · intro h probe offset gain s hs
    refine ⟨fun hm => congrArg Host.Outcome.next (State.take_edit_wrongMode hs hm _),
      fun hm hc => congrArg Host.Outcome.next (State.take_edit_busy hs hm hc _),
      fun hm hc => ?_⟩
    have he := fun body => State.take_edit (body := body) ({ toTaken := hs, setup := hm, free := hc } : Editable h s)
    constructor
    · rintro p o g hp rfl rfl
      refine ⟨_, rfl, ?_, fun hw => ?_⟩
      · refine congrArg Host.Outcome.next ((he _).trans ?_)
        simp only [index_of_val hp, clampedIf_bne_or, clampInt_eq, hp]
      · rw [hw]
        exact trims_write_ne_iff _ _ _
    · intro h8
      refine congrArg Host.Outcome.next ((he _).trans ?_)
      simp only [index_of_ge h8]
  · intro s hp hm
    constructor
    · intro n hn hle hr
      exact ⟨_, s.newRound,
        congrArg Host.Outcome.next (State.beginRound_due hp ((hasRounds_iff _).mpr hm) hn hle hr), rfl, rfl⟩
    · intro r conv p hr hn hc hu
      refine ⟨s.publishRound r conv,
        congrArg Host.Outcome.next (State.publish_due conv hr hn hp ((hasRounds_iff _).mpr hm)), ?_⟩
      rw [State.publishRound_probes, State.probesAfter_converted hc hu, Probe.step_reading, State.publishRound_ref,
        State.checkedFor_ref]

end Sys2Proof.Machine

namespace Sys2Proof.Machine

/-! ## Reads (files 01 to 10) -/

/-- A command that is taken completes with what its own rule gives. -/
theorem next_take_taken {g : Group} {h : Header} {s : State} (hs : Taken g h s) (body : State → State) :
    (Host.Outcome.next (s.take g h body) : Host.Outcome State Fault Refusal) = .next (body s) :=
  congrArg _ (State.take_taken hs body)

theorem State.stale_eq (s : State) : s.stale = decide (s.ctl.mode = .dormant ∨ s.ctl.mode = .waking) := by
  rw [State.stale, Bool.decide_or]; rfl

section reads

variable {h : Header} {s : State}

theorem exec_readProbes (hs : Taken .readings h s) :
    exec (.readProbes h) s = .next (s.respond h .ok (present s.fe.lastStart 4 u32 ++
      flag (decide (s.ctl.mode = .dormant ∨ s.ctl.mode = .waking)) ++ flag s.fe.ref.converterFault ++
      (List.finRange 8).flatMap s.probeBytes)) := by
  rw [← State.stale_eq]
  exact next_take_taken hs _

theorem exec_readAir (hs : Taken .readings h s) :
    exec (.readAir h) s = .next (s.respond h .ok (present s.fe.lastStart 4 u32 ++
      flag (decide (s.ctl.mode = .dormant ∨ s.ctl.mode = .waking)) ++ u8 s.ctl.mode.code ++
      (List.finRange 4).flatMap s.airBytes)) := by
  rw [← State.stale_eq]
  exact next_take_taken hs _

/-- The lowest and the highest of the numbers of a log that is not empty are those of two of its entries. -/
theorem log_bounds {log : List Episode} (hne : log ≠ []) :
    ∃ a ∈ log, ∃ b ∈ log, (log.map fun e => e.number).min? = some a.number ∧
      (log.map fun e => e.number).max? = some b.number ∧ ∀ e ∈ log, a.number ≤ e.number ∧ e.number ≤ b.number := by
  have hm : (log.map fun e => e.number) ≠ [] := by simpa using hne
  obtain ⟨lo, hlo⟩ := Option.isSome_iff_exists.mp (List.isSome_min?_of_ne_nil hm)
  obtain ⟨hi, hhi⟩ := Option.isSome_iff_exists.mp (List.isSome_max?_of_ne_nil hm)
  obtain ⟨hlo1, hlo2⟩ := List.min?_eq_some_iff.mp hlo
  obtain ⟨hhi1, hhi2⟩ := List.max?_eq_some_iff.mp hhi
  obtain ⟨a, ha, rfl⟩ := List.mem_map.mp hlo1
  obtain ⟨b, hb, rfl⟩ := List.mem_map.mp hhi1
  exact ⟨a, ha, b, hb, hlo, hhi, fun e he => ⟨hlo2 _ (List.mem_map_of_mem he), hhi2 _ (List.mem_map_of_mem he)⟩⟩

theorem exec_readDoorLog (hs : Taken .readings h s) (start : BitVec 32) (count : Byte) :
    exec (.readDoorLog h start count) s =
      .next (s.respond h (if max 1 (min 8 count.toNat) = count.toNat then .ok else .clamped)
        (u8 s.lines.log.length ++ u8 (s.lines.log.filter fun e => e.stop.isNone).length ++
          present (s.lines.log.map fun e => e.number).min? 4 u32 ++ present (s.lines.log.map fun e => e.number).max? 4 u32 ++
          u32 s.lines.nextEpisode ++
          members ((s.lines.log.filter fun e => start.toNat ≤ e.number).take (max 1 (min 8 count.toNat))) Episode.bytes)) := by
  rw [← clampedIf_bne]
  exact next_take_taken hs _

theorem exec_readConsignment_byId (hs : Taken .readings h s) (id : BitVec 32) :
    exec (.readConsignment h (.byId id)) s = .next (match s.byId id with
      | some (j, x) => s.respond h .ok (s.consBytes j x)
      | none => s.respond h .notFound []) :=
  (next_take_taken hs _).trans rfl

theorem exec_readConsignment_bySlot (hs : Taken .readings h s) {b : Byte} {j : Fin 32} (hj : b.toNat = j.val) :
    exec (.readConsignment h (.bySlot b)) s = .next (match s.cons.read j with
      | some x => s.respond h .ok (s.consBytes j x)
      | none => s.respond h .notFound []) := by
  refine (next_take_taken hs _).trans ?_
  cases hx : s.cons.read j <;> simp only [index_of_val hj, hx]

theorem exec_readClaim_bySlot (hs : Taken .claims h s) {b : Byte} {i : Fin 16} (hi : b.toNat = i.val) :
    exec (.readClaim h (.bySlot b)) s = .next (match s.claims.table.read i with
      | some k => s.respond h .ok (s.claimBytes k)
      | none => s.respond h .notFound []) := by
  refine (next_take_taken hs _).trans ?_
  cases hk : s.claims.table.read i <;> simp only [index_of_val hi, hk]

end reads

/-- Settles O57: each read command is taken, and its rule is the answer. -/
theorem readsChangeNothing : Obligations.ReadsChangeNothing := by
  unfold Obligations.ReadsChangeNothing
  intro h s
  refine ⟨fun hs => ⟨exec_readProbes hs, exec_readAir hs, ⟨_, next_take_taken hs _, rfl⟩, ?_, ?_, ?_, ?_, ?_⟩,
    fun hs => ⟨fun n => next_take_taken hs _, ?_, fun b i => exec_readClaim_bySlot hs⟩,
    fun hs id => ?_, fun hs n => next_take_taken hs _, fun hs => next_take_taken hs _⟩
  · rintro start count n rfl
    refine ⟨_, _, exec_readDoorLog hs start count, fun h0 => by simp [h0], fun hne => ?_⟩
    obtain ⟨a, ha, b, hb, hlo, hhi, hall⟩ := log_bounds hne
    exact ⟨a, ha, b, hb, hlo, hhi, hall⟩
  · intro id j x hx
    rw [exec_readConsignment_byId hs, hx]
  · intro id hx
    rw [exec_readConsignment_byId hs, hx]
  · intro b hb
    refine (next_take_taken hs _).trans ?_
    simp only [index_of_ge hb]
  · exact fun b j => exec_readConsignment_bySlot hs
  · intro b hb
    refine (next_take_taken hs _).trans ?_
    simp only [index_of_ge hb]
  · refine (next_take_taken hs _).trans ?_
    cases s.byId id <;> rfl

end Sys2Proof.Machine

namespace Sys2Proof.Machine

/-! ## The mode and time controller (file 09) -/

/-! ### RESTART -/

/-- RESTART on the T-port passes the port's checks in every mode outside START, also with a command in flight (R188). -/
theorem restart_taken {s : State} (tag : Byte) (hp : s.powered = true) (hm : s.ctl.mode ≠ .start) :
    cmdRestart { port := .t, tag := tag } s =
      ((s.modPort .t fun u => { u with inFlight := none }).restart).respond { port := .t, tag := tag } .ok [] := by
  have ht : Taken .mode { port := .t, tag := tag } (s.modPort .t fun u => { u with inFlight := none }) :=
    ⟨hp, hm, rfl, rfl⟩
  rw [← State.take_taken ht fun s => s.restart.respond { port := .t, tag := tag } .ok []]
  simp [cmdRestart, hp, hm]

/-- What RESTART leaves of a port: the responses queued on a port other than T, what it received and what it sent (R181). -/
theorem restartPort_eq (p : Port) (u : PortUnit) :
    restartPort p u = { u with
      framer := { state := .rest, expected := 0, chars := [] }
      inFlight := none
      responses := if p = .t then [] else u.responses
      timeouts := 0
      breaks := 0
      strays := 0
      errors := 0
      pending := 0#12
      enable := defaultEnables.at p
      attention := false } := by
  simp [restartPort, PortUnit.sync, State.resetPort]

/-- Settles O52. -/
theorem restartResetsThePorts : Obligations.RestartResetsThePorts := by
  unfold Obligations.RestartResetsThePorts
  intro tag s hp hm
  refine ⟨_, congrArg Host.Outcome.next (restart_taken tag hp hm), ?_, ?_⟩
  · simp only [← hasRounds_iff]
    rfl
  · intro q
    have hq : ∀ q, ((s.modPort .t fun u => { u with inFlight := none }).restart.ports).at q =
        restartPort q { s.ports.at q with inFlight := none } := by
      intro q; cases q <;> rfl
    rw [State.respond_ports, PerPort.at_put]
    cases q <;> simp [hq, restartPort_eq]

/-! ### The service mode -/

/-- The first index at which a search over all indices succeeds gives its result. -/
theorem findSome?_finRange {n : Nat} {β : Type} {f : Fin n → Option β} {i : Fin n} {y : β} (hi : f i = some y)
    (hlt : ∀ j, j < i → f j = none) : (List.finRange n).findSome? f = some y := by
  have key : ∀ l : List (Fin n), l.Pairwise (· < ·) → i ∈ l → l.findSome? f = some y := by
    intro l
    induction l with
    | nil => exact fun _ h => absurd h List.not_mem_nil
    | cons a l ih =>
      intro hl hmem
      obtain ⟨ha, hl⟩ := List.pairwise_cons.mp hl
      rcases List.mem_cons.mp hmem with rfl | hmem
      · simp [hi]
      · simp [hlt a (ha i hmem), ih hl hmem]
  exact key _ (List.pairwise_lt_finRange n) (List.mem_finRange i)

theorem findSome?_finRange_none {n : Nat} {β : Type} {f : Fin n → Option β} (h : ∀ i, f i = none) :
    (List.finRange n).findSome? f = none :=
  List.findSome?_eq_none_iff.mpr fun i _ => h i

namespace State

variable {s : State}

/-! The six tests of R171, in their order. -/

theorem compUnready_ready {c : Fin 4}
    (h : s.inUse c = true → (s.config c).zone ≠ none ∧ (s.config c).primary ≠ none) : s.compUnready c = none := by
  cases hu : s.inUse c
  · rw [inUse] at hu; simp [compUnready, hu]
  · obtain ⟨hz, hq⟩ := h hu
    simp [compUnready, hz, hq]

theorem compUnready_failing {c : Fin 4} (hu : s.inUse c = true)
    (h : (s.config c).zone = none ∨ (s.config c).primary = none) :
    s.compUnready c = some (if (s.config c).zone = none then .noZone else .noPrimary, c.val) := by
  rw [inUse] at hu
  by_cases hz : (s.config c).zone = none
  · simp [compUnready, hu, hz]
  · have hq := h.resolve_left hz
    simp [compUnready, hu, hz, hq]

theorem probeUnready_ready {p : Fin 8} (h : (assignment s.ctl.working.comps p).length < 2) : s.probeUnready p = none := by
  simp [probeUnready, h]

theorem probeUnready_failing {p : Fin 8} (h : 2 ≤ (assignment s.ctl.working.comps p).length) :
    s.probeUnready p = some (.probeShared, p.val) := by
  simp [probeUnready, h]

theorem lineUnready_ready {l : Fin 8}
    (h : ∀ c, (s.entry l).kind = .door ∨ (s.entry l).kind = .defrost → (s.entry l).comp = some c → s.inUse c = true) :
    s.lineUnready l = none := by
  unfold lineUnready
  refine if_neg ?_
  rintro ⟨hk, hc⟩
  obtain ⟨c, hc, hu⟩ := Option.map_eq_some_iff.mp hc
  rw [h c hk hc] at hu
  exact Bool.noConfusion hu

theorem lineUnready_failing {l : Fin 8} {c : Fin 4} (hk : (s.entry l).kind = .door ∨ (s.entry l).kind = .defrost)
    (hc : (s.entry l).comp = some c) (hu : s.inUse c = false) : s.lineUnready l = some (.lineUnmapped, l.val) := by
  simp [lineUnready, hk, hc, hu]

theorem unready_refcheck (h : s.fe.ref.pass = false) : s.unready = some (.refcheckFailed, 255) := by
  simp [unready, h]

theorem unready_noCompartment (hp : s.fe.ref.pass = true) (h : ∀ c, s.inUse c = false) :
    s.unready = some (.noCompartment, 255) := by
  simp [unready, hp, h]

/-- The tests that a part with a passed check and a compartment in use still has to meet. -/
theorem unready_rest {c : Fin 4} (hp : s.fe.ref.pass = true) (h : s.inUse c = true) :
    s.unready = ((List.finRange 4).findSome? s.compUnready).or
      (((List.finRange 8).findSome? s.probeUnready).or ((List.finRange 8).findSome? s.lineUnready)) := by
  have ha : (List.finRange 4).any s.inUse = true := List.any_eq_true.mpr ⟨c, List.mem_finRange c, h⟩
  simp [unready, hp, ha]

end State

section enter

variable {h : Header} {s : State}

theorem enterService_uncommitted (hs : Taken .mode h s) (hm : s.ctl.mode = .setup) (hc : s.ctl.commit = none)
    (hd : s.ctl.working ≠ s.committed) : exec (.enterService h) s = .next (s.respond h .uncommitted []) := by
  refine (next_take_taken hs _).trans ?_
  simp [hm, hc, State.differ, hd]

theorem enterService_notReady (hs : Taken .mode h s) (hm : s.ctl.mode = .setup) (hc : s.ctl.commit = none)
    (hd : s.ctl.working = s.committed) {d : Unready} {i : Nat} (hu : s.unready = some (d, i)) :
    exec (.enterService h) s = .next (s.respond h .notReady (u8 d.code ++ u8 i)) := by
  refine (next_take_taken hs _).trans ?_
  simp [hm, hc, State.differ, hd, hu]

theorem enterService_ready (hs : Taken .mode h s) (hm : s.ctl.mode = .setup) (hc : s.ctl.commit = none)
    (hd : s.ctl.working = s.committed) (hu : s.unready = none) :
    exec (.enterService h) s = .next
      (((s.enterMode .service .enterService).startEstimates).respond h .ok (u8 Mode.service.code)) := by
  refine (next_take_taken hs _).trans ?_
  simp [hm, hc, State.differ, hd, hu]

theorem enterMode_service_of_setup (hm : s.ctl.mode = .setup) (k : ModeCause) :
    (s.enterMode .service k).startEstimates = { s with
      ctl := { s.ctl with
        mode := .service, heldMode := .service, serviceRound := false, quiet := 0, warmUpEnd := none, wakingCheck := false }
      mon := s.mon.mapIdx fun c m => if s.inUse c then { m with startDue := true } else m
      marks := s.marks ++ [.mode .setup .service k]
      ports := (s.raise .mode).ports } := by
  have hf : s.enterMode .service k = { s with
      ctl := { s.ctl with
        mode := .service, heldMode := .service, serviceRound := false, quiet := 0, warmUpEnd := none, wakingCheck := false }
      fe := { s.fe with nextStart := State.schedule s.ctl.mode .service s.now s.fe.nextStart }
      marks := s.marks ++ [.mode s.ctl.mode .service k]
      ports := (s.raise .mode).ports } := rfl
  rw [hf, hm]
  rfl

theorem leaveService_held (hs : Taken .mode h s) (hm : s.ctl.mode = .service ∨ s.ctl.mode = .parked)
    (hq : s.quietNow = false) :
    exec (.leaveService h) s =
      .next (s.respond h .badState (u8 s.custodySlots.length ++ u8 s.hand.contexts.length)) := by
  refine (next_take_taken hs _).trans ?_
  have hm' : ¬ (s.ctl.mode ≠ .service ∧ s.ctl.mode ≠ .parked) := by tauto
  rw [if_neg hm', hq]; rfl

theorem leaveService_empty (hs : Taken .mode h s) (hm : s.ctl.mode = .service ∨ s.ctl.mode = .parked)
    (hq : s.quietNow = true) :
    exec (.leaveService h) s = .next ((s.enterMode .setup .leaveService).respond h .ok (u8 Mode.setup.code)) := by
  refine (next_take_taken hs _).trans ?_
  have hm' : ¬ (s.ctl.mode ≠ .service ∧ s.ctl.mode ≠ .parked) := by tauto
  rw [if_neg hm', hq]; rfl

/-- The next-start second at the entry to SETUP from SERVICE or PARKED (R2). -/
theorem schedule_setup {m : Mode} (hm : m = .service ∨ m = .parked) (n : Nat) (x : Option Nat) :
    State.schedule m .setup n x = if m = .parked then some (min (x.getD (n + 10)) (n + 10)) else x := by
  rcases hm with rfl | rfl <;> rfl

end enter

theorem quietNow_iff (s : State) : s.quietNow = true ↔ s.custodySlots = [] ∧ s.hand.contexts = [] := by
  simp [State.quietNow]

/-! Responses and pending kinds. -/

theorem responses_raise (s : State) (e : EventKind) (p : Port) :
    ((s.raise e).ports.at p).responses = (s.ports.at p).responses := by
  simp [PortUnit.setPending, PortUnit.sync]

/-- A response joins the queue of the port that its command came on (R188). -/
theorem responses_respond (s : State) (h : Header) (st : Status) (d : List Byte) :
    ((s.respond h st d).ports.at h.port).responses =
      (s.ports.at h.port).responses ++ [{ status := st, tag := h.tag, data := d }] := by
  simp

/-- A response leaves the pending sets alone. -/
theorem pending_respond (s : State) (h : Header) (st : Status) (d : List Byte) (q : Port) :
    ((s.respond h st d).ports.at q).pending = (s.ports.at q).pending := by
  rw [State.respond_ports, PerPort.at_put]
  split <;> [subst_vars; skip] <;> rfl

/-- Settles O48: ENTER_SERVICE is answered by the first of the six tests that fails, in their order; LEAVE_SERVICE by what is in
custody. -/
theorem serviceIsEnteredAndLeft : Obligations.ServiceIsEnteredAndLeft := by
  unfold Obligations.ServiceIsEnteredAndLeft
  intro h s hs
  constructor
  · intro hm hc
    refine ⟨enterService_uncommitted hs hm hc, fun hd => ?_⟩
    have fails {d : Unready} {i : Nat} (hu : s.unready = some (d, i)) := enterService_notReady hs hm hc hd hu
    refine ⟨fun hp => fails (State.unready_refcheck hp), fun hp =>
      ⟨fun hno => fails (State.unready_noCompartment hp hno), fun c hu hbad hbelow => ?_, ?_⟩⟩
    · have hfirst := findSome?_finRange (State.compUnready_failing hu hbad) fun d hd =>
        State.compUnready_ready (hbelow d hd)
      have hrest := State.unready_rest hp hu
      rw [hfirst] at hrest
      rw [fails hrest]
      split <;> rfl
    · rintro ⟨c, hu⟩ hcomps
      have hrest := State.unready_rest hp hu
      rw [findSome?_finRange_none fun d => State.compUnready_ready (hcomps d), Option.none_or] at hrest
      constructor
      · intro p hbad hbelow
        rw [findSome?_finRange (State.probeUnready_failing hbad) fun q hq => State.probeUnready_ready (hbelow q hq)] at hrest
        exact fails hrest
      · intro hprobes
        rw [findSome?_finRange_none fun p => State.probeUnready_ready (hprobes p), Option.none_or] at hrest
        constructor
        · intro l d hk hd hbad hbelow
          rw [findSome?_finRange (State.lineUnready_failing hk hd hbad) fun k hk => State.lineUnready_ready
            fun d => hbelow k d hk] at hrest
          exact fails hrest
        · intro hlines
          rw [findSome?_finRange_none fun l => State.lineUnready_ready (hlines l)] at hrest
          rw [enterService_ready hs hm hc hd hrest, enterMode_service_of_setup hm]
          rfl
  · intro hm
    refine ⟨fun hq => leaveService_held hs hm ?_, fun hcust hctx => ?_⟩
    · rw [← Bool.not_eq_true, quietNow_iff]; tauto
    · refine ⟨_, leaveService_empty hs hm ((quietNow_iff s).mpr ⟨hcust, hctx⟩), ?_, ?_, fun q => ?_⟩
      · rw [← schedule_setup hm]
        rfl
      · rw [State.answered, responses_respond]
        exact congrArg (· ++ _) (responses_raise _ _ _)
      · rw [pending_respond]
        exact hasKind_raise _ _ _

end Sys2Proof.Machine

namespace Sys2Proof.Machine

/-! ### Parking, sleep and waking -/

namespace State

variable {s : State}

theorem doorsClosed_iff (s : State) : s.doorsClosed = true ↔ ∀ c, s.inUse c = true → (s.mon.read c).door = .closed := by
  simp only [doorsClosed, List.all_eq_true, List.mem_finRange, true_imp_iff, Bool.or_eq_true, Bool.not_eq_true', beq_iff_eq]
  exact forall_congr' fun c => by cases s.inUse c <;> simp

/-- A service round taken in SERVICE parks the part where the park condition holds with every door closed (R175). -/
theorem parkTest_parks (hm : s.ctl.mode = .service)
    (h : s.parkCondition = true ∧ ∀ c, s.inUse c = true → (s.mon.read c).door = .closed) :
    s.parkTest = { s with
      ctl := { s.ctl with
        mode := .parked, heldMode := .parked, serviceRound := true, quiet := 0, warmUpEnd := none, wakingCheck := false }
      marks := s.marks ++ [.mode .service .parked .park]
      ports := (s.raise .mode).ports } := by
  have hc : (({ s with ctl := { s.ctl with serviceRound := true } } : State).parkCondition &&
      ({ s with ctl := { s.ctl with serviceRound := true } } : State).doorsClosed) = true :=
    Bool.and_eq_true_iff.mpr ⟨h.1, (doorsClosed_iff s).mpr h.2⟩
  have he : ({ s with ctl := { s.ctl with serviceRound := true } } : State).enterMode .parked .park = { s with
      ctl := { s.ctl with
        mode := .parked, heldMode := .parked, serviceRound := true, quiet := 0, warmUpEnd := none, wakingCheck := false }
      fe := { s.fe with nextStart := schedule s.ctl.mode .parked s.now s.fe.nextStart }
      marks := s.marks ++ [.mode s.ctl.mode .parked .park]
      ports := (s.raise .mode).ports } := rfl
  rw [parkTest, if_pos hc, he, hm]
  rfl

theorem parkTest_stays (h : ¬ (s.parkCondition = true ∧ ∀ c, s.inUse c = true → (s.mon.read c).door = .closed)) :
    s.parkTest = { s with ctl := { s.ctl with serviceRound := true } } := by
  rw [← doorsClosed_iff] at h
  exact if_neg fun hc => h (Bool.and_eq_true_iff.mp hc)

/-- A publication in PARKED that is not the thirtieth quiet one only counts (R177). -/
theorem quietTest_counts (hq : s.quietNow = true) (h : s.ctl.quiet < 29) :
    s.quietTest = { s with ctl := { s.ctl with quiet := s.ctl.quiet + 1 } } := by
  have h30 : min (s.ctl.quiet + 1) 30 = s.ctl.quiet + 1 := by omega
  have hlt : ¬ 30 ≤ s.ctl.quiet + 1 := by omega
  simp only [quietTest, hq, if_true, h30, if_neg hlt]

theorem quietTest_resets (hq : s.quietNow = false) : s.quietTest = { s with ctl := { s.ctl with quiet := 0 } } := by
  simp [quietTest, hq]

/-- At the thirtieth quiet publication the part sleeps (R177). -/
theorem quietTest_sleeps (hq : s.quietNow = true) (h : s.ctl.quiet = 29) :
    s.quietTest = ({ s with
      ctl := { s.ctl with quiet := 30 }
      pubs := { s.pubs with engine := [] } } : State).enterMode .dormant .quiet := by
  simp [quietTest, hq, h]

theorem controlTake_cons {p : Publication} {rest : List Publication} (hp : s.pubs.control = p :: rest) :
    s.controlTake = ({ s with pubs := { s.pubs with control := rest } } : State).controlJudge p := by
  simp only [controlTake, hp]

theorem controlJudge_service {p : Publication} (hm : s.ctl.mode = .service) (hk : p.parked = false)
    (hs : p.startedIn = .service) : s.controlJudge p = s.parkTest := by
  simp [controlJudge, hm, hk, hs]

theorem controlJudge_parked (p : Publication) (hm : s.ctl.mode = .parked) : s.controlJudge p = s.quietTest := by
  simp [controlJudge, hm]

theorem warmUp_reached {w : Nat} (hp : s.powered = true) (hm : s.ctl.mode = .waking) (hw : s.ctl.warmUpEnd = some w)
    (hn : w ≤ s.now) : s.warmUp = { s with ctl := { s.ctl with wakingCheck := true } } := by
  simp [warmUp, hp, hm, hw, hn]

theorem wakingMode_eq (s : State) : s.wakingMode = .parked ∨ s.wakingMode = .service := by
  unfold wakingMode; split <;> simp

theorem wakingEntered_mon (s : State) (a b : BitVec 16) :
    (s.wakingEntered a b).mon = s.mon.mapIdx fun c x => if s.inUse c then { x with startDue := true } else x := by
  have hm : (s.completeCheck a b).startEstimates.mon =
      s.mon.mapIdx fun c x => if s.inUse c then { x with startDue := true } else x := by
    rw [completeCheck_frame]; rfl
  rcases wakingMode_eq s with h | h <;> simp [wakingEntered, enterMode, h, hm]

theorem wakingEntered_warmUpEnd (s : State) (a b : BitVec 16) : (s.wakingEntered a b).ctl.warmUpEnd = none := by
  rcases wakingMode_eq s with h | h <;> simp [wakingEntered, enterMode, h]

theorem wakingEntered_powered (s : State) (a b : BitVec 16) : (s.wakingEntered a b).powered = s.powered := by
  change (s.completeCheck a b).powered = s.powered
  rw [completeCheck_frame]; rfl

theorem wakingEntered_now (s : State) (a b : BitVec 16) : (s.wakingEntered a b).now = s.now := by
  change (s.completeCheck a b).now = s.now
  rw [completeCheck_frame]; rfl

theorem wakingEntered_cons (s : State) (a b : BitVec 16) : (s.wakingEntered a b).cons = s.cons := by
  change (s.completeCheck a b).cons = s.cons
  rw [completeCheck_frame]

/-- The round is due at once at the end of waking (R2). -/
theorem wakingEntered_nextStart {a b : BitVec 16} (hm : s.ctl.mode = .waking) :
    (s.wakingEntered a b).fe.nextStart = some s.now := by
  have hc : (s.completeCheck a b).ctl = s.ctl := by rw [completeCheck_frame]
  rcases wakingMode_eq s with h | h <;> simp [wakingEntered, enterMode, h, hc, hm, schedule, now]

theorem wakingEntered_round (s : State) (a b : BitVec 16) : (s.wakingEntered a b).fe.round = s.fe.round := by
  rcases wakingMode_eq s with h | h <;> simp [wakingEntered, enterMode, h, completeCheck_fe]

theorem wakingEntered_beginRound {a b : BitVec 16} (hp : s.powered = true) (hm : s.ctl.mode = .waking)
    (hr : s.fe.round = none) :
    (s.wakingEntered a b).beginRound = { s.wakingEntered a b with fe := { (s.wakingEntered a b).fe with
      nextStart := some (s.now + period (s.wakingMode == .parked)), round := some (s.wakingEntered a b).newRound } } := by
  refine beginRound_due (by rw [wakingEntered_powered, hp]) ?_ (wakingEntered_nextStart hm)
    (by rw [wakingEntered_now]) (by rw [wakingEntered_round, hr])
  rw [wakingEntered_mode]
  rcases wakingMode_eq s with h | h <;> rw [h] <;> rfl

end State

/-- Settles O50: the controller's publication in SERVICE and in PARKED, and the end of waking. -/
theorem parkingSleepAndWaking : Obligations.ParkingSleepAndWaking := by
  unfold Obligations.ParkingSleepAndWaking
  intro s
  constructor
  · intro p rest hpub
    have htake := State.controlTake_cons hpub
    refine ⟨fun hm hk hs => ?_, fun hm hcust hctx => ?_, fun hm hbusy => ?_⟩
    · have hexec : exec .parkTest s = .next s.controlTake := by simp [exec, execParkTest, hm]
      have htest := htake.trans (State.controlJudge_service hm hk hs)
      rw [hexec]
      by_cases h : s.parkCondition = true ∧ ∀ c, s.inUse c = true → (s.mon.read c).door = .closed
      · refine ⟨_, congrArg Host.Outcome.next (htest.trans (State.parkTest_parks hm h)), ?_⟩
        exact ⟨rfl, rfl, rfl, rfl, rfl, fun _ => ⟨rfl, rfl, rfl, rfl⟩, fun hn => absurd h hn⟩
      · refine ⟨_, congrArg Host.Outcome.next (htest.trans (State.parkTest_stays h)), ?_⟩
        exact ⟨rfl, rfl, rfl, rfl, rfl, fun hy => absurd hy h, fun _ => ⟨rfl, rfl⟩⟩
    · have htest := htake.trans (State.controlJudge_parked p hm)
      have hq := (quietNow_iff s).mpr ⟨hcust, hctx⟩
      refine ⟨fun h29 => ?_, fun h29 => ?_⟩
      · have hexec : exec .quietCount s = .next s.controlTake := by simp [exec, execQuietCount, hm]
        exact hexec.trans (congrArg _ (htest.trans (State.quietTest_counts hq h29)))
      · have hsleep := htest.trans (State.quietTest_sleeps hq h29)
        have hexec : exec .enterDormant s = .next s.controlTake := by
          simp [exec, execEnterDormant, hm, hsleep, State.enterMode]
        refine ⟨_, hexec.trans (congrArg _ hsleep), rfl, rfl, rfl, rfl, rfl, ?_, rfl⟩
        rw [← hm]; rfl
    · have htest := htake.trans (State.controlJudge_parked p hm)
      have hq : s.quietNow = false := by rw [← Bool.not_eq_true, quietNow_iff]; tauto
      have hexec : exec .quietCount s = .next s.controlTake := by simp [exec, execQuietCount, hm]
      exact hexec.trans (congrArg _ (htest.trans (State.quietTest_resets hq)))
  · intro hp hm
    refine ⟨fun w hw hn => congrArg _ (State.warmUp_reached hp hm hw hn), ?_⟩
    rintro a b m hc hr rfl
    have hexec : exec (.wakingComplete a b) s = .next (s.wakingEntered a b).beginRound :=
      congrArg _ (State.completeWaking_eq a b hp hm hc)
    have hround := State.wakingEntered_beginRound (a := a) (b := b) hp hm hr
    refine ⟨_, (s.wakingEntered a b).newRound, hexec.trans (congrArg _ hround), rfl, s.wakingEntered_warmUpEnd a b, ?_, ?_, ?_,
      s.wakingEntered_mon a b, rfl, s.wakingEntered_now a b, rfl, ?_, ?_, ?_, s.wakingEntered_cons a b⟩
    · exact congrArg RefRecord.codeA (s.wakingEntered_ref a b)
    · exact congrArg RefRecord.codeB (s.wakingEntered_ref a b)
    · rw [s.wakingEntered_ref a b]
      exact s.fe.ref.check_pass_iff a b
    · exact beq_iff_eq
    · rw [period_parked]; rfl
    · change _ ∈ (s.wakingEntered a b).marks
      rw [State.wakingEntered_marks, hm]
      exact List.mem_append_right _ (List.mem_singleton.mpr rfl)

end Sys2Proof.Machine

namespace Sys2Proof.Machine

/-! ## SET_COMPARTMENT (files 01 and 03) -/

namespace State

/-! What the edit of a compartment changes. -/

/-- From `s` to `t` the edit's effects alone: the air, the monitor, the consignments, the interval state, marks and ports. -/
def EditFrame (s t : State) : Prop :=
  t = { s with
    fe := { s.fe with air := t.fe.air }
    mon := t.mon
    cons := t.cons
    hist := { s.hist with intervals := t.hist.intervals }
    marks := t.marks
    ports := t.ports }

theorem EditFrame.refl (s : State) : s.EditFrame s := rfl

theorem EditFrame.trans {s t u : State} (h : s.EditFrame t) (g : t.EditFrame u) : s.EditFrame u := by
  unfold EditFrame at *
  rw [g, h]

theorem EditFrame.ite {p : Prop} [Decidable p] {s t u : State} (h : s.EditFrame t) (g : s.EditFrame u) :
    s.EditFrame (if p then t else u) := by
  split <;> assumption

theorem EditFrame.forComps {f : Fin 4 → State → State} (h : ∀ c t, EditFrame t (f c t)) (s : State) :
    s.EditFrame (s.forComps f) :=
  (((h 0 s).trans (h 1 _)).trans (h 2 _)).trans (h 3 _)

section edits

variable (s : State) (c : Fin 4)

theorem editFrame_request (m : Mark) : s.EditFrame (s.request m) := rfl
theorem editFrame_raise (k : EventKind) : s.EditFrame (s.raise k) := rfl
theorem editFrame_modComp (f : Compartment → Compartment) : s.EditFrame (s.modComp c f) := rfl

theorem editFrame_flagConflict : s.EditFrame (s.flagConflict c) := rfl

theorem editFrame_requestIf (b : Bool) (m : Mark) : s.EditFrame (s.requestIf b m) := .ite (editFrame_request s m) (.refl s)
theorem editFrame_raiseIf (b : Bool) (k : EventKind) : s.EditFrame (s.raiseIf b k) := .ite (editFrame_raise s k) (.refl s)

theorem editFrame_decideConflict (b : Bool) : s.EditFrame (s.decideConflict c b) :=
  (((editFrame_modComp s c _).trans (.ite (editFrame_flagConflict _ c) (.refl _))).trans (editFrame_raiseIf _ _ _)).trans
    (editFrame_requestIf _ _ _)

theorem editFrame_startComp : s.EditFrame (s.startComp c) := by
  unfold startComp
  exact .ite rfl (.ite rfl rfl)

theorem editFrame_stopComp : s.EditFrame (s.stopComp c) := by
  unfold stopComp
  exact .ite rfl rfl

theorem editFrame_applyUse (was : Bool) : s.EditFrame (s.applyUse was c) := by
  unfold applyUse
  exact .trans (.ite (editFrame_startComp s c) (.ite (editFrame_stopComp s c) (.refl s))) (editFrame_decideConflict _ c false)

/-! What the edit gives the compartment itself. -/

theorem decideConflict_mon (b : Bool) :
    (s.decideConflict c b).mon = s.mon.modify c fun m => { m with conflict := s.conflictNow c } := by
  simp only [decideConflict, requestIf_mon, raiseIf_mon]
  split <;> rfl

theorem decideConflict_fe (b : Bool) : (s.decideConflict c b).fe = s.fe := by
  simp only [decideConflict, requestIf_fe, raiseIf_fe]
  split <;> rfl

theorem decideConflict_hist (b : Bool) : (s.decideConflict c b).hist = s.hist := by
  simp only [decideConflict, requestIf_hist, raiseIf_hist]
  split <;> rfl

/-- A compartment's monitor state as it is put into use (R42). -/
def startedComp (m : Compartment) : Compartment :=
  { m with
    door := if s.doorOpen c then .allow else .closed
    openStart := if s.doorOpen c then some s.now else none
    recovery := none
    overstayDue := false
    defrost := if s.defrostIndication c then .allow else .none
    elapsed := if s.defrostIndication c then 0 else m.elapsed
    excursion := .clear
    pending := 0
    estimate := none
    startDue := true }

/-- A compartment's monitor state as it is taken out of use (R42). -/
def stoppedComp (m : Compartment) : Compartment :=
  { m with
    door := .closed
    openStart := none
    recovery := none
    overstayDue := false
    defrost := .none
    excursion := .clear
    pending := 0
    estimate := none
    startDue := true }

/-- A compartment put into use, before its defrost phase is set. -/
def beginUse : State :=
  { s.modComp c fun m => { m with
      door := if s.doorOpen c then .allow else .closed
      openStart := if s.doorOpen c then some s.now else none
      recovery := none
      overstayDue := false
      excursion := .clear
      pending := 0
      estimate := none
      startDue := true } with
    fe := { s.fe with air := s.fe.air.write c (resetFrontEnd.air.read 0) } }

theorem beginUse_defrostIndication : (s.beginUse c).defrostIndication c = s.defrostIndication c := by
  have hm : ((s.beginUse c).mon.read c).defrostReport = (s.mon.read c).defrostReport := by simp [beginUse]
  unfold defrostIndication
  rw [hm]
  rfl

theorem startComp_cases :
    s.startComp c =
      if s.defrostIndication c then (s.beginUse c).setDefrost c .allow 0
      else if (s.mon.read c).defrost = .none then s.beginUse c
      else (s.beginUse c).setDefrost c .none (s.mon.read c).elapsed := by
  have hd : ((s.beginUse c).mon.read c).defrost = (s.mon.read c).defrost := by simp [beginUse]
  have he : ((s.beginUse c).mon.read c).elapsed = (s.mon.read c).elapsed := by simp [beginUse]
  rw [← beginUse_defrostIndication, ← hd, ← he]
  rfl

theorem startComp_mon_same : (s.startComp c).mon.read c = s.startedComp c (s.mon.read c) := by
  rw [startComp_cases]
  unfold startedComp
  split
  · simp [setDefrost, beginUse]
  · split <;> rename_i h h'
    · simp [beginUse, ← h']
    · simp [setDefrost, beginUse]

theorem startComp_mon_other {d : Fin 4} (h : d ≠ c) : (s.startComp c).mon.read d = s.mon.read d := by
  have hb : (s.beginUse c).mon.read d = s.mon.read d := Table.read_modify_other _ _ h
  have hs : ∀ p n, ((s.beginUse c).setDefrost c p n).mon.read d = s.mon.read d := fun p n =>
    (Table.read_modify_other _ _ h).trans hb
  rw [startComp_cases]
  split <;> [exact hs _ _; (split <;> [exact hb; exact hs _ _])]

theorem startComp_air : (s.startComp c).fe.air = s.fe.air.write c (resetFrontEnd.air.read 0) := by
  rw [startComp_cases]
  split <;> [rfl; (split <;> rfl)]

theorem startComp_intervals : (s.startComp c).hist.intervals = s.hist.intervals := by
  rw [startComp_cases]
  split <;> [rfl; (split <;> rfl)]

/-- A compartment taken out of use, before its defrost phase is closed. -/
def endUse : State :=
  { s.modComp c fun m => { m with
      door := .closed
      openStart := none
      recovery := none
      overstayDue := false
      excursion := .clear
      pending := 0
      estimate := none
      startDue := true } with
    hist := { s.hist with intervals := s.hist.intervals.write c none } }

theorem stopComp_cases :
    s.stopComp c =
      if (s.mon.read c).defrost = .none then s.endUse c else (s.endUse c).setDefrost c .none (s.mon.read c).elapsed := by
  have hd : ((s.endUse c).mon.read c).defrost = (s.mon.read c).defrost := by simp [endUse]
  have he : ((s.endUse c).mon.read c).elapsed = (s.mon.read c).elapsed := by simp [endUse]
  rw [← hd, ← he]
  rfl

theorem stopComp_mon_same : (s.stopComp c).mon.read c = stoppedComp (s.mon.read c) := by
  rw [stopComp_cases]
  unfold stoppedComp
  split <;> rename_i h
  · simp [endUse, ← h]
  · simp [setDefrost, endUse]

theorem stopComp_mon_other {d : Fin 4} (h : d ≠ c) : (s.stopComp c).mon.read d = s.mon.read d := by
  have hb : (s.endUse c).mon.read d = s.mon.read d := Table.read_modify_other _ _ h
  rw [stopComp_cases]
  split <;> [exact hb; exact (Table.read_modify_other _ _ h).trans hb]

theorem stopComp_air : (s.stopComp c).fe.air = s.fe.air := by
  rw [stopComp_cases]
  split <;> rfl

theorem stopComp_intervals : (s.stopComp c).hist.intervals = s.hist.intervals.write c none := by
  rw [stopComp_cases]
  split <;> rfl

end edits

end State

end Sys2Proof.Machine

namespace Sys2Proof.Machine

namespace State

/-! The indications that a compartment's state follows from, in states that agree on what they read. -/

section agree

variable {s t : State} {c : Fin 4}

theorem doorOpen_agree (hl : t.lines = s.lines) (hw : t.ctl.working.lines = s.ctl.working.lines) :
    t.doorOpen c = s.doorOpen c := by
  have ha : t.doorActive c = s.doorActive c := by
    funext l
    simp only [doorActive, lineActive, entry, hl, hw]
  rw [doorOpen, doorOpen, doorCount, doorCount, ha]

theorem defrostIndication_agree (hl : t.lines = s.lines) (hw : t.ctl.working.lines = s.ctl.working.lines)
    (hm : (t.mon.read c).defrostReport = (s.mon.read c).defrostReport) :
    t.defrostIndication c = s.defrostIndication c := by
  simp only [defrostIndication, defrostLine, lineActive, entry, hl, hw, hm]

theorem conflictNow_agree (hc : t.config c = s.config c) (hz : t.ctl.working.zones = s.ctl.working.zones)
    (hm : (t.mon.read c).setpoint = (s.mon.read c).setpoint) : t.conflictNow c = s.conflictNow c := by
  simp only [conflictNow, zoneOf, inUse, hc, hz, hm]

theorem startedComp_agree (hl : t.lines = s.lines) (hw : t.ctl.working.lines = s.ctl.working.lines) (hn : t.now = s.now)
    (hm : t.mon.read c = s.mon.read c) (m : Compartment) : t.startedComp c m = s.startedComp c m := by
  simp only [startedComp, doorOpen_agree hl hw, defrostIndication_agree hl hw (congrArg Compartment.defrostReport hm), hn]

theorem EditFrame.ctl (h : s.EditFrame t) : t.ctl = s.ctl := by rw [h]
theorem EditFrame.lines (h : s.EditFrame t) : t.lines = s.lines := by rw [h]

end agree

/-- What an edit of the configuration may change of one compartment: its monitor state, its air and its interval state. -/
def compView (s : State) (d : Fin 4) : Compartment × AirRecord × Option Interval :=
  (s.mon.read d, s.fe.air.read d, s.hist.intervals.read d)

/-- An operation made for each compartment, seen from the one compartment that its part for the others leaves alone. -/
theorem forComps_at {α : Type} {V : State → α} {f : Fin 4 → State → State} (d : Fin 4)
    (hV : ∀ c, d ≠ c → ∀ t, V (f c t) = V t) (hF : ∀ c t, EditFrame t (f c t)) (s : State) :
    ∃ t, s.EditFrame t ∧ V t = V s ∧ V (s.forComps f) = V (f d t) := by
  unfold forComps
  match d with
  | 0 => exact ⟨s, .refl s, rfl, by rw [hV 3 (by decide), hV 2 (by decide), hV 1 (by decide)]⟩
  | 1 =>
    exact ⟨f 0 s, hF 0 s, hV 0 (by decide) s, by rw [hV 3 (by decide), hV 2 (by decide)]⟩
  | 2 =>
    exact ⟨f 1 (f 0 s), (hF 0 s).trans (hF 1 _), by rw [hV 1 (by decide), hV 0 (by decide)], by rw [hV 3 (by decide)]⟩
  | 3 =>
    exact ⟨f 2 (f 1 (f 0 s)), ((hF 0 s).trans (hF 1 _)).trans (hF 2 _),
      by rw [hV 2 (by decide), hV 1 (by decide), hV 0 (by decide)], rfl⟩

section view

variable (s : State) (c : Fin 4)

theorem decideConflict_view_same (b : Bool) :
    (s.decideConflict c b).compView c =
      ({ s.mon.read c with conflict := s.conflictNow c }, s.fe.air.read c, s.hist.intervals.read c) := by
  simp [compView, decideConflict_mon, decideConflict_fe, decideConflict_hist]

theorem decideConflict_view_other (b : Bool) {d : Fin 4} (h : d ≠ c) :
    (s.decideConflict c b).compView d = s.compView d := by
  simp [compView, decideConflict_mon, decideConflict_fe, decideConflict_hist, Table.read_modify_other _ _ h]

/-- A compartment whose use does not change has its conflict decided again, and nothing more. -/
theorem applyUse_view_kept {was : Bool} (h : s.inUse c = was) :
    (s.applyUse was c).compView c =
      ({ s.mon.read c with conflict := s.conflictNow c }, s.fe.air.read c, s.hist.intervals.read c) := by
  subst h
  have h1 : (s.inUse c && !s.inUse c) = false := by cases s.inUse c <;> rfl
  have h2 : (!s.inUse c && s.inUse c) = false := by cases s.inUse c <;> rfl
  simp [applyUse, decideConflict_view_same]

/-- A compartment put into use (R42, R52). -/
theorem applyUse_view_started (h : s.inUse c = true) :
    (s.applyUse false c).compView c =
      ({ s.startedComp c (s.mon.read c) with conflict := s.conflictNow c }, resetFrontEnd.air.read 0,
        s.hist.intervals.read c) := by
  have hctl := (editFrame_startComp s c).ctl
  have hk : (s.startComp c).conflictNow c = s.conflictNow c :=
    conflictNow_agree (by rw [config, hctl]; rfl) (by rw [hctl]) (by rw [startComp_mon_same]; rfl)
  simp [applyUse, h, decideConflict_view_same, hk, startComp_mon_same, startComp_air, startComp_intervals]

/-- A compartment taken out of use (R42, R52). -/
theorem applyUse_view_stopped (h : s.inUse c = false) :
    (s.applyUse true c).compView c = ({ stoppedComp (s.mon.read c) with conflict := false }, s.fe.air.read c, none) := by
  have hctl := (editFrame_stopComp s c).ctl
  have hk : (s.stopComp c).conflictNow c = false := by
    have hu : (s.stopComp c).inUse c = false := by rw [inUse, config, hctl]; exact h
    unfold conflictNow
    rw [hu]
    split <;> rfl
  simp [applyUse, h, decideConflict_view_same, hk, stopComp_mon_same, stopComp_air, stopComp_intervals]

theorem applyUse_view_other (was : Bool) {d : Fin 4} (h : d ≠ c) : (s.applyUse was c).compView d = s.compView d := by
  have h1 : (s.startComp c).compView d = s.compView d := by
    simp [compView, startComp_mon_other s c h, startComp_air, startComp_intervals, Table.read_write_other _ _ h]
  have h2 : (s.stopComp c).compView d = s.compView d := by
    simp [compView, stopComp_mon_other s c h, stopComp_air, stopComp_intervals, Table.read_write_other _ _ h]
  rw [applyUse, decideConflict_view_other _ _ _ h]
  split <;> [exact h1; (split <;> [exact h2; rfl])]

theorem applyUse_responses (was : Bool) (q : Port) :
    ((s.applyUse was c).ports.at q).responses = (s.ports.at q).responses := by
  have hd : ∀ t : State, t.ports = s.ports → ((t.decideConflict c false).ports.at q).responses = (s.ports.at q).responses := by
    intro t ht
    have hp : (t.decideConflict c false).ports =
        (t.raiseIf (!(t.mon.read c).conflict && t.conflictNow c) .unit).ports := by
      simp only [decideConflict, requestIf_ports, raiseIf_ports]
      split <;> rfl
    rw [hp, raiseIf, ← ht]
    split <;> [exact responses_raise _ _ _; rfl]
  refine hd _ ?_
  split
  · rw [startComp_cases]; split <;> [rfl; (split <;> rfl)]
  · split
    · rw [stopComp_cases]; split <;> rfl
    · rfl

end view

/-! The whole edit. -/

/-- The state with a compartment's entry stored. -/
def storeComp (s : State) (c : Fin 4) (e : CompConfig) : State :=
  { s with ctl := { s.ctl with working := { s.ctl.working with comps := s.ctl.working.comps.write c e } } }

/-- The state with a compartment's entry stored and the probes reassigned, before the compartments follow. -/
def reassigned (s : State) (c : Fin 4) (e : CompConfig) : State :=
  (s.storeComp c e).applyAssignment s.ctl.working.comps

/-- The state that an edit of a compartment's entry leaves (R9, R42, R52). -/
def editedComp (s : State) (c : Fin 4) (e : CompConfig) : State :=
  (s.storeComp c e).applyComps s.ctl.working.comps

section edited

variable (s : State) (c : Fin 4) (e : CompConfig)

theorem editedComp_eq : s.editedComp c e = (s.reassigned c e).forComps fun d t => t.applyUse (s.inUse d) d := rfl

theorem editFrame_editedComp : (s.reassigned c e).EditFrame (s.editedComp c e) := by
  rw [editedComp_eq]
  exact EditFrame.forComps (fun d t => editFrame_applyUse t d _) _

/-- What the edit leaves of one compartment is its own part of the edit, made on what stood of it. -/
theorem editedComp_view (d : Fin 4) :
    ∃ t, (s.reassigned c e).EditFrame t ∧ t.compView d = s.compView d ∧
      (s.editedComp c e).compView d = (t.applyUse (s.inUse d) d).compView d := by
  rw [editedComp_eq]
  exact forComps_at (V := fun t => t.compView d) d (fun c h t => applyUse_view_other t c _ h)
    (fun c t => editFrame_applyUse t c _) _

theorem editedComp_responses (q : Port) :
    ((s.editedComp c e).ports.at q).responses = (s.ports.at q).responses := by
  unfold editedComp applyComps forComps
  rw [applyUse_responses, applyUse_responses, applyUse_responses, applyUse_responses]
  rfl

theorem editedComp_probe (p : Fin 8) :
    (s.editedComp c e).fe.probes.read p =
      if (assignment s.ctl.working.comps p).map Prod.fst = (assignment (s.ctl.working.comps.write c e) p).map Prod.fst then
        s.fe.probes.read p
      else freshProbe (assigned (s.ctl.working.comps.write c e) p) := by
  rw [editFrame_editedComp]
  exact Table.read_mapIdx _ _ p

variable {s c e}

theorem EditFrame.config_reassigned {t : State} (h : (s.reassigned c e).EditFrame t) (d : Fin 4) :
    t.config d = if d = c then e else s.config d := by
  rw [config, h.ctl]
  exact Table.read_write _ _ _ _

theorem EditFrame.inUse_reassigned {t : State} (h : (s.reassigned c e).EditFrame t) : t.inUse c = e.inUse := by
  rw [inUse, h.config_reassigned, if_pos rfl]

/-- A compartment that the edit does not name has its conflict decided again, and nothing more. -/
theorem editedComp_view_other {d : Fin 4} (hd : d ≠ c) :
    (s.editedComp c e).compView d =
      ({ s.mon.read d with conflict := s.conflictNow d }, s.fe.air.read d, s.hist.intervals.read d) := by
  obtain ⟨t, hf, hv, hu⟩ := editedComp_view s c e d
  obtain ⟨hm, ha⟩ := Prod.ext_iff.mp hv
  obtain ⟨ha, hi⟩ := Prod.ext_iff.mp ha
  have hg := hf.config_reassigned d
  rw [if_neg hd] at hg
  have hk : t.conflictNow d = s.conflictNow d := conflictNow_agree hg (by rw [hf.ctl]; rfl) (congrArg _ hm)
  rw [hu, applyUse_view_kept t d (by rw [inUse, hg]; rfl), hk]
  exact Prod.ext (by rw [show t.mon.read d = s.mon.read d from hm]) (Prod.ext ha hi)

/-- SETPOINT_CONFLICT of the compartment by its new entry (R52). -/
def conflictWith (s : State) (c : Fin 4) (e : CompConfig) : Bool :=
  match e.zone.map s.ctl.working.zones.read, (s.mon.read c).setpoint with
  | some z, some v => e.inUse && decide (z.nominal < v)
  | _, _ => false

theorem conflictWith_iff (s : State) (c : Fin 4) (e : CompConfig) :
    s.conflictWith c e = true ↔ e.inUse = true ∧ ∃ z v, e.zone = some z ∧ (s.mon.read c).setpoint = some v ∧
      (s.ctl.working.zones.read z).nominal < v := by
  unfold conflictWith
  cases e.zone <;> cases (s.mon.read c).setpoint <;> simp

theorem EditFrame.conflictNow_reassigned {t : State} (h : (s.reassigned c e).EditFrame t)
    (hm : t.mon.read c = s.mon.read c) : t.conflictNow c = s.conflictWith c e := by
  have hz : t.zoneOf c = e.zone.map s.ctl.working.zones.read := by
    rw [zoneOf, h.config_reassigned, if_pos rfl, h.ctl]; rfl
  rw [conflictNow, hz, hm, h.inUse_reassigned]
  rfl

theorem editedComp_view_kept (hu : e.inUse = s.inUse c) :
    (s.editedComp c e).compView c =
      ({ s.mon.read c with conflict := s.conflictWith c e }, s.fe.air.read c, s.hist.intervals.read c) := by
  obtain ⟨t, hf, hv, he⟩ := editedComp_view s c e c
  obtain ⟨hm, ha⟩ := Prod.ext_iff.mp hv
  obtain ⟨ha, hi⟩ := Prod.ext_iff.mp ha
  rw [he, applyUse_view_kept t c (by rw [hf.inUse_reassigned, hu]), hf.conflictNow_reassigned hm]
  exact Prod.ext (by rw [show t.mon.read c = s.mon.read c from hm]) (Prod.ext ha hi)

theorem editedComp_view_started (hu : e.inUse = true) (hs : s.inUse c = false) :
    (s.editedComp c e).compView c =
      ({ s.startedComp c (s.mon.read c) with conflict := s.conflictWith c e }, resetFrontEnd.air.read 0,
        s.hist.intervals.read c) := by
  obtain ⟨t, hf, hv, he⟩ := editedComp_view s c e c
  obtain ⟨hm, ha⟩ := Prod.ext_iff.mp hv
  obtain ⟨ha, hi⟩ := Prod.ext_iff.mp ha
  have hst : t.startedComp c = s.startedComp c := funext <|
    startedComp_agree (by rw [hf.lines]; rfl) (by rw [hf.ctl]; rfl) (by rw [now, hf.ctl]; rfl) hm
  rw [he, hs, applyUse_view_started t c (by rw [hf.inUse_reassigned, hu]), hf.conflictNow_reassigned hm, hst]
  exact Prod.ext (by rw [show t.mon.read c = s.mon.read c from hm]) (Prod.ext rfl hi)

theorem editedComp_view_stopped (hu : e.inUse = false) (hs : s.inUse c = true) :
    (s.editedComp c e).compView c = ({ stoppedComp (s.mon.read c) with conflict := false }, s.fe.air.read c, none) := by
  obtain ⟨t, hf, hv, he⟩ := editedComp_view s c e c
  obtain ⟨hm, ha⟩ := Prod.ext_iff.mp hv
  obtain ⟨ha, hi⟩ := Prod.ext_iff.mp ha
  rw [he, hs, applyUse_view_stopped t c (by rw [hf.inUse_reassigned, hu])]
  exact Prod.ext (by rw [show t.mon.read c = s.mon.read c from hm]) (Prod.ext ha rfl)

/-- SETPOINT_CONFLICT is decided by the new entry, whatever becomes of the compartment's use. -/
theorem editedComp_conflict (s : State) (c : Fin 4) (e : CompConfig) :
    ((s.editedComp c e).mon.read c).conflict = s.conflictWith c e := by
  have view {x : Compartment × AirRecord × Option Interval} (hx : (s.editedComp c e).compView c = x) :
      ((s.editedComp c e).mon.read c).conflict = x.1.conflict := congrArg (fun y => y.1.conflict) hx
  cases hu : e.inUse <;> cases hs : s.inUse c
  · exact view (editedComp_view_kept (hu.trans hs.symm))
  · rw [view (editedComp_view_stopped hu hs), eq_comm, ← Bool.not_eq_true, conflictWith_iff, hu]
    exact fun h => Bool.noConfusion h.1
  · exact view (editedComp_view_started hu hs)
  · exact view (editedComp_view_kept (hu.trans hs.symm))

end edited

end State

/-- What the edit and its answer leave alone. -/
theorem State.EditFrame.respond {s t : State} {c : Fin 4} {e : CompConfig} (hf : (s.reassigned c e).EditFrame t)
    (h : Header) (st : Status) (d : List Byte) :
    t.respond h st d = { s with
      ctl := { s.ctl with working := { s.ctl.working with comps := s.ctl.working.comps.write c e } }
      fe := { s.fe with probes := t.fe.probes, round := t.fe.round, air := t.fe.air }
      mon := t.mon
      cons := t.cons
      hist := { s.hist with intervals := t.hist.intervals }
      marks := t.marks
      ports := (t.respond h st d).ports } := by
  rw [hf]
  rfl

/-! The command. -/

section setCompartment

variable {h : Header} {comp inUse : Byte} {zone primary secondary : Option Byte} {s : State} {c : Fin 4} {e : CompConfig}

theorem setCompartment_refused (hs : Editable h s) (hc : comp.toNat = c.val) (hu : yesNo inUse = some e.inUse)
    (hz : optIndex 4 zone = some e.zone) (hp : optIndex 8 primary = some e.primary)
    (hq : optIndex 8 secondary = some e.secondary)
    (hbad : e.secondary ≠ none ∧ (e.primary = none ∨ e.primary = e.secondary)) :
    exec (.setCompartment h comp inUse zone primary secondary) s = .next (s.respond h .badArgument []) := by
  refine congrArg Host.Outcome.next ((State.take_edit hs _).trans ?_)
  have hb : (e.secondary.isSome && (e.primary.isNone || e.primary == e.secondary)) = true := by
    simpa [Option.isSome_iff_ne_none] using hbad
  simp only [index_of_val hc, hu, hz, hp, hq, hb, if_true]

/-- The data of the answer to SET_COMPARTMENT: the entry, and the assignment lists of the probes it names (R41). -/
def setCompartmentBytes (comps : Table CompConfig 4) (e : CompConfig) : List Byte :=
  flag e.inUse ++ present e.zone 1 (fun i => u8 i.val) ++ present e.primary 1 (fun i => u8 i.val) ++
    present e.secondary 1 (fun i => u8 i.val) ++
    ((List.finRange 8).filter fun i => e.primary = some i ∨ e.secondary = some i).flatMap (assignmentBytes comps)

theorem setCompartment_taken (hs : Editable h s) (hc : comp.toNat = c.val) (hu : yesNo inUse = some e.inUse)
    (hz : optIndex 4 zone = some e.zone) (hp : optIndex 8 primary = some e.primary)
    (hq : optIndex 8 secondary = some e.secondary)
    (hok : e.secondary = none ∨ (e.primary ≠ none ∧ e.primary ≠ e.secondary)) :
    exec (.setCompartment h comp inUse zone primary secondary) s = .next
      ((s.editedComp c e).respond h .ok (setCompartmentBytes (s.ctl.working.comps.write c e) e)) := by
  refine congrArg Host.Outcome.next ((State.take_edit hs _).trans ?_)
  have hb : (e.secondary.isSome && (e.primary.isNone || e.primary == e.secondary)) = false := by
    rw [← Bool.not_eq_true]
    simp only [Bool.and_eq_true, Option.isSome_iff_ne_none, Bool.or_eq_true, Option.isNone_iff_eq_none, beq_iff_eq]
    tauto
  have hf : (fun i => decide (e.primary = some i ∨ e.secondary = some i)) =
      fun i => e.primary == some i || e.secondary == some i := by
    funext i; rw [Bool.decide_or, beq_eq_decide, beq_eq_decide]
  unfold setCompartmentBytes
  rw [hf]
  simp only [index_of_val hc, hu, hz, hp, hq, hb]
  rfl

end setCompartment

/-- Settles O20: the edit seen from the compartment it names and from each other one. -/
theorem compartmentEditsTakeEffectAtOnce : Obligations.CompartmentEditsTakeEffectAtOnce := by
  unfold Obligations.CompartmentEditsTakeEffectAtOnce
  intro h comp inUse zone primary secondary s c e hs hc hu hz hp hq
  refine ⟨setCompartment_refused hs hc hu hz hp hq, fun hok => ?_⟩
  have hframe := s.editFrame_editedComp c e
  have hresponses := s.editedComp_responses c e h.port
  have hprobe := s.editedComp_probe c e
  have hconflict := s.editedComp_conflict c e
  have hother := fun d => State.editedComp_view_other (s := s) (c := c) (e := e) (d := d)
  have hkept := State.editedComp_view_kept (s := s) (c := c) (e := e)
  have hstarted := State.editedComp_view_started (s := s) (c := c) (e := e)
  have hstopped := State.editedComp_view_stopped (s := s) (c := c) (e := e)
  rw [setCompartment_taken hs hc hu hz hp hq hok]
  generalize s.editedComp c e = t at *
  refine ⟨_, rfl, ?_, hframe.respond h .ok _, hprobe, fun d hd => ?_, ?_, fun hu => ?_, fun hu hs => ?_, fun hu hs => ?_⟩
  · rw [State.answered, responses_respond, hresponses]
    rfl
  · exact ⟨congrArg Prod.fst (hother d hd), congrArg (·.2.1) (hother d hd), congrArg (·.2.2) (hother d hd)⟩
  · rw [State.respond_mon, hconflict]
    exact s.conflictWith_iff c e
  · rw [State.respond_mon, hconflict]
    exact ⟨congrArg Prod.fst (hkept hu), congrArg (·.2.1) (hkept hu), congrArg (·.2.2) (hkept hu)⟩
  · rw [State.respond_mon, hconflict]
    exact ⟨congrArg Prod.fst (hstarted hu hs), congrArg (·.2.1) (hstarted hu hs)⟩
  · exact ⟨congrArg Prod.fst (hstopped hu hs), congrArg (·.2.2) (hstopped hu hs)⟩

end Sys2Proof.Machine

namespace Sys2Proof.Machine

/-! ## START (file 09) -/

namespace State

/-! ### What the history store and the bank do while START completes -/

/-- The marks that the history store makes by a choice and by a new sector (R116, R151). -/
def ofStore (m : Mark) : Prop := (∃ a b, m = .stall a b) ∨ ∃ a b, m = .claimCut a b

/-- From `s` to `t` the history store, the claims' windows and the bank have moved, during START: the claim counter is kept,
the marks that join are the store's own and those of the cuts, and the ports answer nothing but held reads. -/
structure StoreMoves (s t : State) : Prop where
  frame : t = { s with
    hist := t.hist, claims := t.claims, bank := t.bank, marks := t.marks, ports := t.ports, heldReads := t.heldReads }
  counter : t.claims.counter = s.claims.counter
  marks : ∃ first, t.marks = s.marks ++ first ∧ ∀ m ∈ first, ofStore m
  received : ∀ q, (t.ports.at q).received = (s.ports.at q).received
  reads : s.heldReads = [] → t.heldReads = []
  responses : s.heldReads = [] → ∀ q, (t.ports.at q).responses = (s.ports.at q).responses

namespace StoreMoves

variable {s t u : State}

theorem ctl (h : StoreMoves s t) : t.ctl = s.ctl := by rw [h.frame]

theorem refl (s : State) : StoreMoves s s :=
  ⟨rfl, rfl, ⟨[], by simp, by simp⟩, fun _ => rfl, id, fun _ _ => rfl⟩

theorem trans (h : StoreMoves s t) (g : StoreMoves t u) : StoreMoves s u where
  frame := by
    have key : ∀ {a b c : State},
        b = { a with hist := b.hist, claims := b.claims, bank := b.bank, marks := b.marks, ports := b.ports, heldReads := b.heldReads } →
        c = { b with hist := c.hist, claims := c.claims, bank := c.bank, marks := c.marks, ports := c.ports, heldReads := c.heldReads } →
        c = { a with hist := c.hist, claims := c.claims, bank := c.bank, marks := c.marks, ports := c.ports, heldReads := c.heldReads } :=
      fun h1 h2 => by rw [h2, h1]
    exact key h.frame g.frame
  counter := g.counter.trans h.counter
  marks := by
    obtain ⟨a, ha, hma⟩ := h.marks
    obtain ⟨b, hb, hmb⟩ := g.marks
    refine ⟨a ++ b, by rw [hb, ha, List.append_assoc], fun m hm => ?_⟩
    exact (List.mem_append.mp hm).elim (hma m) (hmb m)
  received := fun q => (g.received q).trans (h.received q)
  reads := fun hr => g.reads (h.reads hr)
  responses := fun hr q => (g.responses (h.reads hr) q).trans (h.responses hr q)

theorem ite {p : Prop} [Decidable p] (h : StoreMoves s t) (g : StoreMoves s u) : StoreMoves s (if p then t else u) := by
  split <;> assumption

/-- A change of the history store's state, of the pins and of the bank. -/
theorem of_agree (h : t = { s with hist := t.hist, claims := t.claims, bank := t.bank })
    (hc : t.claims.counter = s.claims.counter := by rfl) : StoreMoves s t where
  frame := by rw [h]
  counter := hc
  marks := ⟨[], by rw [h]; simp, by simp⟩
  received := fun q => by rw [h]
  reads := fun hr => by rw [h]; exact hr
  responses := fun _ q => by rw [h]

theorem modHist (s : State) (f : History → History) : StoreMoves s (s.modHist f) := of_agree rfl

theorem raise (s : State) (e : EventKind) : StoreMoves s (s.raise e) :=
  ⟨rfl, rfl, ⟨[], by simp, by simp⟩, fun q => by simp [PortUnit.setPending, PortUnit.sync], id,
    fun _ q => responses_raise s e q⟩

theorem request (s : State) {m : Mark} (hm : ofStore m) : StoreMoves s (s.request m) :=
  ⟨rfl, rfl, ⟨[m], rfl, by simpa using hm⟩, fun _ => rfl, id, fun _ _ => rfl⟩

theorem requestRewrite (s : State) : StoreMoves s s.requestRewrite := by
  unfold State.requestRewrite
  exact .ite (.refl s) (of_agree rfl)

theorem judgeUpload (s : State) : StoreMoves s s.judgeUpload := by
  unfold State.judgeUpload
  exact .ite ((modHist s _).trans (raise _ _)) (.ite (modHist s _) (.refl s))

theorem loseUnsent (s : State) (i : Fin 16) : StoreMoves s (s.loseUnsent i) := by
  unfold State.loseUnsent
  exact .ite (.refl s) (((modHist s _).trans (raise _ _)).trans (judgeUpload _))

theorem startErase (s : State) (i : Fin 16) : StoreMoves s (s.startErase i) := (loseUnsent s i).trans (modHist _ _)

theorem retireSector (s : State) (i : Fin 16) (touched : Bool) : StoreMoves s (s.retireSector i touched) := by
  unfold State.retireSector
  have h1 : StoreMoves s (if touched then s else s.loseUnsent i) := .ite (.refl s) (loseUnsent s i)
  have h3 := fun f => ((h1.trans (modHist _ f)).trans (requestRewrite _)).trans (raise _ .store)
  exact (h3 _).trans ((ite ((modHist _ _).trans (raise _ _)) (.refl _)).trans (judgeUpload _))

/-- The held reads answered one after another: responses alone. -/
theorem answerReads_fold (rs : List HeldRead) : ∀ s : State,
    rs.foldl State.answerRead s = { s with ports := (rs.foldl State.answerRead s).ports } ∧
      ∀ q, ((rs.foldl State.answerRead s).ports.at q).received = (s.ports.at q).received := by
  induction rs with
  | nil => exact fun s => ⟨rfl, fun _ => rfl⟩
  | cons r rs ih =>
    intro s
    have hr : ∀ q, ((s.answerRead r).ports.at q).received = (s.ports.at q).received := by
      intro q
      simp only [State.answerRead, State.reply_ports, PerPort.at_put]
      split <;> [subst_vars; skip] <;> rfl
    obtain ⟨hf, hq⟩ := ih (s.answerRead r)
    exact ⟨hf, fun q => (hq q).trans (hr q)⟩

theorem answerReads (s : State) : StoreMoves s s.answerReads := by
  unfold State.answerReads
  split
  · exact .refl s
  · next hne =>
    obtain ⟨hf, hq⟩ := answerReads_fold s.heldReads s
    have hr : s.heldReads ≠ [] := by simpa using hne
    generalize s.heldReads.foldl State.answerRead s = t at hf hq ⊢
    dsimp only
    refine ⟨?_, by rw [hf]; rfl, ⟨[], by rw [hf]; simp, by simp⟩, fun q => ?_, fun h => absurd h hr, fun h => absurd h hr⟩
    · rw [hf]; rfl
    · rw [← hq q]
      simp [State.landed]

theorem stall (s : State) (hm : s.ctl.mode = .start) : StoreMoves s s.stall := by
  have hs : ∀ t : State, t.ctl.mode = .start → ∀ a b, StoreMoves t (t.ownMark (.stall a b)) := fun t ht a b => by
    rw [State.ownMark, if_pos ht]
    exact request t (.inl ⟨a, b, rfl⟩)
  have h1 := modHist s fun h => { h with next := none, stalled := true }
  exact ((h1.trans (hs _ (by rw [h1.ctl, hm]) _ _)).trans (raise _ _)).trans (answerReads _)

theorem takeNext (s : State) (i : Fin 16) : StoreMoves s (s.takeNext i) := modHist s _

theorem chooseFuel (n : Nat) : ∀ s : State, s.ctl.mode = .start → StoreMoves s (State.chooseFuel n s) := by
  induction n with
  | zero => exact stall
  | succ n ih =>
    intro s hm
    unfold State.chooseFuel
    split
    · exact stall s hm
    · next i _ =>
      have hr := retireSector s i false
      exact .ite (.ite (hr.trans (ih _ (by rw [hr.ctl, hm]))) ((startErase s i).trans (takeNext _ i))) (takeNext s i)

theorem chooseNext (s : State) (hm : s.ctl.mode = .start) : StoreMoves s s.chooseNext := chooseFuel 16 s hm

theorem cutClaim (last : Nat) (s : State) (i : Fin 16) : StoreMoves s (State.cutClaim last s i) := by
  unfold State.cutClaim
  split
  · refine .ite (.trans (t := s.putClaim i _) (of_agree rfl) (request _ (.inr ⟨_, _, rfl⟩))) (.refl s)
  · exact .refl s

theorem foldl {α : Type} (f : State → α → State) (hf : ∀ s x, StoreMoves s (f s x)) (xs : List α) :
    ∀ s, StoreMoves s (xs.foldl f s) := by
  induction xs with
  | nil => exact .refl
  | cons x xs ih => exact fun s => (hf s x).trans (ih _)

theorem newSector (s : State) (i : Fin 16) (left : Option (Fin 16)) : StoreMoves s (s.newSector i left) := by
  unfold State.newSector
  exact .ite (.refl s) (.ite (of_agree rfl) (foldl _ (cutClaim _) _ s))

theorem beginSector (s : State) (i : Fin 16) (hm : s.ctl.mode = .start) : StoreMoves s (s.beginSector i) := by
  have hc : ∀ t, StoreMoves s t → StoreMoves s t.chooseNext := fun t ht => ht.trans (chooseNext t (by rw [ht.ctl, hm]))
  unfold State.beginSector
  refine hc _ (trans (trans ?_ (modHist _ _)) (newSector _ _ _))
  split
  · exact modHist s _
  · exact .refl s

theorem finishHistory (s : State) (hm : s.ctl.mode = .start) : StoreMoves s s.finishHistory := by
  have h1 := chooseNext s hm
  have hm1 : s.chooseNext.ctl.mode = .start := by rw [h1.ctl, hm]
  unfold State.finishHistory
  refine h1.trans (trans ?_ (modHist _ _))
  split
  · exact .ite (.refl _) (beginSector _ _ hm1)
  · exact .refl _

theorem testBlocks (s : State) : StoreMoves s s.testBlocks := by
  unfold State.testBlocks
  split
  · exact of_agree rfl
  · exact .ite (of_agree rfl) (of_agree rfl)

end StoreMoves

/-- The start-up GAP is due with a valid backup (R163). -/
theorem finishHistory_gapDue (s : State) : s.finishHistory.hist.gapDue = (s.ctl.startCause != .backupLost) := rfl

end State

end Sys2Proof.Machine

namespace Sys2Proof.Machine

namespace State

/-! ### The contexts that START cancels (R144) -/

/-- A consignment returned to the state before the hand-over (R144). -/
def returnedTo (c : Context) (x : Consignment) : Consignment := { x with state := c.previous }

/-- The id of the consignment in a slot, as the marks of a hand-over give it: 0 in a free slot. -/
def idAt (s : State) (j : Fin 32) : BitVec 32 := match s.cons.read j with | some x => x.id | none => 0#32

/-- Every context listed cancelled with cause POWER. -/
def cancelAll (s : State) (cs : List Context) : State := cs.foldl (fun t c => t.endContext c .power) s

theorem endContext_power_cons (s : State) (c : Context) :
    (s.endContext c .power).cons = s.cons.modify c.slot (Option.map (returnedTo c)) := by
  have hf : (fun x : Consignment => { x with
      state := c.previous, lastContextExpired := x.lastContextExpired || EndCause.power == .expired }) = returnedTo c := by
    funext x
    simp [returnedTo]
  rw [← hf]
  rfl

theorem idAt_endContext (s : State) (c : Context) (j : Fin 32) : (s.endContext c .power).idAt j = s.idAt j := by
  unfold idAt
  rw [endContext_power_cons, Table.read_modify]
  by_cases h : j = c.slot
  · rw [if_pos h]
    cases s.cons.read j <;> rfl
  · rw [if_neg h]

theorem cancelAll_frame (cs : List Context) : ∀ s : State,
    s.cancelAll cs = { s with
      cons := (s.cancelAll cs).cons
      hand := { s.hand with contexts := (s.cancelAll cs).hand.contexts }
      marks := s.marks ++ cs.map fun c => .handoverEnd c.slot (s.idAt c.slot) .power 0 } := by
  induction cs with
  | nil => intro s; simp [cancelAll]
  | cons c cs ih =>
    intro s
    have hstep : s.cancelAll (c :: cs) = (s.endContext c .power).cancelAll cs := rfl
    rw [hstep, ih]
    simp only [idAt_endContext]
    have hmarks : (s.endContext c .power).marks = s.marks ++ [.handoverEnd c.slot (s.idAt c.slot) .power 0] := rfl
    rw [hmarks, List.append_assoc]
    rfl

/-- No context is left when all have been cancelled. -/
theorem cancelAll_contexts (cs : List Context) : ∀ s : State,
    (∀ c ∈ s.hand.contexts, ∃ d ∈ cs, d.slot = c.slot) → (s.cancelAll cs).hand.contexts = [] := by
  induction cs with
  | nil =>
    intro s h
    refine List.eq_nil_iff_forall_not_mem.mpr fun c hc => ?_
    obtain ⟨d, hd, -⟩ := h c hc
    exact absurd hd List.not_mem_nil
  | cons a cs ih =>
    intro s h
    refine ih (s.endContext a .power) fun c hc => ?_
    have hc' : c ∈ s.hand.contexts.filter fun d => d.slot != a.slot := hc
    obtain ⟨hmem, hne⟩ := List.mem_filter.mp hc'
    obtain ⟨d, hd, hslot⟩ := h c hmem
    rcases List.mem_cons.mp hd with rfl | hd
    · simp [hslot] at hne
    · exact ⟨d, hd, hslot⟩

/-- A slot that no context names is left alone. -/
theorem cancelAll_cons_other {j : Fin 32} (cs : List Context) : ∀ s : State, (∀ c ∈ cs, c.slot ≠ j) →
    (s.cancelAll cs).cons.read j = s.cons.read j := by
  induction cs with
  | nil => exact fun _ _ => rfl
  | cons a cs ih =>
    intro s h
    refine (ih (s.endContext a .power) fun c hc => h c (List.mem_cons_of_mem _ hc)).trans ?_
    rw [endContext_power_cons]
    exact Table.read_modify_other _ _ (h a List.mem_cons_self).symm

/-- The consignment of a context that alone names its slot returns to the state before the hand-over. -/
theorem cancelAll_cons_same {c : Context} (cs : List Context) : ∀ s : State, c ∈ cs →
    (∀ q ∈ cs, q.slot = c.slot → q = c) →
    (s.cancelAll cs).cons.read c.slot = (s.cons.read c.slot).map (returnedTo c) := by
  induction cs with
  | nil => exact fun _ h => absurd h List.not_mem_nil
  | cons a cs ih =>
    intro s hmem huniq
    have huniq' : ∀ q ∈ cs, q.slot = c.slot → q = c := fun q hq => huniq q (List.mem_cons_of_mem _ hq)
    have hstep : s.cancelAll (a :: cs) = (s.endContext a .power).cancelAll cs := rfl
    rw [hstep]
    by_cases ha : a = c
    · subst ha
      have hread : (s.endContext a .power).cons.read a.slot = (s.cons.read a.slot).map (returnedTo a) := by
        rw [endContext_power_cons, Table.read_modify_same]
      by_cases hin : a ∈ cs
      · rw [ih _ hin huniq', hread]
        cases s.cons.read a.slot <;> rfl
      · rw [cancelAll_cons_other cs _ fun q hq he => hin (huniq' q hq he ▸ hq), hread]
    · have hslot : c.slot ≠ a.slot := fun he => ha (huniq a List.mem_cons_self he.symm)
      have hread : (s.endContext a .power).cons.read c.slot = s.cons.read c.slot := by
        rw [endContext_power_cons, Table.read_modify_other _ _ hslot]
      rw [ih _ ((List.mem_cons.mp hmem).resolve_left (Ne.symm ha)) huniq', hread]

/-- A free slot stays free. -/
theorem cancelAll_cons_none {j : Fin 32} (cs : List Context) : ∀ s : State, s.cons.read j = none →
    (s.cancelAll cs).cons.read j = none := by
  induction cs with
  | nil => exact fun _ h => h
  | cons a cs ih =>
    intro s h
    refine ih (s.endContext a .power) ?_
    rw [endContext_power_cons, Table.read_modify, h]
    split <;> rfl

/-! ### The marks of the start cause and the outage (R104, R166, R169) -/

/-- The marks that START requests for its cause. -/
def causeMarks (s : State) : List Mark :=
  let loss := s.ctl.lossSecond.getD 0
  match s.ctl.startCause with
  | .power => [.powerLoss loss s.ctl.heldMode, .powerReturn (s.ctl.startSecond - loss)]
  | .reset => [.reset .resetInput loss s.ctl.heldMode]
  | .backupLost =>
    let r := s.ctl.lossReport.getD { readable := 0, rebuilt := 0, notRebuilt := 0, lowest := 0 }
    [.backupLost s.ctl.startSecond r.readable s.hand.newest s.claims.counter r.rebuilt r.notRebuilt r.lowest]

theorem startMarks_eq (s : State) : s.startMarks = { s with marks := s.marks ++ s.causeMarks } := by
  cases h : s.ctl.startCause <;> simp [startMarks, causeMarks, request, h]

/-- A consignment after the outage of a power loss is marked (R104). -/
def outaged (s : State) (x : Consignment) : Consignment :=
  { x with outageSeen := x.outageSeen || (x.inCustody && s.ctl.startCause == .power) }

theorem markOutage_frame (s : State) : s.markOutage = { s with cons := s.markOutage.cons } := by
  unfold markOutage
  split <;> rfl

theorem markOutage_cons (s : State) (j : Fin 32) : s.markOutage.cons.read j = (s.cons.read j).map s.outaged := by
  unfold markOutage
  split <;> rename_i h
  · have hf : s.outaged = fun y => { y with outageSeen := y.outageSeen || y.inCustody } := by
      funext x
      simp [outaged, h]
    rw [hf]
    exact Table.read_mapIdx _ _ j
  · have hid : s.outaged = id := by
      funext x
      have hb : (s.ctl.startCause == .power) = false := by simpa using h
      simp [outaged, hb]
    simp [hid]

/-! ### The restored mode (R167) -/

/-- The mode that START ends in: without the park condition parking and sleep end at once. -/
def settledMode (park : Bool) (r : Mode) : Mode :=
  if park then r else if r = .parked then .service else if r = .dormant then .waking else r

/-- The MODE marks of the end of START. -/
def settledMarks (park : Bool) (r : Mode) : List Mark :=
  .mode .start r .start :: if park then [] else if r = .parked then [.mode .parked .service .parkEnded]
    else if r = .dormant then [.mode .dormant .waking .parkEnded] else []

/-- From `s` to `t` the restored mode `r` has been entered and START is over. -/
structure Restored (s : State) (r : Mode) (t : State) : Prop where
  frame : t = { s with ctl := t.ctl, fe := t.fe, mon := t.mon, marks := t.marks, ports := t.ports }
  mode : t.ctl.mode = settledMode s.parkCondition r
  heldMode : t.ctl.heldMode = t.ctl.mode
  domainValid : t.ctl.domainValid = true
  supplyFell : t.ctl.supplyFell = false
  startRan : t.ctl.startRan = false
  working : t.ctl.working = s.ctl.working
  time : t.ctl.time = s.ctl.time
  marks : t.marks = s.marks ++ settledMarks s.parkCondition r
  received : ∀ q, (t.ports.at q).received = (s.ports.at q).received
  responses : ∀ q, (t.ports.at q).responses = (s.ports.at q).responses
  pending : ∀ q, hasKind (t.ports.at q).pending .mode = true

theorem received_raise (s : State) (e : EventKind) (p : Port) :
    ((s.raise e).ports.at p).received = (s.ports.at p).received := by
  simp [PortUnit.setPending, PortUnit.sync]

/-- The restored mode entered, before the park condition is looked at. -/
def restoredEntered (s : State) : State :=
  ({ s with ctl := { s.ctl with quiet := 0, domainValid := true, supplyFell := false, startRan := false } } : State).enterMode
    s.restoredMode .start

theorem enterRestored_eq (s : State) :
    s.enterRestored = if s.parkCondition then s.restoredEntered else s.restoredEntered.rouse .parkEnded := rfl

theorem restored_entered (s : State) (hm : s.ctl.mode = .start) (hp : s.parkCondition = true ∨
    (s.restoredMode ≠ .parked ∧ s.restoredMode ≠ .dormant)) : Restored s s.restoredMode s.restoredEntered where
  frame := rfl
  mode := by
    change s.restoredMode = _
    unfold settledMode
    rcases hp with hp | ⟨h1, h2⟩
    · rw [if_pos hp]
    · rw [if_neg h1, if_neg h2, ite_self]
  heldMode := rfl
  domainValid := rfl
  supplyFell := rfl
  startRan := rfl
  working := rfl
  time := rfl
  marks := by
    change s.marks ++ [.mode s.ctl.mode s.restoredMode .start] = _
    unfold settledMarks
    rw [hm]
    rcases hp with hp | ⟨h1, h2⟩
    · rw [if_pos hp]
    · rw [if_neg h1, if_neg h2, ite_self]
  received := received_raise s .mode
  responses := responses_raise s .mode
  pending := hasKind_raise s .mode

/-- A park condition found false ends parking or sleep at once. -/
theorem restored_roused (s : State) (hm : s.ctl.mode = .start) (hp : s.parkCondition = false) {new : Mode}
    (h : (s.restoredMode = .parked ∧ new = .service) ∨ (s.restoredMode = .dormant ∧ new = .waking)) :
    Restored s s.restoredMode (s.restoredEntered.enterMode new .parkEnded) where
  frame := by rcases h with ⟨-, rfl⟩ | ⟨-, rfl⟩ <;> rfl
  mode := by
    change new = _
    rcases h with ⟨h, rfl⟩ | ⟨h, rfl⟩ <;> rw [h, hp] <;> rfl
  heldMode := rfl
  domainValid := rfl
  supplyFell := rfl
  startRan := rfl
  working := rfl
  time := rfl
  marks := by
    change s.marks ++ [.mode s.ctl.mode s.restoredMode .start] ++ [.mode s.restoredMode new .parkEnded] = _
    rw [hm, hp, List.append_assoc]
    rcases h with ⟨h, rfl⟩ | ⟨h, rfl⟩ <;> rw [h] <;> rfl
  received := fun q => (received_raise s.restoredEntered .mode q).trans (received_raise s .mode q)
  responses := fun q => (responses_raise s.restoredEntered .mode q).trans (responses_raise s .mode q)
  pending := hasKind_raise s.restoredEntered .mode

theorem restored_enterRestored (s : State) (hm : s.ctl.mode = .start) : Restored s s.restoredMode s.enterRestored := by
  have hmode : s.restoredEntered.ctl.mode = s.restoredMode := rfl
  rw [enterRestored_eq]
  split <;> rename_i hp
  · exact restored_entered s hm (.inl hp)
  · rw [Bool.not_eq_true] at hp
    unfold rouse wakeFrom
    rw [hmode]
    split <;> rename_i h1
    · exact restored_roused s hm hp (.inl ⟨h1, rfl⟩)
    · split <;> rename_i h2
      · exact restored_roused s hm hp (.inr ⟨h2, rfl⟩)
      · exact restored_entered s hm (.inr ⟨h1, h2⟩)

end State

end Sys2Proof.Machine

namespace Sys2Proof.Machine

/-! ### START completes -/

/-- A frame with its code and its tag is answered BUSY with its tag (R188). -/
theorem filterMap_busyAnswer {fs : List (List Byte)} (h : ∀ f ∈ fs, 2 ≤ f.length) :
    fs.filterMap busyAnswer = fs.map fun f => { status := .busy, tag := f.getD 1 0#8, data := [] } := by
  induction fs with
  | nil => rfl
  | cons f fs ih =>
    have hf : busyAnswer f = some { status := .busy, tag := f.getD 1 0#8, data := [] } := by
      match f, h f List.mem_cons_self with
      | _ :: _ :: _, _ => rfl
    rw [List.filterMap_cons_some hf, ih fun g hg => h g (List.mem_cons_of_mem _ hg), List.map_cons]

namespace State

/-- The mode that START restores where the given slots hold the consignments in custody (R167). -/
def restoredFor (s : State) (custody : List (Fin 32)) : Mode :=
  if s.ctl.startCause = .backupLost then .setup else match s.ctl.heldMode with
    | .service => .service
    | .parked => .parked
    | .dormant | .waking => if custody = [] then .dormant else .parked
    | _ => .setup

theorem restoredMode_eq (s : State) : s.restoredMode = s.restoredFor s.custodySlots := by
  unfold restoredMode restoredFor
  cases s.ctl.heldMode <;> simp

section complete

variable {s : State}

/-- The state once the frames of START are answered and the store and the bank have settled (R163, R198). -/
def startSettled (s : State) : State := s.answerStartFrames.finishHistory.testBlocks

theorem startSettled_moves (hm : s.ctl.mode = .start) : StoreMoves s.answerStartFrames s.startSettled :=
  (StoreMoves.finishHistory s.answerStartFrames hm).trans (.testBlocks _)

/-- The state once every context is cancelled (R144). -/
def startCancelled (s : State) : State := s.startSettled.cancelContexts

theorem startCancelled_eq (hm : s.ctl.mode = .start) : s.startCancelled = s.startSettled.cancelAll s.hand.contexts := by
  have hh : s.startSettled.hand = s.hand := by rw [(startSettled_moves hm).frame]; rfl
  rw [← hh]
  rfl

/-- What is left alone until the contexts are cancelled. -/
theorem startCancelled_frame (hm : s.ctl.mode = .start) :
    s.startCancelled = { s with
      hist := s.startSettled.hist, claims := s.startSettled.claims, bank := s.startSettled.bank
      ports := s.startSettled.ports, heldReads := s.startSettled.heldReads
      cons := s.startCancelled.cons, hand := { s.hand with contexts := [] }, marks := s.startCancelled.marks } := by
  have hh : s.startSettled.hand = s.hand := by rw [(startSettled_moves hm).frame]; rfl
  have hc := cancelAll_contexts s.hand.contexts s.startSettled (by rw [hh]; exact fun c hc => ⟨c, hc, rfl⟩)
  have hf := cancelAll_frame s.hand.contexts s.startSettled
  rw [← startCancelled_eq hm] at hc hf
  have key : ∀ {a b c : State} {h : HandOver},
      b = { a with hist := b.hist, claims := b.claims, bank := b.bank, marks := b.marks, ports := b.ports, heldReads := b.heldReads } →
      c = { b with cons := c.cons, hand := h, marks := c.marks } →
      c = { a with
        hist := b.hist, claims := b.claims, bank := b.bank, ports := b.ports, heldReads := b.heldReads
        cons := c.cons, hand := h, marks := c.marks } := fun h1 h2 => by rw [h2, h1]
  rw [hc, hh] at hf
  have hf' : s.startCancelled = { s.startSettled with
      cons := s.startCancelled.cons, hand := { s.hand with contexts := [] }, marks := s.startCancelled.marks } := by
    generalize s.startCancelled = c at hf ⊢
    rw [hf]
  exact key (startSettled_moves hm).frame hf'

theorem startCancelled_marks (hm : s.ctl.mode = .start) :
    ∃ first, s.startCancelled.marks = s.marks ++ first ++
        s.hand.contexts.map (fun c => .handoverEnd c.slot (s.idAt c.slot) .power 0) ∧ ∀ m ∈ first, ofStore m := by
  obtain ⟨first, hfirst, hstore⟩ := (startSettled_moves hm).marks
  have hid : ∀ j, s.startSettled.idAt j = s.idAt j := by
    intro j; unfold idAt; rw [(startSettled_moves hm).frame]; rfl
  refine ⟨first, ?_, hstore⟩
  rw [startCancelled_eq hm, cancelAll_frame]
  simp only [hid]
  rw [hfirst]
  rfl

theorem startSettled_cons (hm : s.ctl.mode = .start) : s.startSettled.cons = s.cons := by
  rw [(startSettled_moves hm).frame]; rfl

theorem startSettled_received (hm : s.ctl.mode = .start) (q : Port) : (s.startSettled.ports.at q).received = [] := by
  rw [(startSettled_moves hm).received q]
  exact congrArg PortUnit.received (PerPort.at_map s.ports PortUnit.answerBusy q)

theorem startSettled_responses (hm : s.ctl.mode = .start) (hr : s.heldReads = []) (q : Port)
    (h : ∀ f ∈ (s.ports.at q).received, 2 ≤ f.length) :
    (s.startSettled.ports.at q).responses = (s.ports.at q).responses ++ (s.ports.at q).received.map fun f =>
      { status := .busy, tag := f.getD 1 0#8, data := [] } := by
  rw [(startSettled_moves hm).responses hr q, ← filterMap_busyAnswer h]
  exact congrArg PortUnit.responses (PerPort.at_map s.ports PortUnit.answerBusy q)

theorem startSettled_gapDue (s : State) : s.startSettled.hist.gapDue = (s.ctl.startCause != .backupLost) := by
  have hb : ∀ t : State, t.testBlocks.hist = t.hist := by
    intro t; unfold testBlocks; split <;> [rfl; (split <;> rfl)]
  exact (congrArg History.gapDue (hb s.answerStartFrames.finishHistory)).trans (finishHistory_gapDue _)

/-- The state before the restored mode is entered: the marks of the cause and the outage made (R104, R166, R169). -/
def startMarked (s : State) : State := s.startCancelled.startMarks.markOutage

theorem startMarked_frame (s : State) :
    s.startMarked = { s.startCancelled with
      cons := s.startMarked.cons, marks := s.startCancelled.marks ++ s.startCancelled.causeMarks } := by
  unfold startMarked
  rw [startMarks_eq, markOutage_frame]

theorem startMarked_cons (hm : s.ctl.mode = .start) (j : Fin 32) :
    s.startMarked.cons.read j = (s.startCancelled.cons.read j).map s.outaged := by
  have hctl : s.startCancelled.ctl = s.ctl := by rw [startCancelled_frame hm]
  have ho : s.startCancelled.startMarks.outaged = s.outaged := by
    rw [startMarks_eq]
    funext x
    unfold outaged
    rw [hctl]
  unfold startMarked
  rw [markOutage_cons, ho, startMarks_eq]

/-- The marks of the cause, from what START found (R166, R169). -/
theorem startCancelled_causeMarks (hm : s.ctl.mode = .start) {own : List Mark}
    (hpower : s.ctl.startCause = .power → ∀ n, s.ctl.lossSecond = some n →
      own = [.powerLoss n s.ctl.heldMode, .powerReturn (s.ctl.startSecond - n)])
    (hreset : s.ctl.startCause = .reset → ∀ n, s.ctl.lossSecond = some n → own = [.reset .resetInput n s.ctl.heldMode])
    (hlost : s.ctl.startCause = .backupLost → ∀ x, s.ctl.lossReport = some x →
      own = [.backupLost s.ctl.startSecond x.readable s.hand.newest s.claims.counter x.rebuilt x.notRebuilt x.lowest])
    (hsecond : s.ctl.startCause ≠ .backupLost → s.ctl.lossSecond ≠ none)
    (hreport : s.ctl.startCause = .backupLost → s.ctl.lossReport ≠ none) : s.startCancelled.causeMarks = own := by
  have hcount : s.startSettled.claims.counter = s.claims.counter := (startSettled_moves hm).counter
  have hsec : s.ctl.startCause ≠ .backupLost → ∃ n, s.ctl.lossSecond = some n := fun h =>
    Option.ne_none_iff_exists'.mp (hsecond h)
  rw [startCancelled_frame hm]
  unfold causeMarks
  cases hc : s.ctl.startCause with
  | power =>
    obtain ⟨n, hn⟩ := hsec (by simp [hc])
    simp [hn, hpower hc n hn]
  | reset =>
    obtain ⟨n, hn⟩ := hsec (by simp [hc])
    simp [hn, hreset hc n hn]
  | backupLost =>
    obtain ⟨x, hx⟩ := Option.ne_none_iff_exists'.mp (hreport hc)
    simp [hx, hlost hc x hx, hcount]

/-- The last events of START, and the first round where one is due (R163, R167, R198). -/
def startClosed (s t : State) : State :=
  (((t.raiseIf s.ctl.wallOffset.isNone .time).raiseIf (s.ctl.startCause == .backupLost) .backupLost).raiseIf
    (!s.hand.contexts.isEmpty) .handover).beginRound

theorem finishStart_eq (s : State) : s.finishStart = s.startClosed s.startMarked.enterRestored := rfl

theorem startClosed_frame (s t : State) :
    s.startClosed t = { t with fe := (s.startClosed t).fe, ports := (s.startClosed t).ports } := by
  unfold startClosed
  rw [beginRound_frame, raiseIf_frame, raiseIf_frame, raiseIf_frame]

theorem hasKind_raiseIf_of {s : State} {e f : EventKind} {b : Bool} {p : Port}
    (h : hasKind (s.ports.at p).pending e = true) : hasKind ((s.raiseIf b f).ports.at p).pending e = true := by
  unfold raiseIf
  split <;> [exact hasKind_raise_of _ _ _ _ h; exact h]

theorem hasKind_raiseIf {s : State} {e : EventKind} {b : Bool} (hb : b = true) (p : Port) :
    hasKind ((s.raiseIf b e).ports.at p).pending e = true := by
  rw [raiseIf, if_pos hb]
  exact hasKind_raise _ _ _

theorem startClosed_ports (s t : State) : (s.startClosed t).ports =
    (((t.raiseIf s.ctl.wallOffset.isNone .time).raiseIf (s.ctl.startCause == .backupLost) .backupLost).raiseIf
      (!s.hand.contexts.isEmpty) .handover).ports := by
  unfold startClosed
  rw [beginRound_frame]

theorem raiseIf_port (s : State) (b : Bool) (e : EventKind) (q : Port) :
    ((s.raiseIf b e).ports.at q).received = (s.ports.at q).received ∧
      ((s.raiseIf b e).ports.at q).responses = (s.ports.at q).responses := by
  unfold raiseIf
  split <;> [exact ⟨received_raise _ _ _, responses_raise _ _ _⟩; exact ⟨rfl, rfl⟩]

theorem startClosed_port (s t : State) (q : Port) :
    ((s.startClosed t).ports.at q).received = (t.ports.at q).received ∧
      ((s.startClosed t).ports.at q).responses = (t.ports.at q).responses := by
  rw [startClosed_ports, (raiseIf_port _ _ _ q).1, (raiseIf_port _ _ _ q).1, (raiseIf_port _ _ _ q).1,
    (raiseIf_port _ _ _ q).2, (raiseIf_port _ _ _ q).2, (raiseIf_port _ _ _ q).2]
  exact ⟨rfl, rfl⟩

theorem startClosed_grows (s : State) {t : State} {e : EventKind} {q : Port} (h : hasKind (t.ports.at q).pending e = true) :
    hasKind ((s.startClosed t).ports.at q).pending e = true := by
  rw [startClosed_ports]
  exact hasKind_raiseIf_of (hasKind_raiseIf_of (hasKind_raiseIf_of h))

theorem startClosed_time {s : State} (t : State) (h : s.ctl.wallOffset = none) (q : Port) :
    hasKind ((s.startClosed t).ports.at q).pending .time = true := by
  rw [startClosed_ports]
  exact hasKind_raiseIf_of (hasKind_raiseIf_of (hasKind_raiseIf (by rw [h]; rfl) q))

theorem startClosed_backupLost {s : State} (t : State) (h : s.ctl.startCause = .backupLost) (q : Port) :
    hasKind ((s.startClosed t).ports.at q).pending .backupLost = true := by
  rw [startClosed_ports]
  exact hasKind_raiseIf_of (hasKind_raiseIf (by rw [h]; rfl) q)

theorem startClosed_handover {s : State} (t : State) (h : s.hand.contexts ≠ []) (q : Port) :
    hasKind ((s.startClosed t).ports.at q).pending .handover = true := by
  rw [startClosed_ports]
  exact hasKind_raiseIf (by simpa using h) q

end complete

end State

end Sys2Proof.Machine

namespace Sys2Proof.Machine

namespace State

/-! ### What START leaves when it has completed -/

theorem finishStart_ctl (s : State) : s.finishStart.ctl = s.startMarked.enterRestored.ctl := by
  rw [finishStart_eq, startClosed_frame]

theorem finishStart_marks (s : State) : s.finishStart.marks = s.startMarked.enterRestored.marks := by
  rw [finishStart_eq, startClosed_frame]

section complete

variable {s : State} (hm : s.ctl.mode = .start)
include hm

theorem startMarked_ctl : s.startMarked.ctl = s.ctl := by
  rw [startMarked_frame, startCancelled_frame hm]

theorem startMarked_parkCondition : s.startMarked.parkCondition = s.parkCondition := by
  have hl : s.startMarked.lines = s.lines := by rw [startMarked_frame, startCancelled_frame hm]
  unfold parkCondition parkLine lineActive entry
  rw [startMarked_ctl hm, hl]

theorem startMarked_ports : s.startMarked.ports = s.startSettled.ports := by
  rw [startMarked_frame, startCancelled_frame hm]

/-- The restored mode entered on what the completion of START has prepared. -/
theorem restored_startMarked : Restored s.startMarked s.startMarked.restoredMode s.startMarked.enterRestored :=
  restored_enterRestored _ (by rw [startMarked_ctl hm, hm])

theorem finishStart_cons : s.finishStart.cons = s.startMarked.cons := by
  rw [finishStart_eq, startClosed_frame, (restored_startMarked hm).frame]

theorem finishStart_hand : s.finishStart.hand = { s.hand with contexts := [] } := by
  rw [finishStart_eq, startClosed_frame, (restored_startMarked hm).frame, startMarked_frame, startCancelled_frame hm]

theorem finishStart_gapDue : s.finishStart.hist.gapDue = (s.ctl.startCause != .backupLost) := by
  rw [← startSettled_gapDue s, finishStart_eq, startClosed_frame, (restored_startMarked hm).frame, startMarked_frame,
    startCancelled_frame hm]

/-- The restored mode as the table of consignments after START gives it. -/
theorem finishStart_restoredMode : s.startMarked.restoredMode = s.restoredFor s.finishStart.custodySlots := by
  have hc : s.startMarked.custodySlots = s.finishStart.custodySlots := by
    unfold custodySlots
    rw [finishStart_cons hm]
  rw [restoredMode_eq, hc]
  unfold restoredFor
  rw [startMarked_ctl hm]

theorem finishStart_mode : s.finishStart.ctl.mode = settledMode s.parkCondition s.startMarked.restoredMode := by
  rw [finishStart_ctl, (restored_startMarked hm).mode, startMarked_parkCondition hm]

/-- The marks of the completion: the store's and those of the cuts, the hand-overs', the cause's, the mode's (log 35). -/
theorem finishStart_ownMarks : ∃ first, s.finishStart.marks = s.marks ++ first ++
    s.hand.contexts.map (fun c => .handoverEnd c.slot (s.idAt c.slot) .power 0) ++ s.startCancelled.causeMarks ++
      settledMarks s.parkCondition s.startMarked.restoredMode ∧ ∀ m ∈ first, ofStore m := by
  obtain ⟨first, hmarks, hstore⟩ := startCancelled_marks hm
  refine ⟨first, ?_, hstore⟩
  have hW : s.startMarked.marks = s.startCancelled.marks ++ s.startCancelled.causeMarks := by rw [startMarked_frame]
  rw [finishStart_marks, (restored_startMarked hm).marks, startMarked_parkCondition hm, hW, hmarks]

/-- A slot without a context: its consignment is marked where the outage was a power loss (R104). -/
theorem finishStart_cons_other {j : Fin 32} (h : ∀ c ∈ s.hand.contexts, c.slot ≠ j) :
    s.finishStart.cons.read j = (s.cons.read j).map s.outaged := by
  rw [finishStart_cons hm, startMarked_cons hm, startCancelled_eq hm, cancelAll_cons_other _ _ h, startSettled_cons hm]

/-- The consignment of a cancelled context returns to its state before the hand-over, then takes the outage (R104, R144). -/
theorem finishStart_cons_context {c : Context} (hc : c ∈ s.hand.contexts)
    (hone : ∀ q ∈ s.hand.contexts, q.slot = c.slot → q = c) :
    s.finishStart.cons.read c.slot = ((s.cons.read c.slot).map (returnedTo c)).map s.outaged := by
  rw [finishStart_cons hm, startMarked_cons hm, startCancelled_eq hm, cancelAll_cons_same _ _ hc hone, startSettled_cons hm]

theorem finishStart_cons_none {j : Fin 32} (h : s.cons.read j = none) : s.finishStart.cons.read j = none := by
  rw [finishStart_cons hm, startMarked_cons hm, startCancelled_eq hm,
    cancelAll_cons_none _ _ (by rw [startSettled_cons hm]; exact h)]
  rfl

theorem finishStart_received (q : Port) : (s.finishStart.ports.at q).received = [] := by
  rw [finishStart_eq, (startClosed_port s _ q).1, (restored_startMarked hm).received, startMarked_ports hm,
    startSettled_received hm]

theorem finishStart_responses (hr : s.heldReads = []) (q : Port) (h : ∀ f ∈ (s.ports.at q).received, 2 ≤ f.length) :
    (s.finishStart.ports.at q).responses = (s.ports.at q).responses ++ (s.ports.at q).received.map fun f =>
      { status := .busy, tag := f.getD 1 0#8, data := [] } := by
  rw [finishStart_eq, (startClosed_port s _ q).2, (restored_startMarked hm).responses, startMarked_ports hm,
    startSettled_responses hm hr q h]

end complete

end State

/-- START completes where it has run, on a powered part. -/
theorem exec_startComplete {s : State} (hp : s.powered = true) (hm : s.ctl.mode = .start) (hr : s.ctl.startRan = true) :
    exec .startComplete s = .next s.finishStart := by
  change execStartComplete s = _
  unfold execStartComplete
  simp [hp, hm, hr]

end Sys2Proof.Machine

namespace Sys2Proof.Machine

/-! ### The claims that a lost backup leaves (R124) -/

/-- A claim as the orphan rebuild makes it: ORPHANED, without a consignment (R124). -/
def Claim.Orphan (k : Claim) : Prop := k.state = .orphaned ∧ k.cons = none

theorem Claim.orphan_orphanOf {newest : Nat} {m : Nat × Mark} {k : Claim} (h : orphanOf newest m = some k) : k.Orphan := by
  unfold orphanOf at h
  split at h
  · cases h; exact ⟨rfl, rfl⟩
  · cases h

theorem Claim.orphan_learn {k : Claim} (h : k.Orphan) (m : Mark) : (k.learn m).Orphan := by
  unfold Claim.learn
  split
  case h_4 => exact h
  all_goals split <;> exact h

theorem Claim.orphan_foldl_learn (ms : List (Nat × Mark)) {k : Claim} (h : k.Orphan) :
    (ms.foldl (fun k m => k.learn m.2) k).Orphan :=
  List.foldlRecOn ms _ h fun _ hb m _ => Claim.orphan_learn hb m.2

theorem mem_of_mem_latestOpened {k : Claim} {ks : List Claim} (h : k ∈ latestOpened ks) : k ∈ ks := by
  induction ks with
  | nil => exact h
  | cons x xs ih =>
    unfold latestOpened at h
    split at h
    · exact List.mem_cons_of_mem _ (ih h)
    · exact List.mem_cons.mpr ((List.mem_cons.mp h).imp_right ih)

theorem mem_insertClaim {k x : Claim} {ks : List Claim} (h : k ∈ insertClaim x ks) : k = x ∨ k ∈ ks := by
  induction ks with
  | nil => exact List.mem_cons.mp h
  | cons y ys ih =>
    unfold insertClaim at h
    split at h
    · exact List.mem_cons.mp h
    · rcases List.mem_cons.mp h with rfl | h
      · exact .inr List.mem_cons_self
      · exact (ih h).imp_right (List.mem_cons_of_mem _)

theorem mem_foldr_insertClaim {k : Claim} {ks : List Claim} (h : k ∈ ks.foldr insertClaim []) : k ∈ ks := by
  induction ks with
  | nil => exact h
  | cons x xs ih => exact List.mem_cons.mpr ((mem_insertClaim h).imp_right ih)

theorem orphan_of_mem_orphansFound {rs : List Record} {newest : Nat} {k : Claim} (h : k ∈ orphansFound rs newest) :
    k.Orphan := by
  obtain ⟨x, hx, rfl⟩ := List.mem_map.mp (mem_foldr_insertClaim h)
  obtain ⟨m, -, hm⟩ := List.mem_filterMap.mp (List.mem_filter.mp (mem_of_mem_latestOpened hx)).1
  exact Claim.orphan_foldl_learn _ (Claim.orphan_orphanOf hm)

theorem orphan_of_mem_fitOrphans {h : History} {ks : List Claim} (hks : ∀ k ∈ ks, k.Orphan) :
    ∀ {pins : BitVec 16}, ∀ k ∈ fitOrphans h pins ks, k.Orphan := by
  induction ks with
  | nil => exact fun k hk => absurd hk List.not_mem_nil
  | cons x xs ih =>
    intro pins k hk
    rcases List.mem_cons.mp hk with rfl | hk
    · exact hks x List.mem_cons_self
    · exact ih (fun y hy => hks y (List.mem_cons_of_mem _ hy)) k hk

namespace State

theorem rebuildOrphans_table {s : State} {n : Nat} {j : Fin 16} {k : Claim}
    (h : (s.rebuildOrphans n).claims.table.read j = some k) : k.Orphan := by
  have hr : (s.rebuildOrphans n).claims.table.read j = _ := Table.read_ofIdx _ j
  rw [hr] at h
  exact orphan_of_mem_fitOrphans (fun x hx => orphan_of_mem_orphansFound (List.mem_of_mem_take hx)) k
    (List.mem_of_getElem? h)

/-! ### The steps of START, each by what it changes (R166) -/

section steps

variable (s : State) (valid : Bool)

theorem loadCounters_frame : s.loadCounters valid = { s with
    claims := { s.claims with counter := (s.startCounters valid).counter }
    hand := { s.hand with retired := (s.startCounters valid).blocks }
    bank := (s.loadCounters valid).bank } := by
  simp only [loadCounters, requestRewrite]
  split <;> [(split <;> rfl); rfl]

/-- A rewrite asked for leaves the copies of the settings alone. -/
theorem loadCounters_committed : (s.loadCounters valid).committed = s.committed := by
  simp only [loadCounters, requestRewrite]
  split <;> [(split <;> rfl); rfl]

theorem loadSettings_frame : s.loadSettings = { s with
    ctl := { s.ctl with working := s.committed }
    fe := s.loadSettings.fe, mon := s.loadSettings.mon, ports := s.loadSettings.ports } := by
  unfold loadSettings
  rw [raiseIf_frame]

/-- The state when the counter block and the settings have been read (R166 step 2). -/
def startLoaded : State := ((s.loadCounters valid).loadSettings).clearLoadMarks

theorem startLoaded_frame : s.startLoaded valid = { s with
    ctl := { s.ctl with working := s.committed }
    claims := { s.claims with counter := (s.startCounters valid).counter }
    hand := { s.hand with retired := (s.startCounters valid).blocks }
    cons := (s.startLoaded valid).cons, fe := (s.startLoaded valid).fe, mon := (s.startLoaded valid).mon
    ports := (s.startLoaded valid).ports, bank := (s.startLoaded valid).bank } := by
  have h : s.startLoaded valid =
    { (s.loadCounters valid).loadSettings with cons := (s.startLoaded valid).cons } := rfl
  rw [h, loadSettings_frame, loadCounters_committed, loadCounters_frame]

theorem judgeUpload_frame : s.judgeUpload = { s with
    hist := { s.hist with uploadWanted := s.judgeUpload.hist.uploadWanted }, ports := s.judgeUpload.ports } := by
  unfold judgeUpload
  split <;> [rfl; (split <;> rfl)]

theorem scanHistory_frame (retired : BitVec 16) : s.scanHistory valid retired = { s with
    hist := (s.scanHistory valid retired).hist, ports := (s.scanHistory valid retired).ports
    freeCount := (s.scanHistory valid retired).freeCount } := by
  unfold scanHistory
  rw [judgeUpload_frame]

/-- A valid backup keeps the sequences of the history, and what waited in its queue counts as dropped (R162, R170). -/
theorem scanHistory_hist (retired : BitVec 16) :
    (s.scanHistory true retired).hist.newest = s.hist.newest ∧ (s.scanHistory true retired).hist.acked = s.hist.acked ∧
      (s.scanHistory true retired).hist.lostUnsent = s.hist.lostUnsent ∧
      (s.scanHistory true retired).hist.droppedSamples = min (s.hist.droppedSamples + s.hist.queuedSamples) 65535 ∧
      (s.scanHistory true retired).hist.droppedMarks = min (s.hist.droppedMarks + s.hist.queuedMarks) 65535 := by
  unfold scanHistory
  rw [judgeUpload_frame]
  exact ⟨rfl, rfl, rfl, rfl, rfl⟩

/-- The two scans of START (R162, R144). -/
def scanFlash (retired : BitVec 16) : State := (s.scanHistory valid retired).modHand fun h => h.scan valid

theorem scanFlash_frame (retired : BitVec 16) : s.scanFlash valid retired = { s with
    hist := (s.scanHistory valid retired).hist, hand := s.hand.scan valid
    ports := (s.scanHistory valid retired).ports, freeCount := (s.scanHistory valid retired).freeCount } := by
  unfold scanFlash modHand
  rw [scanHistory_frame]

/-- The rebuild of a lost backup (R124, R169). -/
def rebuildLost : State := (s.rebuildOrphans s.claims.counter).loseControl

/-- The state of START before its check: read, cleared where the backup is lost, scanned, and then rebuilt (R166). -/
def startRebuilt : State :=
  if valid then (s.startLoaded true).scanFlash true (s.startCounters true).sectors
  else ((s.startLoaded false).clearTables.scanFlash false (s.startCounters false).sectors).rebuildLost

theorem startSteps_eq (found : StartInputs) :
    s.startSteps valid found = ((s.startRebuilt valid).completeCheck found.refA found.refB).sampleLines := by
  cases valid <;>
    simp only [startSteps, startRebuilt, scanFlash, rebuildLost, startLoaded, if_true, Bool.false_eq_true, if_false]

theorem rebuildLost_frame : s.rebuildLost = { s with
    ctl := { s.ctl with
      lossReport := s.rebuildLost.ctl.lossReport, time := s.rebuildLost.ctl.time, startSecond := s.rebuildLost.ctl.startSecond
      wallOffset := none, lossSecond := none, parkFlag := false, serviceRound := false, quiet := 0 }
    claims := s.rebuildLost.claims } := rfl

theorem rebuildLost_table {s : State} {j : Fin 16} {k : Claim} (h : s.rebuildLost.claims.table.read j = some k) : k.Orphan :=
  rebuildOrphans_table (s := s) h

/-- Recorder time resumes past the newest record found (R169). -/
theorem rebuildLost_now : s.rebuildLost.now = s.rebuildLost.timeFound := rfl

/-- A valid backup: what START has changed before its check (R162, R168, R182). -/
theorem startRebuilt_valid : s.startRebuilt true = { s with
    ctl := { s.ctl with working := s.committed }
    claims := { s.claims with counter := (s.startCounters true).counter }
    hand := (s.startRebuilt true).hand, hist := (s.startRebuilt true).hist, cons := (s.startRebuilt true).cons
    fe := (s.startRebuilt true).fe, mon := (s.startRebuilt true).mon, ports := (s.startRebuilt true).ports
    bank := (s.startRebuilt true).bank, freeCount := (s.startRebuilt true).freeCount } := by
  unfold startRebuilt
  rw [if_pos rfl, scanFlash_frame, startLoaded_frame]

theorem startRebuilt_valid_contexts : (s.startRebuilt true).hand.contexts = s.hand.contexts := by
  unfold startRebuilt
  rw [if_pos rfl, scanFlash_frame, startLoaded_frame]
  exact contexts_scan _ true

/-- A lost backup: what START has changed before its check (R105, R145, R169). -/
theorem startRebuilt_lost : s.startRebuilt false = { s with
    ctl := { s.ctl with
      working := s.committed
      lossReport := (s.startRebuilt false).ctl.lossReport, time := (s.startRebuilt false).ctl.time
      startSecond := (s.startRebuilt false).ctl.startSecond
      wallOffset := none, lossSecond := none, parkFlag := false, serviceRound := false, quiet := 0 }
    claims := (s.startRebuilt false).claims
    cons := Table.const 32 none
    lines := { s.lines with counters := Table.const 4 0#32, log := [], nextEpisode := 1 }
    hand := (s.startRebuilt false).hand, hist := (s.startRebuilt false).hist
    fe := (s.startRebuilt false).fe, mon := (s.startRebuilt false).mon, ports := (s.startRebuilt false).ports
    bank := (s.startRebuilt false).bank, freeCount := (s.startRebuilt false).freeCount } := by
  unfold startRebuilt
  rw [if_neg Bool.false_ne_true, rebuildLost_frame, scanFlash_frame]
  unfold clearTables
  rw [startLoaded_frame]

theorem startRebuilt_valid_hist :
    (s.startRebuilt true).hist.newest = s.hist.newest ∧ (s.startRebuilt true).hist.acked = s.hist.acked ∧
      (s.startRebuilt true).hist.lostUnsent = s.hist.lostUnsent ∧
      (s.startRebuilt true).hist.droppedSamples = min (s.hist.droppedSamples + s.hist.queuedSamples) 65535 ∧
      (s.startRebuilt true).hist.droppedMarks = min (s.hist.droppedMarks + s.hist.queuedMarks) 65535 := by
  have h := scanHistory_hist (s.startLoaded true) (s.startCounters true).sectors
  have hl : (s.startLoaded true).hist = s.hist := by rw [startLoaded_frame]
  rw [hl] at h
  unfold startRebuilt
  rw [if_pos rfl, scanFlash_frame]
  exact h

theorem startRebuilt_lost_hand : (s.startRebuilt false).hand = (s.startLoaded false).clearTables.hand.scan false := by
  unfold startRebuilt
  rw [if_neg Bool.false_ne_true, rebuildLost_frame, scanFlash_frame]

theorem startRebuilt_lost_table {j : Fin 16} {k : Claim} (h : (s.startRebuilt false).claims.table.read j = some k) :
    k.Orphan := by
  unfold startRebuilt at h
  rw [if_neg Bool.false_ne_true] at h
  exact rebuildLost_table h

theorem startRebuilt_lost_now : (s.startRebuilt false).now = (s.startRebuilt false).timeFound := by
  unfold startRebuilt
  rw [if_neg Bool.false_ne_true]
  exact rebuildLost_now _

end steps

/-! ### The sampling of the lines (R38) -/

/-- From `s` to `t` episodes were opened, and counted against the consignments (R28, R95). -/
structure Opened (s t : State) : Prop where
  frame : t = { s with lines := { s.lines with log := t.lines.log, nextEpisode := t.lines.nextEpisode }, cons := t.cons }
  free : ∀ {j}, s.cons.read j = none → t.cons.read j = none

theorem Opened.refl (s : State) : Opened s s := ⟨rfl, id⟩

theorem Opened.trans {s t u : State} (h : Opened s t) (k : Opened t u) : Opened s u := by
  refine ⟨?_, fun hj => k.free (h.free hj)⟩
  have hk := k.frame
  rw [h.frame] at hk
  exact hk

theorem opened_openEpisode (s : State) (l : Fin 8) (c : Fin 4) (second : Nat) : Opened s (s.openEpisode l c second) where
  frame := rfl
  free := by
    intro j hj
    unfold openEpisode countOpening
    simp [Table.read_mapIdx, hj]

theorem opened_sampleDoor (s : State) (l : Fin 8) : Opened s (s.sampleDoor l) := by
  unfold sampleDoor
  split <;> [exact opened_openEpisode _ _ _ _; exact .refl s]

/-- The lines as they stand taken for the sampled ones, with no change of a door shown to a reader (R38). -/
def sampledLines (s : State) : LineUnit := { s.lines with
  line := s.lines.line.mapIdx fun l x => { x with active := sampled (s.entry l) x, candidate := none }
  flags := { t := 0#8, f := 0#8, h := 0#8 } }

/-- The state of the sampling before the episodes of the doors found active (R38, R61). -/
def linesSampled (s : State) : State :=
  let t : State := { s with lines := s.sampledLines }
  { t with mon := t.mon.mapIdx t.sampledComp }

theorem opened_foldl_sampleDoor (ls : List (Fin 8)) : ∀ s : State, Opened s (ls.foldl sampleDoor s) := by
  induction ls with
  | nil => exact .refl
  | cons l ls ih => exact fun s => (opened_sampleDoor s l).trans (ih _)

theorem opened_sampleLines (s : State) : Opened s.linesSampled s.sampleLines :=
  opened_foldl_sampleDoor (List.finRange 8) _

end State

end Sys2Proof.Machine

namespace Sys2Proof.Machine

namespace State

/-! ### START begins -/

section begins

variable (s : State) (valid : Bool) (found : StartInputs)

/-- The check and the sampling leave the rest of the part as the rebuild left it. -/
theorem startSteps_frame : s.startSteps valid found = { s.startRebuilt valid with
    fe := (s.startSteps valid found).fe, marks := (s.startSteps valid found).marks, ports := (s.startSteps valid found).ports
    lines := (s.startSteps valid found).lines, mon := (s.startSteps valid found).mon
    cons := (s.startSteps valid found).cons } := by
  rw [startSteps_eq]
  generalize s.startRebuilt valid = r
  have hc := completeCheck_frame r found.refA found.refB
  generalize r.completeCheck found.refA found.refB = c at hc ⊢
  have hs := (opened_sampleLines c).frame
  generalize c.sampleLines = t at hs ⊢
  rw [hs, linesSampled, hc]

theorem startSteps_ref : (s.startSteps valid found).fe.ref = (s.startRebuilt valid).fe.ref.check found.refA found.refB := by
  rw [startSteps_eq, (opened_sampleLines _).frame, linesSampled, completeCheck_fe]

/-- The lines after the sampling but for the log of door episodes, which the doors found active have opened (R38). -/
theorem startSteps_lines : (s.startSteps valid found).lines = { (s.startRebuilt valid).sampledLines with
    log := (s.startSteps valid found).lines.log, nextEpisode := (s.startSteps valid found).lines.nextEpisode } := by
  have hl : ((s.startRebuilt valid).completeCheck found.refA found.refB).sampledLines = (s.startRebuilt valid).sampledLines := by
    rw [completeCheck_frame]; rfl
  rw [startSteps_eq, ← hl]
  exact congrArg State.lines (opened_sampleLines _).frame

theorem startSteps_free {j : Fin 32} (h : (s.startRebuilt valid).cons.read j = none) :
    (s.startSteps valid found).cons.read j = none := by
  rw [startSteps_eq]
  refine (opened_sampleLines _).free ?_
  rw [linesSampled, completeCheck_frame]
  exact h

theorem startRebuilt_working : (s.startRebuilt valid).ctl.working = s.committed := by
  cases valid
  · rw [startRebuilt_lost]
  · rw [startRebuilt_valid]

theorem startRebuilt_line : (s.startRebuilt valid).lines.line = s.lines.line := by
  cases valid
  · rw [startRebuilt_lost]
  · rw [startRebuilt_valid]

/-- The controller's state that no step of START changes. -/
theorem startRebuilt_kept :
    (s.startRebuilt valid).ctl.mode = s.ctl.mode ∧ (s.startRebuilt valid).powered = s.powered ∧
      (s.startRebuilt valid).ctl.startRan = s.ctl.startRan ∧ (s.startRebuilt valid).ctl.heldMode = s.ctl.heldMode ∧
      (s.startRebuilt valid).ctl.commit = s.ctl.commit ∧ (s.startRebuilt valid).ctl.warmUpEnd = s.ctl.warmUpEnd ∧
      (s.startRebuilt valid).ctl.startCause = s.ctl.startCause := by
  unfold powered
  cases valid
  · rw [startRebuilt_lost]; exact ⟨rfl, rfl, rfl, rfl, rfl, rfl, rfl⟩
  · rw [startRebuilt_valid]; exact ⟨rfl, rfl, rfl, rfl, rfl, rfl, rfl⟩

theorem startSteps_ctl : (s.startSteps valid found).ctl = (s.startRebuilt valid).ctl := by rw [startSteps_frame]

/-- Every line is taken as it stands under its committed entry (R38). -/
theorem startSteps_line (l : Fin 8) : (s.startSteps valid found).lines.line.read l =
    { s.lines.line.read l with active := sampled (s.committed.lines.read l) (s.lines.line.read l), candidate := none } := by
  rw [startSteps_lines, sampledLines, startRebuilt_line]
  simp only [Table.read_mapIdx, entry, startRebuilt_working]

theorem startSteps_powered : (s.startSteps valid found).powered = (s.startRebuilt valid).powered := by
  unfold powered
  rw [startSteps_ctl]

/-- With a valid backup the controller, the history, the claims, the counters and the contexts stand (R162, R168, R185). -/
theorem startSteps_valid :
    (s.startSteps true found).now = s.now ∧ (s.startSteps true found).ctl.wallOffset = s.ctl.wallOffset ∧
      (s.startSteps true found).ctl.parkFlag = s.ctl.parkFlag ∧
      (s.startSteps true found).hist = (s.startRebuilt true).hist ∧
      (s.startSteps true found).claims.table = s.claims.table ∧
      (s.startSteps true found).lines.counters = s.lines.counters ∧
      (s.startSteps true found).hand.contexts = s.hand.contexts ∧
      (s.startSteps true found).claims.counter = (s.startCounters true).counter := by
  have hctl : (s.startSteps true found).ctl = { s.ctl with working := s.committed } := by
    rw [startSteps_ctl, startRebuilt_valid]
  have hclaims : (s.startSteps true found).claims = { s.claims with counter := (s.startCounters true).counter } := by
    rw [startSteps_frame, startRebuilt_valid]
  refine ⟨?_, ?_, ?_, ?_, ?_, ?_, ?_, ?_⟩
  · unfold now; rw [hctl]
  · rw [hctl]
  · rw [hctl]
  · rw [startSteps_frame]
  · rw [hclaims]
  · rw [startSteps_lines, sampledLines, startRebuilt_valid]
  · rw [startSteps_frame]; exact s.startRebuilt_valid_contexts
  · rw [hclaims]

/-- A lost backup leaves no consignment, context, wall offset, PARK flag or door count, and orphans alone as claims. -/
theorem startSteps_lost :
    (∀ j, (s.startSteps false found).cons.read j = none) ∧ (s.startSteps false found).hand.contexts = [] ∧
      (s.startSteps false found).ctl.wallOffset = none ∧ (s.startSteps false found).ctl.parkFlag = false ∧
      (s.startSteps false found).hand.acked = 0 ∧ (∀ c, (s.startSteps false found).lines.counters.read c = 0#32) ∧
      (∀ j k, (s.startSteps false found).claims.table.read j = some k → k.Orphan) ∧
      (s.startSteps false found).now = (s.startSteps false found).timeFound := by
  have hctl := s.startSteps_ctl false found
  have hhand : (s.startSteps false found).hand = (s.startLoaded false).clearTables.hand.scan false := by
    rw [startSteps_frame]; exact s.startRebuilt_lost_hand
  refine ⟨fun j => startSteps_free _ _ _ ?_, ?_, ?_, ?_, ?_, fun c => ?_, fun j k h => ?_, ?_⟩
  · rw [startRebuilt_lost]; exact Table.read_const _ _
  · rw [hhand]; exact contexts_scan _ false
  · rw [hctl, startRebuilt_lost]
  · rw [hctl, startRebuilt_lost]
  · rw [hhand]; rfl
  · rw [startSteps_lines, sampledLines, startRebuilt_lost]; exact Table.read_const _ _
  · rw [startSteps_frame] at h; exact s.startRebuilt_lost_table h
  · have hnow := s.startRebuilt_lost_now
    unfold now timeFound at hnow ⊢
    rw [hctl, hnow, startSteps_frame]

end begins

/-- The merged claim counter: the highest of what table memory and the counter block hold (R185). -/
theorem startCounters_counter (s : State) : (s.startCounters true).counter =
    max s.claims.counter ((s.bank.counters.newest.map fun v => v.contents.counter).getD 0) := by
  unfold startCounters
  cases s.bank.counters.newest <;> rfl

/-- The state in which START runs its steps: powered, and cleared (R166, R198). -/
def startBegun (s : State) (valid : Bool) : State :=
  ({ s with ctl := { s.ctl with mainPower := true, resetInput := false } } : State).startBegins valid

end State

/-- START begins where main power returns to a part that is not held reset, or a powered part is released (R166, R170). -/
theorem exec_startBegins {s : State} {i : Instr} {found : StartInputs}
    (h : (i = .mainPowerReturn found ∧ s.ctl.mainPower = false ∧ s.ctl.resetInput = false) ∨
      (i = .resetInputReleased found ∧ s.ctl.mainPower = true ∧ s.ctl.resetInput = true)) :
    exec i s = .next ((s.startBegun (s.domainHolds found)).startSteps (s.domainHolds found) found) := by
  rcases h with ⟨rfl, hp, hr⟩ | ⟨rfl, hp, hr⟩
  · change execMainPowerReturn found s = _
    simp only [execMainPowerReturn, State.runStart, State.startBegun, hp, hr, Bool.false_eq_true, if_false]
    rfl
  · change execResetInputReleased found s = _
    simp only [execResetInputReleased, State.runStart, State.startBegun, hp, hr, if_true]
    rfl

end Sys2Proof.Machine

namespace Sys2Proof.Machine

/-- Settles O56: START's steps, followed one by one from what each changes, and its completion, whose order of marks the
cancelled contexts, the cause and the restored mode give. -/
theorem startRestoresThePart : Obligations.StartRestoresThePart := by
  unfold Obligations.StartRestoresThePart
  refine ⟨fun s i found valid hi hm hvalid => ?_, fun s r hp hm hr => ?_⟩
  · have hv : valid = s.domainHolds found := hvalid
    have hexec := exec_startBegins hi
    rw [← hv] at hexec
    obtain ⟨hmode, hpow, hran, hheld, hcommit, hwarm, hcause⟩ := (s.startBegun valid).startRebuilt_kept valid
    have hctl := (s.startBegun valid).startSteps_ctl valid found
    have href := (s.startBegun valid).startSteps_ref valid found
    have hlines := (s.startBegun valid).startSteps_lines valid found
    refine ⟨_, hexec, ?_, ?_, ?_, ?_, ?_, ?_, ?_, ?_, ?_, ?_, ?_, fun l => ?_, ?_, ?_, ?_⟩
    · rw [hctl, hmode]; exact hm
    · rw [State.startSteps_powered, hpow]; rfl
    · rw [hctl, hran]; rfl
    · rw [hctl, hheld]; rfl
    · rw [hctl, State.startRebuilt_working]; rfl
    · rw [hctl, hcommit]; rfl
    · rw [hctl, hwarm]; rfl
    · rw [hctl, hcause]; rfl
    · rw [href, RefRecord.check_codeA]
    · rw [href, RefRecord.check_codeB]
    · rw [href]; exact RefRecord.check_pass_iff _ _ _
    · rw [State.startSteps_line]; rfl
    · rw [hlines]; rfl
    · rintro rfl
      obtain ⟨hnow, hwall, hpark, hhist, htable, hcounters, hcontexts, hcounter⟩ := (s.startBegun true).startSteps_valid found
      obtain ⟨hnewest, hacked, hunsent, hsamples, hmarks⟩ := (s.startBegun true).startRebuilt_valid_hist
      rw [hhist, hcounter, State.startCounters_counter]
      exact ⟨hnow, hwall, hpark, hnewest, hacked, hunsent, hsamples, hmarks, htable, hcounters, hcontexts, rfl⟩
    · rintro rfl
      obtain ⟨hcons, hcontexts, hwall, hpark, hacked, hcounters, htable, hnow⟩ := (s.startBegun false).startSteps_lost found
      refine ⟨hcons, hcontexts, hwall, hpark, hacked, hcounters, htable, hnow.trans ?_⟩
      generalize (s.startBegun false).startSteps false found = t
      unfold State.timeFound
      cases t.hist.readable.find? fun r => r.sequence == t.hist.newest <;> rfl
  · have hR := State.restored_startMarked hm
    have hrest := State.finishStart_restoredMode hm
    refine ⟨s.finishStart, exec_startComplete hp hm hr, fun h => ?_, ?_, ?_, ?_, ?_, ?_, ?_,
      State.finishStart_received hm, fun q hh hf => State.finishStart_responses hm hh q hf, State.finishStart_gapDue hm,
      State.finishStart_hand hm, fun j x hj hx => ?_, fun c x y hc hone hx hy => ?_,
      fun j => State.finishStart_cons_none hm, ?_, fun h q => State.startClosed_time _ h q,
      fun h q => State.startClosed_backupLost _ h q, fun h q => State.startClosed_handover _ h q,
      fun q => State.startClosed_grows s (hR.pending q)⟩
    · rw [State.finishStart_mode hm, hrest, h]; rfl
    · rw [State.finishStart_ctl, hR.heldMode]
    · rw [State.finishStart_ctl, hR.domainValid]
    · rw [State.finishStart_ctl, hR.supplyFell]
    · rw [State.finishStart_ctl, hR.startRan]
    · rw [State.finishStart_ctl, hR.working, State.startMarked_ctl hm]
    · unfold State.now
      rw [State.finishStart_ctl, hR.time, State.startMarked_ctl hm]
    · rw [State.finishStart_cons_other hm hj, hx]; rfl
    · rw [State.finishStart_cons_context hm hc hone, hx, hy]; rfl
    · intro ends own modes hends hpower hreset hlost hsecond hreport hmodes h
      obtain ⟨first, hmarks, hstore⟩ := State.finishStart_ownMarks hm
      have hown : s.startCancelled.causeMarks = own :=
        State.startCancelled_causeMarks hm hpower hreset hlost hsecond hreport
      have hmode : s.startMarked.restoredMode = r := hrest.trans h.symm
      have hcuts : s.hand.contexts.map (fun c => Mark.handoverEnd c.slot (s.idAt c.slot) .power 0) = ends := hends.symm
      refine ⟨first, ?_, hstore⟩
      rw [hmarks, hown, hcuts, hmode, hmodes]
      rfl

end Sys2Proof.Machine

namespace Sys2Proof.Machine

/-! ## The lines, the doors and the door log (file 02) -/

/-! ### The event sets of a port (R193 to R195) -/

section sets

variable {h : Header} {kinds : BitVec 16} {s : State} {u : PortUnit} {k : BitVec 12}

/-- A mask within twelve bits names the kinds of its bits. -/
theorem kindsOf_of_toNat (hk : kinds.toNat = k.toNat) : kindsOf kinds = some k := by
  have hlt : kinds.toNat < 4096 := hk ▸ k.isLt
  have he : kinds.setWidth 12 = k := BitVec.eq_of_toNat_eq (by rw [BitVec.toNat_setWidth, hk]; exact Nat.mod_eq_of_lt k.isLt)
  rw [kindsOf, if_pos hlt, he]

/-- A mask with a bit past the twelfth names no set of kinds. -/
theorem kindsOf_none (hk : 4096 ≤ kinds.toNat) : kindsOf kinds = none := if_neg (by omega)

/-- DOOR becomes pending where it is enabled anew while a door-change flag stands (R34). -/
theorem enableKinds_eq (u : PortUnit) (k : BitVec 12) (flags : BitVec 8) {pending : BitVec 12}
    (hp : pending =
      if k.getLsbD 8 = true ∧ u.enable.getLsbD 8 = false ∧ flags ≠ 0#8 then u.pending ||| 256#12 else u.pending) :
    u.enableKinds k flags = { u with
      enable := u.enable ||| k, pending := pending, attention := pending &&& (u.enable ||| k) != 0#12 } := by
  have hd : (hasKind k .door && !hasKind u.enable .door && flags != 0#8) =
      decide (k.getLsbD 8 = true ∧ u.enable.getLsbD 8 = false ∧ flags ≠ 0#8) := by
    rw [Bool.eq_iff_iff]
    simp [hasKind, EventKind.bit, and_assoc]
  rw [hp, PortUnit.enableKinds, hd]
  simp only [decide_eq_true_eq]
  rfl

theorem enableSet_taken (hs : Taken .events h s) (hk : kinds.toNat = k.toNat)
    (hu : (s.ports.at h.port).enableKinds k (s.lines.flags.at h.port) = u) :
    exec (.enableSet h kinds) s = .next (({ s with ports := s.ports.put h.port u } : State).respond h .ok
      (u16 u.enable.toNat ++ u16 u.pending.toNat)) := by
  refine (next_take_taken hs _).trans ?_
  subst hu
  simp only [kindsOf_of_toNat hk, State.modPort_ports, PerPort.at_put_same]
  rfl

theorem enableClear_taken (hs : Taken .events h s) (hk : kinds.toNat = k.toNat) (hu : (s.ports.at h.port).disableKinds k = u) :
    exec (.enableClear h kinds) s = .next (({ s with ports := s.ports.put h.port u } : State).respond h .ok
      (u16 u.enable.toNat ++ u16 u.pending.toNat)) := by
  refine (next_take_taken hs _).trans ?_
  subst hu
  simp only [kindsOf_of_toNat hk, State.modPort_ports, PerPort.at_put_same]
  rfl

theorem ackEvents_taken (hs : Taken .events h s) (hk : kinds.toNat = k.toNat) (hu : (s.ports.at h.port).ackKinds k = u) :
    exec (.ackEvents h kinds) s = .next (({ s with ports := s.ports.put h.port u } : State).respond h .ok
      (u16 u.pending.toNat)) := by
  refine (next_take_taken hs _).trans ?_
  subst hu
  simp only [kindsOf_of_toNat hk, State.modPort_ports, PerPort.at_put_same]
  rfl

end sets

/-- Settles O59. -/
theorem eventSetsAreEditedPortByPort : Obligations.EventSetsAreEditedPortByPort := by
  unfold Obligations.EventSetsAreEditedPortByPort
  rintro h kinds s u k pending hs rfl
  constructor
  · intro hk
    refine ⟨(next_take_taken hs _).trans ?_, (next_take_taken hs _).trans ?_, (next_take_taken hs _).trans ?_⟩ <;>
      simp only [kindsOf_none hk]
  · exact fun hk => ⟨fun hp => enableSet_taken hs hk (enableKinds_eq _ _ _ hp), enableClear_taken hs hk rfl,
      ackEvents_taken hs hk rfl⟩

/-! ### Overstay and peaks (R31, R32, R47) -/

namespace State

variable {s : State}

/-- What an overstay leaves: the phase, the flag on the open episodes there, its mark and UNIT (R32, R47). -/
theorem overstay_eq {c : Fin 4} {b : Nat} (hb : (s.mon.read c).openStart = some b) :
    s.overstay c = { s with
      mon := s.mon.write c { s.mon.read c with door := .overstay, overstayDue := false }
      lines := { s.lines with
        log := s.lines.log.map fun e => if e.comp = c ∧ e.stop = none then { e with overstay := true } else e }
      marks := s.marks ++ [.unit c .doorOverstay true b]
      ports := (s.raise .unit).ports } := by
  unfold overstay
  rw [hb]
  rfl

theorem pastOpenLimit_iff {c : Fin 4} :
    s.pastOpenLimit c = true ↔ s.inUse c = true ∧ (s.mon.read c).door = .allow ∧
      ∃ z b, s.zoneOf c = some z ∧ (s.mon.read c).openStart = some b ∧ (b : Int) + z.doorOpenLimit < (s.now : Int) := by
  unfold pastOpenLimit
  cases s.zoneOf c <;> cases (s.mon.read c).openStart <;> simp [and_assoc]

/-- An open episode takes the higher of its peak and the air of its compartment (R31). -/
theorem peakAfter_judged {p : Publication} {e : Episode} {r : AirRecord} {a : Int} (he : e.stop = none)
    (hr : p.air.read e.comp = some r) (hl : r.lost = false) (ha : r.a = some a) :
    peakAfter p e = { e with peak := some (max (e.peak.getD a) a) } := by
  have hj : judgedAir p e.comp = some a := by simp [judgedAir, hr, hl, ha]
  simp only [peakAfter, he, hj]

/-- A closed episode, and one whose compartment has no air to judge, keeps its peak (R31). -/
theorem peakAfter_kept {p : Publication} {e : Episode}
    (h : e.stop ≠ none ∨ p.air.read e.comp = none ∨ ∃ r, p.air.read e.comp = some r ∧ (r.lost = true ∨ r.a = none)) :
    peakAfter p e = e := by
  have hj : e.stop ≠ none ∨ judgedAir p e.comp = none := by
    refine h.imp_right fun h => ?_
    rcases h with hn | ⟨r, hr, hl | ha⟩
    · simp [judgedAir, hn]
    · simp [judgedAir, hr, hl]
    · simp [judgedAir, hr, ha]
  unfold peakAfter
  split
  · next a hs ha =>
    rcases hj with hj | hj
    · exact absurd hs hj
    · rw [hj] at ha; cases ha
  · rfl

end State

/-- Settles O24. -/
theorem overstayAndPeaksReachTheEpisodes : Obligations.OverstayAndPeaksReachTheEpisodes := by
  unfold Obligations.OverstayAndPeaksReachTheEpisodes
  constructor
  · intro c s z b hd hu hz ha hb hlt
    have hp : s.pastOpenLimit c = true := State.pastOpenLimit_iff.mpr ⟨hu, ha, z, b, hz, hb, hlt⟩
    rw [← State.overstay_eq hb]
    change execDoorOverstay c s = _
    rw [execDoorOverstay, if_pos hd, if_pos hp]
  · intro s p rest hp
    have ht : s.lineTake = { s with
        pubs := { s.pubs with line := rest }, lines := { s.lines with log := s.lines.log.map (State.peakAfter p) } } := by
      simp only [State.lineTake, hp]
    refine ⟨s.lineTake, rfl, by rw [ht], by rw [ht]; exact List.length_map _, fun i e he =>
      ⟨fun r a hopen hr hl ha => ?_, fun h => ?_⟩⟩
    · rw [ht, List.getElem?_map, he, Option.map_some, State.peakAfter_judged hopen hr hl ha]
      cases e.peak <;> simp
    · rw [ht, List.getElem?_map, he, Option.map_some, State.peakAfter_kept h]

end Sys2Proof.Machine

namespace Sys2Proof.Machine

/-! ### Recorder time (R26, R47, R130, R179, R180) -/

theorem exec_setTime {h : Header} {s : State} (hs : Taken .mode h s) (wall : BitVec 32) {o : Int}
    (ho : o = max (-2147483648) (min 2147483647 ((wall.toNat : Int) - (s.now : Int)))) :
    exec (.setTime h wall) s = .next (({ s with
        ctl := { s.ctl with wallOffset := some o }
        marks := s.marks ++ [.time s.ctl.wallOffset o] } : State).respond h
      (if o = (wall.toNat : Int) - (s.now : Int) then .ok else .clamped) (u32 s.now ++ i32 o)) := by
  rw [← clampInt_eq] at ho
  subst ho
  rw [← clampedIf_bne]
  exact next_take_taken hs _

namespace State

variable {s : State}

/-- Recorder time holds at its maximum, and where the backup domain is no longer kept (R179). -/
theorem advance_held (h : 4294967295 ≤ s.now ∨ (s.ctl.mainPower = false ∧ s.ctl.supplyFell = true)) : s.advance = s := by
  have hc : ((!s.ctl.mainPower && s.ctl.supplyFell) || decide (maxTime ≤ s.now)) = true := by
    rcases h with h | ⟨hm, hf⟩
    · simp [maxTime, h]
    · simp [hm, hf]
  rw [advance, if_pos hc]

/-- The test of a second that passes (R179). -/
theorem advance_not_held (hn : s.now < 4294967295) (hk : s.ctl.mainPower = true ∨ s.ctl.supplyFell = false) :
    ((!s.ctl.mainPower && s.ctl.supplyFell) || decide (maxTime ≤ s.now)) = false := by
  have hm : ¬ maxTime ≤ s.now := Nat.not_le.mpr hn
  rcases hk with hk | hk <;> simp [hk, hm]

/-- Where no lines are watched nothing waits on the second but recorder time itself. -/
theorem advance_unwatched (hn : s.now < 4294967295) (hk : s.ctl.mainPower = true ∨ s.ctl.supplyFell = false)
    (hw : s.linesWatched = false) : s.advance = { s with ctl := { s.ctl with time := s.now + 1 } } := by
  have hp : (s.powered && s.ctl.mode != .start) = false := by
    rw [linesWatched] at hw
    cases hs : s.powered <;> simp_all
  simp only [advance, advance_not_held hn hk, hw, hp, Bool.false_eq_true, if_false]

/-- What the second adds to a compartment's counter (R26). -/
def doorTick (s : State) (c : Fin 4) : BitVec 32 := if s.doorOpen c then 1#32 else 0#32

/-- A context with the expiries that the second brings marked, but not in START (R130, R144). -/
def expiryMarked (s : State) (c : Context) : Context :=
  match c.state with
  | .waiting e due => { c with state := .waiting e (due || (decide (e ≤ s.now + 1) && s.ctl.mode != .start)) }
  | .deciding .. => c

/-- The state of the next second, before what waits on time follows. -/
def nextSecond (s : State) : State := { s with ctl := { s.ctl with time := s.now + 1 } }

theorem powered_of_linesWatched (hw : s.linesWatched = true) : s.powered = true := (Bool.and_eq_true_iff.mp hw).1

theorem markExpiry_eq (hm : s.ctl.mode ≠ .start) (c : Context) : markExpiry (s.now + 1) c = s.expiryMarked c := by
  have hb : (s.ctl.mode != .start) = true := bne_iff_ne.mpr hm
  obtain ⟨slot, port, begin, previous, order, state⟩ := c
  cases state with
  | deciding r d => rfl
  | waiting e due =>
    simp only [markExpiry, expiryMarked, hb, Bool.and_true]
    by_cases he : e ≤ s.now + 1 <;> simp [he]

theorem expiryMarked_start (hm : s.ctl.mode = .start) (c : Context) : s.expiryMarked c = c := by
  obtain ⟨slot, port, begin, previous, order, state⟩ := c
  cases state with
  | deciding r d => rfl
  | waiting e due => simp [expiryMarked, hm]

/-- While lines are watched the counters, the monitor and, outside START, the contexts follow the second. -/
theorem advance_watched (hn : s.now < 4294967295) (hw : s.linesWatched = true) :
    s.advance = { s with
      ctl := { s.ctl with time := s.now + 1 }
      lines := { s.lines with counters := s.countDoors }
      mon := s.mon.mapIdx fun c m => { m with overstayDue := m.overstayDue || s.nextSecond.pastOpenLimit c }
      hand := { s.hand with contexts := s.hand.contexts.map s.expiryMarked } } := by
  have hp := powered_of_linesWatched hw
  have hmain : s.ctl.mainPower = true := (Bool.and_eq_true_iff.mp hp).1
  by_cases hm : s.ctl.mode = .start
  · have hc : s.hand.contexts.map s.expiryMarked = s.hand.contexts := by
      rw [funext (expiryMarked_start hm)]; exact List.map_id _
    rw [hc]
    simp only [advance, advance_not_held hn (.inl hmain), hw, hp, hm, bne_self_eq_false, Bool.and_false, Bool.false_eq_true, if_true,
      if_false]
    rfl
  · have hb : (s.powered && s.ctl.mode != .start) = true := by simp [hp, hm]
    rw [← funext (markExpiry_eq hm)]
    simp only [advance, advance_not_held hn (.inl hmain), hw, hb, Bool.false_eq_true, if_true, if_false]
    rfl

theorem countDoors_read (c : Fin 4) : s.countDoors.read c = s.lines.counters.read c + s.doorTick c := by
  rw [countDoors, Table.read_mapIdx, doorTick]
  split <;> simp

/-- The monitor's test of the next second (R47). -/
theorem nextSecond_pastOpenLimit_iff {c : Fin 4} :
    s.nextSecond.pastOpenLimit c = true ↔ s.inUse c = true ∧ (s.mon.read c).door = .allow ∧
      ∃ z b, s.zoneOf c = some z ∧ (s.mon.read c).openStart = some b ∧ (b : Int) + z.doorOpenLimit < (s.now : Int) + 1 :=
  pastOpenLimit_iff

/-- A compartment that the next second does not bring past its limit keeps its state. -/
theorem overstayDue_kept {c : Fin 4} (h : ¬ s.nextSecond.pastOpenLimit c = true) (m : Compartment) :
    { m with overstayDue := m.overstayDue || s.nextSecond.pastOpenLimit c } = m := by
  rw [Bool.eq_false_iff.mpr h, Bool.or_false]

end State

/-- Settles O51. -/
theorem timeIsSetAndRuns : Obligations.TimeIsSetAndRuns := by
  unfold Obligations.TimeIsSetAndRuns
  refine ⟨fun h wall s o hs ho => exec_setTime hs wall ho, fun s =>
    ⟨fun h => congrArg Host.Outcome.next (State.advance_held (.inl h)),
    fun hn hw hk => congrArg Host.Outcome.next (State.advance_unwatched hn hk hw),
    fun hm hf => congrArg Host.Outcome.next (State.advance_held (.inr ⟨hm, hf⟩)), fun hn hw => ?_⟩⟩
  refine ⟨_, congrArg Host.Outcome.next (State.advance_watched hn hw), rfl, fun c => State.countDoors_read c,
    fun c z b hu hz ha hb hlt => ?_, fun c z b hz hb hle => ?_, fun c h => ?_, ?_⟩
  · have hp := State.nextSecond_pastOpenLimit_iff.mpr ⟨hu, ha, z, b, hz, hb, hlt⟩
    simp only [Table.read_mapIdx, hp, Bool.or_true]
  · refine (Table.read_mapIdx _ _ c).trans (State.overstayDue_kept (fun hp => ?_) _)
    obtain ⟨-, -, z', b', hz', hb', hlt⟩ := State.nextSecond_pastOpenLimit_iff.mp hp
    cases hz.symm.trans hz'
    cases hb.symm.trans hb'
    omega
  · refine (Table.read_mapIdx _ _ c).trans (State.overstayDue_kept (fun hp => ?_) _)
    obtain ⟨hu, ha, z, b, hz, hb, -⟩ := State.nextSecond_pastOpenLimit_iff.mp hp
    rcases h with h | h | h | h
    · exact Bool.noConfusion (h.symm.trans hu)
    · cases h.symm.trans hz
    · exact h ha
    · cases h.symm.trans hb
  · refine List.map_congr_left fun c _ => ?_
    unfold State.expiryMarked
    cases c.state <;> rfl

end Sys2Proof.Machine

namespace Sys2Proof.Machine

/-! ### What a loss leaves (R33, R91, R103, R162, R170) -/

namespace State

variable (s : State)

/-- The operation cut short in the settings bank touches the receipt blocks and the bank's own progress (R134, R144, R183). -/
theorem cutBank_frame : s.cutBank = { s with
    hand := s.cutBank.hand
    bank := { s.bank with queue := [], busy := none, secondRewrite := false }
    freeCount := s.cutBank.freeCount } := by
  unfold cutBank
  dsimp only
  split <;> rfl

theorem cutBank_contexts : s.cutBank.hand.contexts = s.hand.contexts := by
  unfold cutBank
  dsimp only
  split <;> rfl

theorem cutBank_newest : s.cutBank.hand.newest = s.hand.newest := by
  unfold cutBank
  dsimp only
  split <;> rfl

/-- The program in flight in the history bank cut short: its slot reads as the cut leaves it (R162). -/
def programCut : State :=
  match s.hist.program with
  | some p => s.takeLeaves.2.fillSlot (.void (leavesOf s.takeLeaves.1 (s.programRecord p)))
  | none => s

/-- The erase in flight in the history bank cut short: what its sector holds is not known (R162). -/
def eraseCut : State :=
  match s.hist.eraseQueue.head? with
  | some i => s.modHist fun h => h.modSector i fun x => { x with touched := true }
  | none => s

/-- From `s` to `t` the history's sectors have moved, and free values were used. -/
def SectorsMoved (s t : State) : Prop :=
  t = { s with hist := { s.hist with sectors := t.hist.sectors }, freeCount := t.freeCount }

theorem SectorsMoved.trans {s t u : State} (h : SectorsMoved s t) (g : SectorsMoved t u) : SectorsMoved s u := by
  unfold SectorsMoved at *
  rw [g, h]

theorem sectorsMoved_fillSlot (x : Slot) : SectorsMoved s (s.fillSlot x) := by
  unfold fillSlot
  split <;> rfl

theorem sectorsMoved_programCut : SectorsMoved s s.programCut := by
  unfold programCut
  split
  · exact .trans (t := s.takeLeaves.2) rfl (sectorsMoved_fillSlot _ _)
  · rfl

theorem sectorsMoved_eraseCut : SectorsMoved s s.eraseCut := by
  unfold eraseCut
  split <;> rfl

/-- The cut of the history bank loses the queue and the operations in flight, and keeps the sequences and counts (R162). -/
theorem cutHistory_frame : s.cutHistory = { s with
    hist := { s.hist with sectors := s.cutHistory.hist.sectors, queue := [], program := none, secondErase := false }
    freeCount := s.cutHistory.freeCount } := by
  have hm : SectorsMoved s s.programCut.eraseCut := (sectorsMoved_programCut s).trans (sectorsMoved_eraseCut _)
  have hc : s.cutHistory =
      s.programCut.eraseCut.modHist fun h => { h with queue := [], program := none, secondErase := false } := rfl
  rw [hc, hm]
  rfl

/-- What a loss leaves of each block (R33, R170). -/
theorem loseAll_eq (second : Nat) : s.loseAll second = { s with
    fe := { s.fe with round := none, nextStart := none }
    pubs := noPublications
    lines := { s.lines with
      log := s.lines.log.map (fun e => if e.stop = none then { e with stop := some second, interrupted := true } else e)
      line := s.lines.line.mapIdx fun _ x => { x with candidate := none } }
    mon := s.mon.mapIdx fun _ m => { m with overstayDue := false }
    cons := s.cons.mapIdx fun _ x => x.map fun y => { y with loadMarkOutstanding := false }
    hand := s.cutBank.hand
    hist := { s.hist with
      sectors := s.cutBank.cutHistory.hist.sectors, queue := [], program := none, secondErase := false }
    bank := { s.bank with queue := [], busy := none, secondRewrite := false }
    ctl := { s.ctl with mode := .start, startRan := false, wakingCheck := false }
    ports := defaultEnables.map resetPort
    marks := []
    heldReads := []
    freeCount := s.cutBank.cutHistory.freeCount } := by
  have hb := s.cutBank_frame
  have hh := s.cutBank.cutHistory_frame
  unfold loseAll clearLoadMarks interruptEpisodes
  generalize s.cutBank.cutHistory = t at hh ⊢
  generalize s.cutBank = u at hb hh ⊢
  rw [hh, hb]

/-- A loss with the cause it stores. -/
def lostBy (mainPower resetInput : Bool) (lossSecond : Option Nat) (cause : StartCause) : State :=
  { s.loseAll s.now with ctl := { s.ctl with
      mode := .start
      lossSecond := lossSecond
      startCause := cause
      mainPower := mainPower
      resetInput := resetInput
      startRan := false
      wakingCheck := false } }

end State

/-- Main power failing, or the reset input asserted, on a part with main power (R166, R170). -/
theorem exec_loss {s : State} {i : Instr} {keeps : Bool} (hp : s.ctl.mainPower = true)
    (hi : i = .mainPowerFailure ∨ (i = .resetInputAsserted ∧ s.ctl.resetInput = false))
    (hk : keeps = true ↔ i = .resetInputAsserted ∧ s.ctl.mode = .start ∧ s.ctl.startCause = .power) :
    exec i s = .next (s.lostBy (i != .mainPowerFailure) (s.ctl.resetInput || i == .resetInputAsserted)
      (if keeps then s.ctl.lossSecond else some s.now) (if i = .mainPowerFailure ∨ keeps = true then .power else .reset)) := by
  rcases hi with rfl | ⟨rfl, hr⟩
  · have hf : keeps = false := Bool.eq_false_iff.mpr fun h => Instr.noConfusion (hk.mp h).1
    subst hf
    change execMainPowerFailure s = _
    unfold execMainPowerFailure State.powerFails State.lostBy
    simp [hp, State.loseAll_eq]
  · have hb : keeps = (s.ctl.mode == .start && s.ctl.startCause == .power) := by
      rw [Bool.eq_iff_iff, hk, Bool.and_eq_true, beq_iff_eq, beq_iff_eq]
      exact and_iff_right rfl
    change execResetInputAsserted s = _
    unfold execResetInputAsserted State.resetAsserted State.lostBy
    rw [← hb]
    simp [hp, hr, State.loseAll_eq]

/-- Settles O55: a loss is the one state for both events, up to the cause it stores. -/
theorem powerLossKeepsTheBackupDomain : Obligations.PowerLossKeepsTheBackupDomain := by
  unfold Obligations.PowerLossKeepsTheBackupDomain
  refine ⟨fun s => rfl, fun s i keeps hp hi hk => ⟨_, exec_loss hp hi hk, rfl, ?_⟩⟩
  rw [State.lostBy, State.loseAll_eq]
  exact ⟨rfl, rfl, rfl, rfl, fun l => Table.read_mapIdx _ _ l, fun j => Table.read_mapIdx _ _ j, rfl, rfl, rfl, rfl, rfl, rfl,
    rfl, rfl, rfl, rfl, rfl, rfl, rfl, rfl, s.cutBank_contexts, s.cutBank_newest, fun q => PerPort.at_map _ _ q⟩

end Sys2Proof.Machine

namespace Sys2Proof.Machine

/-! ### Line events at their consumers (R22, R24, R28, R29, R34, R46, R49, R50, R95, R173, R176, R178) -/

namespace State

variable (s : State)

/-- A line whose candidate has stood for the debounce time has its line event (R22). -/
theorem takeDebounced_due {s : State} {l : Fin 8} {k : Candidate} {instant : Nat} (hw : s.linesWatched = true)
    (hk : (s.lines.line.read l).candidate = some k) (hd : k.instant + 10 * (s.entry l).debounce ≤ instant) :
    s.takeDebounced l instant = s.lineTaken l k.active := by
  have hb : s.debounced l instant = some k := by rw [debounced, hk]; exact Option.filter_some_pos (by simpa using hd)
  simp only [takeDebounced, hw, hb, Bool.not_true, Bool.false_eq_true, if_false]

/-! The count of door-active lines. -/

theorem doorCount_eq_zero_iff (c : Fin 4) : s.doorCount c = 0 ↔ ∀ i, s.doorActive c i = false := by
  simp [doorCount, List.length_eq_zero_iff, List.filter_eq_nil_iff]

/-- A new debounced state of a line leaves the other lines of a compartment as they are. -/
theorem doorActive_putLine_other {l i : Fin 8} (h : i ≠ l) (c : Fin 4) (a : Bool) (k : Option Candidate) :
    (s.putLine l a k).doorActive c i = s.doorActive c i := by
  have hi : (s.putLine l a k).lines.line.read i = s.lines.line.read i := Table.read_modify_other _ _ h
  unfold doorActive lineActive
  rw [hi]
  rfl

/-- A DOOR line is door-active in its compartment exactly while its debounced state is active (R23). -/
theorem doorActive_door {s : State} {l : Fin 8} {c : Fin 4} (hk : (s.entry l).kind = .door) (hc : (s.entry l).comp = some c) :
    s.doorActive c l = (s.lines.line.read l).active := by
  simp [doorActive, lineActive, hk, hc]

theorem doorActive_putLine_same {s : State} {l : Fin 8} {c : Fin 4} (hk : (s.entry l).kind = .door)
    (hc : (s.entry l).comp = some c) (a : Bool) (k : Option Candidate) : (s.putLine l a k).doorActive c l = a := by
  rw [doorActive_door (s := s.putLine l a k) hk hc]
  exact congrArg Line.active (Table.read_modify_same _ _ _)

/-- A line that alone may be door-active decides whether the count is 0. -/
theorem doorCount_eq_zero_of_others {s : State} {l : Fin 8} {c : Fin 4} (ho : ∀ i, i ≠ l → s.doorActive c i = false) :
    s.doorCount c = 0 ↔ s.doorActive c l = false := by
  rw [doorCount_eq_zero_iff]
  refine ⟨fun h => h l, fun h i => ?_⟩
  by_cases hi : i = l
  · rw [hi]; exact h
  · exact ho i hi

/-! A door event by what it changes. -/

/-- The monitor's state of a compartment after its door-active count went from `was` to `count` (R46). -/
def countedComp (c : Fin 4) (was count second : Nat) (m : Compartment) : Compartment :=
  if s.inUse c = false then m
  else if was = 0 ∧ 0 < count then
    if m.door = .closed ∨ m.door = .recovery then { m with door := .allow, openStart := some second, recovery := none } else m
  else if 0 < was ∧ count = 0 then
    if m.door = .allow ∨ m.door = .overstay then
      { m with
        door := if (s.loadedRecovery c).isSome then .recovery else .closed
        openStart := none
        recovery := s.loadedRecovery c
        overstayDue := false }
    else m
  else m

theorem doorCounted_eq (c : Fin 4) (was count second : Nat) :
    s.doorCounted c was count second = { s with mon := s.mon.modify c (s.countedComp c was count second) } := by
  have hself : ∀ f : Compartment → Compartment, f (s.mon.read c) = s.mon.read c → s = { s with mon := s.mon.modify c f } :=
    fun f hf => by rw [Table.modify_eq_self _ _ _ hf]
  unfold doorCounted
  split
  · next hu => exact hself _ (if_pos (by simpa using hu))
  · next hu =>
    have hu : ¬ s.inUse c = false := by simpa using hu
    split
    · next ho =>
      unfold countedComp
      simp only [if_neg hu, if_pos ho]
      rfl
    · next ho =>
      split
      · next hz =>
        unfold countedComp
        simp only [if_neg hu, if_neg ho, if_pos hz]
        rfl
      · next hz => exact hself _ (by simp only [countedComp, if_neg hu, if_neg ho, if_neg hz])

/-- A door event taken, before the mode follows. -/
def doorTaken (l : Fin 8) (c : Fin 4) (active : Bool) (was : Nat) : State :=
  { s with
    lines := ((if active then s.openEpisode l c s.now else s.closeEpisode l s.now).setDoorFlag l).lines
    mon := s.mon.modify c (s.countedComp c was (s.doorCount c) s.now)
    cons := if active then (s.countOpening c).cons else s.cons
    ports := (s.setDoorFlag l).ports }

theorem doorEvent_eq (l : Fin 8) (c : Fin 4) (active : Bool) (was : Nat) :
    s.doorEvent l c active was =
      if (active && s.inUse c) = true then (s.doorTaken l c active was).rouse .door else s.doorTaken l c active was := by
  unfold doorEvent
  simp only [doorCounted_eq]
  cases active <;> rfl

/-- Only the first opening or the last closing in a compartment in use changes its door phase (R46). -/
theorem doorEvent_mon (l : Fin 8) (c : Fin 4) (active : Bool) (was : Nat) :
    (s.doorEvent l c active was).mon = s.mon.modify c (s.countedComp c was (s.doorCount c) s.now) := by
  rw [doorEvent_eq]
  split <;> [(rw [rouse_frame]; rfl); rfl]

theorem doorEvent_cons (l : Fin 8) (c : Fin 4) (active : Bool) (was : Nat) :
    (s.doorEvent l c active was).cons = if active then (s.countOpening c).cons else s.cons := by
  rw [doorEvent_eq]
  split <;> [(rw [rouse_frame]; rfl); rfl]

/-- The flag of one line in a set of door-change flags (R34). -/
theorem getLsbD_or_flag (f : BitVec 8) (l i : Fin 8) :
    (f ||| 1#8 <<< l.val).getLsbD i.val = (f.getLsbD i.val || decide (i = l)) := by
  have hb : ∀ l i : Fin 8, (1#8 <<< l.val).getLsbD i.val = decide (i = l) := by decide
  rw [BitVec.getLsbD_or, hb]

/-- A door event sets its line's door-change flag on every port, and no other (R34). -/
theorem doorEvent_flags (l i : Fin 8) (c : Fin 4) (active : Bool) (was : Nat) (q : Port) :
    ((s.doorEvent l c active was).lines.flags.at q).getLsbD i.val = ((s.lines.flags.at q).getLsbD i.val || decide (i = l)) := by
  have hf : (s.doorEvent l c active was).lines.flags = s.lines.flags.map fun f => f ||| 1#8 <<< l.val := by
    rw [doorEvent_lines]; cases active <;> rfl
  rw [hf, PerPort.at_map, getLsbD_or_flag]

theorem hasKind_rouse {s : State} {e : EventKind} {q : Port} (k : ModeCause)
    (h : hasKind (s.ports.at q).pending e = true) : hasKind ((s.rouse k).ports.at q).pending e = true := by
  unfold rouse wakeFrom
  split <;> [exact hasKind_raise_of _ _ _ _ h; (split <;> [exact hasKind_raise_of _ _ _ _ h; exact h])]

/-- DOOR becomes pending where it is enabled (R34). -/
theorem doorEvent_pending {q : Port} (h : hasKind (s.ports.at q).enable .door = true) (l : Fin 8) (c : Fin 4) (active : Bool)
    (was : Nat) : hasKind ((s.doorEvent l c active was).ports.at q).pending .door = true := by
  have hd : hasKind ((s.doorTaken l c active was).ports.at q).pending .door = true := by
    have hp : hasKind ((s.ports.at q).setPending .door).pending .door = true := by
      simpa only [raise_ports, PerPort.at_map] using hasKind_raise s .door q
    change hasKind ((s.ports.map fun u => if hasKind u.enable .door then u.setPending .door else u).at q).pending .door = true
    rw [PerPort.at_map, if_pos h]
    exact hp
  rw [doorEvent_eq]
  split <;> [exact hasKind_rouse _ hd; exact hd]

/-- A door event that ends no parking and no sleep. -/
theorem doorEvent_asleep {l : Fin 8} {c : Fin 4} {active : Bool}
    (h : active = false ∨ s.inUse c = false ∨ (s.ctl.mode ≠ .parked ∧ s.ctl.mode ≠ .dormant)) (was : Nat) :
    s.doorEvent l c active was = s.doorTaken l c active was := by
  rw [doorEvent_eq]
  rcases h with rfl | h | ⟨hp, hd⟩
  · rfl
  · rw [h, Bool.and_false]; rfl
  · rw [rouse_awake (s.doorTaken l c active was) .door hp hd]; exact ite_self _

theorem doorEvent_mode {c : Fin 4} (h : s.inUse c = true) (l : Fin 8) (was : Nat) :
    (s.doorEvent l c true was).ctl.mode =
      if s.ctl.mode = .parked then .service else if s.ctl.mode = .dormant then .waking else s.ctl.mode := by
  rw [doorEvent_eq, h, Bool.and_self, if_pos rfl, rouse_mode]
  rfl

/-- The first opening starts the ALLOW phase (R46). -/
theorem countedComp_opens {s : State} {c : Fin 4} {m : Compartment} {count : Nat} (hu : s.inUse c = true) (hn : count ≠ 0)
    (hm : m.door = .closed ∨ m.door = .recovery) (second : Nat) :
    s.countedComp c 0 count second m = { m with door := .allow, openStart := some second, recovery := none } := by
  rw [countedComp, if_neg (by simp [hu]), if_pos ⟨rfl, by omega⟩, if_pos hm]

/-- The last closing starts RECOVERY, or closes the phase where the zone has none (R46). -/
theorem countedComp_closes {s : State} {c : Fin 4} {m : Compartment} {z : Zone} {was : Nat} (hu : s.inUse c = true)
    (hz : s.zoneOf c = some z) (hw : was ≠ 0) (hm : m.door = .allow ∨ m.door = .overstay) (second : Nat) :
    s.countedComp c was 0 second m =
      if z.recovery ≤ 0 then { m with door := .closed, openStart := none, recovery := none, overstayDue := false }
      else { m with door := .recovery, openStart := none, recovery := some z.recovery.toNat, overstayDue := false } := by
  rw [countedComp, if_neg (by simp [hu]), if_neg (by omega), if_pos ⟨by omega, rfl⟩, if_pos hm]
  by_cases hr : z.recovery ≤ 0 <;> simp [loadedRecovery, hz, hr]

theorem countedComp_unused {s : State} {c : Fin 4} (hu : s.inUse c = false) (was count second : Nat) (m : Compartment) :
    s.countedComp c was count second m = m := if_pos hu

/-! A DOOR line event. -/

section door

variable {s : State} {l : Fin 8} {c : Fin 4}

theorem lineTaken_door (hk : (s.entry l).kind = .door) (hc : (s.entry l).comp = some c) (active : Bool) :
    s.lineTaken l active = (s.putLine l active none).doorEvent l c active (s.doorCount c) := by
  simp only [lineTaken, hk, hc]

/-- What a DOOR line event leaves alone (R22). -/
theorem lineTaken_door_frame (hk : (s.entry l).kind = .door) (hc : (s.entry l).comp = some c) (active : Bool) :
    s.lineTaken l active = { s with
      lines := (s.lineTaken l active).lines
      mon := (s.lineTaken l active).mon
      cons := (s.lineTaken l active).cons
      ports := (s.lineTaken l active).ports
      ctl := (s.lineTaken l active).ctl
      fe := (s.lineTaken l active).fe
      marks := (s.lineTaken l active).marks } := by
  rw [lineTaken_door hk hc, doorEvent_frame]
  rfl

/-- In a compartment that is not in use neither the phase nor the mode changes (R46, R176, R178). -/
theorem lineTaken_door_unused (hk : (s.entry l).kind = .door) (hc : (s.entry l).comp = some c) (active : Bool)
    (hu : s.inUse c = false) :
    (s.lineTaken l active).mon = s.mon ∧ (s.lineTaken l active).ctl = s.ctl ∧ (s.lineTaken l active).fe = s.fe ∧
      (s.lineTaken l active).marks = s.marks := by
  have hp : (s.putLine l active none).inUse c = false := hu
  rw [lineTaken_door hk hc, doorEvent_asleep _ (.inr (.inl hp))]
  exact ⟨Table.modify_eq_self _ _ _ (countedComp_unused hp _ _ _ _), rfl, rfl, rfl⟩

theorem lineTaken_door_mon (hk : (s.entry l).kind = .door) (hc : (s.entry l).comp = some c) (active : Bool) :
    (s.lineTaken l active).mon = s.mon.modify c
      ((s.putLine l active none).countedComp c (s.doorCount c) ((s.putLine l active none).doorCount c) s.now) := by
  rw [lineTaken_door hk hc, doorEvent_mon]
  rfl

/-- The first opening in a compartment in use (R46). -/
theorem lineTaken_door_opens (hk : (s.entry l).kind = .door) (hc : (s.entry l).comp = some c) (hu : s.inUse c = true)
    (hx : (s.lines.line.read l).active = false) (ho : ∀ i, i ≠ l → s.doorActive c i = false)
    (hm : (s.mon.read c).door = .closed ∨ (s.mon.read c).door = .recovery) :
    (s.lineTaken l true).mon.read c =
      { s.mon.read c with door := .allow, openStart := some s.now, recovery := none } := by
  have h0 : s.doorCount c = 0 := (doorCount_eq_zero_of_others ho).mpr ((doorActive_door hk hc).trans hx)
  have h1 : (s.putLine l true none).doorCount c ≠ 0 := fun h => by
    have := (doorCount_eq_zero_iff _ c).mp h l
    rw [doorActive_putLine_same hk hc] at this
    cases this
  rw [lineTaken_door_mon hk hc, Table.read_modify_same, h0]
  exact countedComp_opens (s := s.putLine l true none) hu h1 hm _

/-- The last closing in a compartment in use (R46). -/
theorem lineTaken_door_closes (hk : (s.entry l).kind = .door) (hc : (s.entry l).comp = some c) (hu : s.inUse c = true)
    (hx : (s.lines.line.read l).active = true) {z : Zone} (hz : s.zoneOf c = some z)
    (ho : ∀ i, i ≠ l → s.doorActive c i = false) (hm : (s.mon.read c).door = .allow ∨ (s.mon.read c).door = .overstay) :
    (s.lineTaken l false).mon.read c =
      if z.recovery ≤ 0 then { s.mon.read c with door := .closed, openStart := none, recovery := none, overstayDue := false }
      else { s.mon.read c with
        door := .recovery, openStart := none, recovery := some z.recovery.toNat, overstayDue := false } := by
  have h0 : s.doorCount c ≠ 0 := fun h => by
    have := (doorCount_eq_zero_iff _ c).mp h l
    rw [doorActive_door hk hc, hx] at this
    cases this
  have h1 : (s.putLine l false none).doorCount c = 0 :=
    (doorCount_eq_zero_of_others fun i hi => (doorActive_putLine_other s hi c _ _).trans (ho i hi)).mpr
      (doorActive_putLine_same hk hc _ _)
  rw [lineTaken_door_mon hk hc, Table.read_modify_same, h1]
  exact countedComp_closes (s := s.putLine l false none) hu hz h0 hm _

end door

/-! A changed defrost indication (R49). -/

section defrost

variable {s : State} {c : Fin 4}

theorem defrostChanged_kept {was : Bool} (h : s.inUse c = false ∨ s.defrostIndication c = was) :
    s.defrostChanged c was = s := by
  refine if_neg ?_
  rcases h with h | h <;> simp [h]

theorem defrostChanged_begins (hu : s.inUse c = true) (hi : s.defrostIndication c = true) :
    s.defrostChanged c false = s.setDefrost c .allow 0 := by
  simp [defrostChanged, hu, hi]

theorem defrostChanged_ends (hu : s.inUse c = true) (hi : s.defrostIndication c = false)
    (hn : (s.mon.read c).defrost ≠ .none) :
    s.defrostChanged c true = s.setDefrost c .none (s.mon.read c).elapsed := by
  simp [defrostChanged, hu, hi, hn]

/-- Where no phase stands, none ends. -/
theorem defrostChanged_none (hn : (s.mon.read c).defrost = .none) : s.defrostChanged c true = s := by
  simp [defrostChanged, hn]

/-- A changed defrost indication touches the phase and the elapsed count of its own compartment alone. -/
theorem defrostChanged_mon (s : State) (c : Fin 4) (was : Bool) : ∃ (phase : DefrostPhase) (elapsed : Nat),
    (s.defrostChanged c was).mon = s.mon.modify c fun m => { m with defrost := phase, elapsed := elapsed } := by
  have hself : s.mon = s.mon.modify c fun m =>
      { m with defrost := (s.mon.read c).defrost, elapsed := (s.mon.read c).elapsed } :=
    (Table.modify_eq_self _ _ _ rfl).symm
  unfold defrostChanged
  split
  · split
    · split <;> [exact ⟨_, _, hself⟩; exact ⟨_, _, rfl⟩]
    · exact ⟨_, _, rfl⟩
  · exact ⟨_, _, hself⟩

theorem defrostChanged_mon_other {d : Fin 4} (h : d ≠ c) (was : Bool) :
    (s.defrostChanged c was).mon.read d = s.mon.read d := by
  obtain ⟨phase, elapsed, hm⟩ := defrostChanged_mon s c was
  rw [hm, Table.read_modify_other _ _ h]

theorem defrostChanged_indication (was : Bool) : (s.defrostChanged c was).defrostIndication c = s.defrostIndication c := by
  obtain ⟨phase, elapsed, hm⟩ := defrostChanged_mon s c was
  refine defrostIndication_agree (by rw [defrostChanged_frame]) (by rw [defrostChanged_frame]) ?_
  rw [hm, Table.read_modify_same]

end defrost

/-! Changed unit-fault indications (R50). -/

theorem forComps_eq_foldl (f : Fin 4 → State → State) : s.forComps f = (List.finRange 4).foldl (fun t c => f c t) s := rfl

/-- The UNIT marks come in the order of the compartments (log 35). -/
theorem foldl_unitMark_marks (was : Fin 4 → Bool) (cs : List (Fin 4)) : ∀ s : State,
    (cs.foldl (fun t c => t.unitMark was c) s).marks = s.marks ++
      (cs.filter fun c => s.inUse c && was c != s.unitFault c).map fun c => .unit c .unitFault (s.unitFault c) 0 := by
  induction cs with
  | nil => exact fun s => (List.append_nil _).symm
  | cons c cs ih =>
    intro s
    have hu : (s.unitMark was c).unitFault = s.unitFault := by rw [unitMark_frame]; rfl
    have hi : (s.unitMark was c).inUse = s.inUse := by rw [unitMark_frame]; rfl
    rw [List.foldl_cons, ih, hu, hi, unitMark, requestIf_marks]
    by_cases h : (s.inUse c && was c != s.unitFault c) = true <;> simp [h]

theorem unitChanged_marks (was : Fin 4 → Bool) :
    (s.unitChanged was).marks = s.marks ++
      ((List.finRange 4).filter fun c => s.inUse c && was c != s.unitFault c).map fun c =>
        .unit c .unitFault (s.unitFault c) 0 := by
  rw [unitChanged, raiseIf_marks, forComps_eq_foldl, foldl_unitMark_marks]

theorem unitChanged_ports (was : Fin 4 → Bool) :
    (s.unitChanged was).ports =
      if ∃ c, s.inUse c = true ∧ s.unitFault c ≠ was c then (s.raise .unit).ports else s.ports := by
  have hm := forComps_marks s (fun c t => t.unitMark was c) fun c t => unitMark_frame t was c
  have hc : ((List.finRange 4).any fun c => s.inUse c && was c != s.unitFault c) = true ↔
      ∃ c, s.inUse c = true ∧ s.unitFault c ≠ was c := by
    simp only [List.any_eq_true, List.mem_finRange, true_and, Bool.and_eq_true, bne_iff_ne]
    exact exists_congr fun c => and_congr_right fun _ => ne_comm
  rw [unitChanged, raiseIf_ports]
  simp only [hc]
  rw [hm]
  rfl

/-! A changed park condition (R173, R176, R178). -/

theorem rouse_parkCondition (k : ModeCause) : (s.rouse k).parkCondition = s.parkCondition := by
  unfold rouse wakeFrom
  split <;> [rfl; (split <;> rfl)]

theorem parkChanged_parkCondition (was : Bool) : (s.parkChanged was).parkCondition = s.parkCondition := by
  unfold parkChanged
  split <;> [exact rouse_parkCondition s _; rfl]

theorem parkChanged_ends (h : s.parkCondition = false) : s.parkChanged true = s.rouse .parkEnded := by
  simp [parkChanged, h]

theorem parkChanged_kept {was : Bool}
    (h : was = false ∨ s.parkCondition = true ∨ (s.ctl.mode ≠ .parked ∧ s.ctl.mode ≠ .dormant)) :
    s.parkChanged was = s := by
  rcases h with rfl | h | ⟨hp, hd⟩
  · rfl
  · simp [parkChanged, h]
  · exact parkChanged_awake s was hp hd

/-- PARKED ends in SERVICE, DORMANT in WAKING (R176, R178). -/
theorem rouse_ends {s : State} {m : Mode} (h : s.ctl.mode = .parked ∧ m = .service ∨ s.ctl.mode = .dormant ∧ m = .waking)
    (k : ModeCause) : s.rouse k = s.enterMode m k := by
  rcases h with ⟨h, rfl⟩ | ⟨h, rfl⟩
  · simp [rouse, h]
  · simp [rouse, wakeFrom, h]

end State

/-- Settles O19: each kind of line by its own consumers. -/
theorem lineEventsReachTheirConsumers : Obligations.LineEventsReachTheirConsumers := by
  unfold Obligations.LineEventsReachTheirConsumers
  constructor
  · rintro l instant s x k c hw hkind hcomp rfl hcand hopp hdue
    have hexec : exec (.lineEvent l instant) s = .next (s.lineTaken l k.active) :=
      congrArg Host.Outcome.next (State.takeDebounced_due hw hcand hdue)
    have hdoor := State.lineTaken_door hkind hcomp k.active
    refine ⟨_, hexec, State.lineTaken_door_frame hkind hcomp _, (s.lineTaken_line l _).trans rfl, s.lineTaken_counters l _,
      fun q => ?_, fun q hq => ?_, fun d hd => ?_, State.lineTaken_door_unused hkind hcomp _, fun ha => ?_, fun ha => ?_⟩
    · rw [hdoor, State.doorEvent_flags, decide_eq_true rfl, Bool.or_true]
    · rw [hdoor]; exact State.doorEvent_pending (s.putLine l k.active none) hq _ _ _ _
    · rw [State.lineTaken_door_mon hkind hcomp, Table.read_modify_other _ _ hd]
    · have hx : (s.lines.line.read l).active = false := by simpa [ha] using hopp
      rw [ha] at hdoor ⊢
      refine ⟨?_, ?_, fun j => ?_, fun hu => ⟨State.lineTaken_door_opens hkind hcomp hu hx, ?_, fun hp hd => ?_⟩⟩
      · rw [hdoor, State.doorEvent_lines]; rfl
      · rw [hdoor, State.doorEvent_lines]; rfl
      · rw [hdoor, State.doorEvent_cons]; exact Table.read_mapIdx _ _ j
      · rw [hdoor]; exact State.doorEvent_mode (s.putLine l true none) hu _ _
      · rw [hdoor, State.doorEvent_asleep (s.putLine l true none) (.inr (.inr ⟨hp, hd⟩))]; exact ⟨rfl, rfl, rfl⟩
    · have hx : (s.lines.line.read l).active = true := by simpa [ha] using hopp
      rw [ha] at hdoor ⊢
      have ht : s.lineTaken l false = (s.putLine l false none).doorTaken l c false (s.doorCount c) :=
        hdoor.trans (State.doorEvent_asleep _ (.inl rfl) _)
      refine ⟨by rw [ht]; rfl, by rw [ht]; rfl, by rw [ht]; rfl, by rw [ht]; rfl, by rw [ht]; rfl, by rw [ht]; rfl, ?_⟩
      exact fun z hu hz => State.lineTaken_door_closes hkind hcomp hu hx hz
  · rintro l instant s x k lines hw rfl hcand hopp hdue rfl
    have hexec : exec (.lineEvent l instant) s = .next (s.lineTaken l k.active) :=
      congrArg Host.Outcome.next (State.takeDebounced_due hw hcand hdue)
    refine ⟨fun c hkind hcomp => ?_, fun hkind => ?_, fun hkind => ?_⟩
    · have ht : s.lineTaken l k.active = (s.putLine l k.active none).defrostChanged c (s.defrostIndication c) := by
        simp only [State.lineTaken, hkind, hcomp]
      rw [hexec, ht]
      refine ⟨_, rfl, by rw [State.defrostChanged_frame]; rfl, fun d hd => State.defrostChanged_mon_other hd _, ?_⟩
      rw [State.defrostChanged_indication]
      refine ⟨fun h => ?_, fun hu hs hi => ?_, fun hu hs hi => ?_⟩
      · rw [State.defrostChanged_kept h]
        exact ⟨rfl, rfl⟩
      · rw [hs, State.defrostChanged_begins (s := s.putLine l k.active none) hu hi]
        exact ⟨Table.read_modify_same _ _ _, rfl⟩
      · rw [hs]
        by_cases hn : (s.mon.read c).defrost = .none
        · rw [State.defrostChanged_none (s := s.putLine l k.active none) hn, if_pos hn, ← hn]
          exact ⟨rfl, (List.append_nil _).symm⟩
        · rw [State.defrostChanged_ends (s := s.putLine l k.active none) hu hi hn, if_neg hn]
          exact ⟨Table.read_modify_same _ _ _, rfl⟩
    · have ht : s.lineTaken l k.active = (s.putLine l k.active none).unitChanged s.unitFault := by
        simp only [State.lineTaken, hkind]
      rw [hexec, ht]
      have hfault : ((s.putLine l k.active none).unitChanged s.unitFault).unitFault = (s.putLine l k.active none).unitFault := by
        rw [State.unitChanged_frame]; rfl
      refine ⟨_, rfl, by rw [State.unitChanged_frame]; rfl, ?_⟩
      rw [hfault, State.unitChanged_marks, State.unitChanged_ports]
      refine ⟨rfl, fun h => if_neg ?_, fun h => if_pos h⟩
      rintro ⟨c, hu, hc⟩
      exact hc (h c hu)
    · have ht : s.lineTaken l k.active = (s.putLine l k.active none).parkChanged s.parkCondition := by
        simp only [State.lineTaken, hkind]
      rw [hexec, ht]
      refine ⟨_, rfl, by rw [State.parkChanged_frame]; rfl, ?_⟩
      rw [State.parkChanged_parkCondition]
      refine ⟨fun h => State.parkChanged_kept _ h, fun hs hp m hm => ?_⟩
      rw [hs, State.parkChanged_ends _ hp, State.rouse_ends (s := s.putLine l k.active none) hm]
      exact ⟨rfl, rfl, rfl, rfl, fun q => hasKind_raise _ _ q⟩

end Sys2Proof.Machine

namespace Sys2Proof.Machine

/-! ### Edits of the line table outside PARKED and DORMANT (R23, R28, R29, R34) -/

/-- A compartment's state but for its phases, which the line events drive. -/
def Compartment.unphased (m : Compartment) : Compartment :=
  { m with door := .closed, openStart := none, recovery := none, overstayDue := false, defrost := .none, elapsed := 0 }

namespace State

/-- The part is neither parked nor asleep, so that no line event changes the mode (R176, R178). -/
structure Awake (s : State) : Prop where
  parked : s.ctl.mode ≠ .parked
  dormant : s.ctl.mode ≠ .dormant

theorem awake_of_setup {s : State} (h : s.ctl.mode = .setup) : s.Awake := ⟨by simp [h], by simp [h]⟩

/-- From `s` to `t` lines were edited: the line table, the line unit but for its counters, the phases, the openings counted,
marks and events. -/
structure Relined (s t : State) : Prop where
  frame : t = { s with
    ctl := { s.ctl with working := { s.ctl.working with lines := t.ctl.working.lines } }
    lines := { t.lines with counters := s.lines.counters }
    mon := t.mon
    cons := t.cons
    marks := t.marks
    ports := t.ports }
  mon : ∀ c, (t.mon.read c).unphased = (s.mon.read c).unphased
  free : ∀ j, s.cons.read j = none → t.cons.read j = none
  responses : ∀ q, (t.ports.at q).responses = (s.ports.at q).responses

namespace Relined

variable {s t u : State}

theorem refl (s : State) : Relined s s := ⟨rfl, fun _ => rfl, fun _ h => h, fun _ => rfl⟩

theorem trans (h : Relined s t) (g : Relined t u) : Relined s u where
  frame := by
    have hf := g.frame
    rw [h.frame] at hf
    exact hf
  mon := fun c => (g.mon c).trans (h.mon c)
  free := fun j hj => g.free j (h.free j hj)
  responses := fun q => (g.responses q).trans (h.responses q)

theorem ite {p : Prop} [Decidable p] (h : Relined s t) (g : Relined s u) : Relined s (if p then t else u) := by
  split <;> assumption

theorem awake (h : Relined s t) (ha : s.Awake) : t.Awake := by
  have hm : t.ctl.mode = s.ctl.mode := by rw [h.frame]
  exact ⟨hm ▸ ha.parked, hm ▸ ha.dormant⟩

theorem forComps {f : Fin 4 → State → State} (hf : ∀ c t, Relined t (f c t)) (s : State) : Relined s (s.forComps f) :=
  (((hf 0 s).trans (hf 1 _)).trans (hf 2 _)).trans (hf 3 _)

theorem request (s : State) (m : Mark) : Relined s (s.request m) := ⟨rfl, fun _ => rfl, fun _ h => h, fun _ => rfl⟩

theorem raise (s : State) (e : EventKind) : Relined s (s.raise e) := ⟨rfl, fun _ => rfl, fun _ h => h, responses_raise s e⟩

/-- A change of the phases of one compartment. -/
theorem modComp (s : State) (c : Fin 4) {f : Compartment → Compartment} (hf : ∀ m, (f m).unphased = m.unphased) :
    Relined s (s.modComp c f) := by
  refine ⟨rfl, fun d => ?_, fun _ h => h, fun _ => rfl⟩
  rw [modComp_mon, Table.read_modify]
  split <;> [exact hf _; rfl]

theorem unphased_countedComp (s : State) (c : Fin 4) (was count second : Nat) (m : Compartment) :
    (s.countedComp c was count second m).unphased = m.unphased := by
  unfold countedComp
  split <;> [rfl; (split <;> [(split <;> rfl); (split <;> [(split <;> rfl); rfl])])]

theorem doorTaken (s : State) (l : Fin 8) (c : Fin 4) (active : Bool) (was : Nat) : Relined s (s.doorTaken l c active was) where
  frame := by cases active <;> rfl
  mon := (modComp s c (unphased_countedComp s c was (s.doorCount c) s.now)).mon
  free := by
    intro j hj
    cases active
    · exact hj
    · exact (Table.read_mapIdx _ _ _).trans (by rw [hj]; rfl)
  responses := by
    intro q
    change ((s.ports.map fun u => if hasKind u.enable .door then u.setPending .door else u).at q).responses = _
    rw [PerPort.at_map]
    split <;> rfl

theorem doorMoved (h : Relined s t) (ha : s.Awake) (l : Fin 8) (c : Option (Fin 4)) (active : Bool) (was : Fin 4 → Nat) :
    Relined s (t.doorMoved l c active was) := by
  unfold State.doorMoved
  split
  · next c =>
    rw [doorEvent_asleep t (.inr (.inr ⟨(h.awake ha).parked, (h.awake ha).dormant⟩))]
    exact h.trans (doorTaken t l c active _)
  · exact h

theorem defrostChanged (s : State) (c : Fin 4) (was : Bool) : Relined s (s.defrostChanged c was) := by
  have hset : ∀ phase n, Relined s (s.setDefrost c phase n) := fun phase n =>
    (modComp s c (f := fun m => { m with defrost := phase, elapsed := n }) fun _ => rfl).trans (request _ _)
  unfold State.defrostChanged
  exact .ite (.ite (.ite (refl s) (hset _ _)) (hset _ _)) (refl s)

theorem unitChanged (s : State) (was : Fin 4 → Bool) : Relined s (s.unitChanged was) := by
  have hmark : ∀ (c : Fin 4) (t : State), Relined t (t.unitMark was c) := fun c t => .ite (request t _) (refl t)
  exact (forComps hmark s).trans (.ite (raise _ _) (refl _))

end Relined

/-! An edit by its stages. -/

/-- The edited entry stored, and the line taken as its raw level stands under it (R23). -/
def entryStored (s : State) (l : Fin 8) (e : LineEntry) : State :=
  ({ s with ctl := { s.ctl with working := { s.ctl.working with lines := s.ctl.working.lines.write l e } } } : State).putLine l
    (sampled e (s.lines.line.read l)) none

/-- The door events of an edit taken: a closing in the compartment left, an opening in the one come to (R23). -/
def doorsMoved (s : State) (l : Fin 8) (e : LineEntry) : State :=
  let t := s.entryStored l e
  (t.doorMoved l ((s.doorActiveIn l).filter fun _ => t.doorActiveIn l != s.doorActiveIn l) false s.doorCount).doorMoved l
    ((t.doorActiveIn l).filter fun _ => t.doorActiveIn l != s.doorActiveIn l) true s.doorCount

theorem editLine_eq {s : State} {l : Fin 8} {e : LineEntry} (h : s.entry l ≠ e) :
    s.editLine l e = ((((s.doorsMoved l e).forComps fun c t => t.defrostChanged c (s.defrostIndication c)).unitChanged
      s.unitFault).parkChanged s.parkCondition) := if_neg h

theorem relined_entryStored (s : State) (l : Fin 8) (e : LineEntry) : Relined s (s.entryStored l e) :=
  ⟨rfl, fun _ => rfl, fun _ h => h, fun _ => rfl⟩

theorem relined_doorsMoved {s : State} (ha : s.Awake) (l : Fin 8) (e : LineEntry) : Relined s (s.doorsMoved l e) :=
  ((relined_entryStored s l e).doorMoved ha _ _ _ _).doorMoved ha _ _ _ _

theorem relined_editLine {s : State} (ha : s.Awake) (l : Fin 8) (e : LineEntry) : Relined s (s.editLine l e) := by
  by_cases h : s.entry l = e
  · rw [editLine, if_pos h]; exact .refl s
  · have hu := ((relined_doorsMoved ha l e).trans
      (.forComps (fun c t => .defrostChanged t c (s.defrostIndication c)) _)).trans (.unitChanged _ s.unitFault)
    rw [editLine_eq h, parkChanged_awake _ _ (hu.awake ha).parked (hu.awake ha).dormant]
    exact hu

end State
end Sys2Proof.Machine

namespace Sys2Proof.Machine

/-! ### What an edit of one line leaves of that line and of the others (R23) -/

/-- The open episodes of a full log are not removed to make room (R30). -/
theorem mem_makeRoom_iff {log : List Episode} {e : Episode} (h : e.stop = none) : e ∈ makeRoom log ↔ e ∈ log := by
  unfold makeRoom
  split
  · exact List.mem_eraseP_of_neg (by simp [h])
  · exact Iff.rfl

namespace State

/-- The log of episodes after a door event (R28, R29). -/
theorem doorEvent_log (s : State) (l : Fin 8) (c : Fin 4) (active : Bool) (was : Nat) :
    (s.doorEvent l c active was).lines.log =
      if active then makeRoom s.lines.log ++ [{
        number := s.lines.nextEpisode, line := l, comp := c, start := s.now, stop := none, peak := none,
        overstay := (s.mon.read c).door == .overstay, interrupted := false }]
      else s.lines.log.map fun e => if e.line = l ∧ e.stop = none then { e with stop := some s.now } else e := by
  rw [doorEvent_lines]; cases active <;> rfl

/-- A closing touches no open episode of another line. -/
theorem mem_closed_iff {log : List Episode} {e : Episode} {l : Fin 8} (second : Nat) (hl : e.line ≠ l) (he : e.stop = none) :
    (e ∈ log.map fun e => if e.line = l ∧ e.stop = none then { e with stop := some second } else e) ↔ e ∈ log := by
  rw [List.mem_map]
  constructor
  · rintro ⟨x, hx, rfl⟩
    split at he
    · cases he
    · next h => rw [if_neg h]; exact hx
  · exact fun h => ⟨e, h, if_neg fun h => hl h.1⟩

/-- From `s` to `t` the entry, the state, the flags and the open episodes of line `i` stand, in the same second. -/
structure LineKept (s t : State) (i : Fin 8) : Prop where
  now : t.now = s.now
  entry : t.entry i = s.entry i
  line : t.lines.line.read i = s.lines.line.read i
  flags : ∀ q, (t.lines.flags.at q).getLsbD i.val = (s.lines.flags.at q).getLsbD i.val
  log : ∀ e : Episode, e.line = i → e.stop = none → (e ∈ t.lines.log ↔ e ∈ s.lines.log)

/-- From `s` to `t` line `l` was given the entry `e`, and its doors followed (R23, R28, R29, R34). -/
structure LineRestored (s t : State) (e : LineEntry) (l : Fin 8) : Prop where
  now : t.now = s.now
  entry : t.entry l = e
  line : t.lines.line.read l = if s.entry l = e then s.lines.line.read l else
    { s.lines.line.read l with active := sampled e (s.lines.line.read l), candidate := none }
  flags : ∀ q, (t.lines.flags.at q).getLsbD l.val =
    ((s.lines.flags.at q).getLsbD l.val || decide (s.doorActiveIn l ≠ t.doorActiveIn l))
  opened : ∀ c, s.doorActiveIn l ≠ some c → t.doorActiveIn l = some c →
    ∃ x ∈ t.lines.log, x.line = l ∧ x.comp = c ∧ x.start = s.now ∧ x.stop = none
  closed : ∀ c, s.doorActiveIn l = some c → t.doorActiveIn l ≠ some c →
    ∀ x ∈ t.lines.log, x.line = l → x.stop = none → x.start = s.now ∧ t.doorActiveIn l = some x.comp

theorem doorActiveIn_agree {s t : State} {l : Fin 8} (he : t.entry l = s.entry l)
    (hl : t.lines.line.read l = s.lines.line.read l) : t.doorActiveIn l = s.doorActiveIn l := by
  unfold doorActiveIn lineActive
  rw [he, hl]

theorem LineKept.doorActiveIn {s t : State} {i : Fin 8} (h : LineKept s t i) : t.doorActiveIn i = s.doorActiveIn i :=
  doorActiveIn_agree h.entry h.line

theorem LineKept.refl (s : State) (i : Fin 8) : LineKept s s i := ⟨rfl, rfl, rfl, fun _ => rfl, fun _ _ _ => Iff.rfl⟩

theorem LineKept.trans {s t u : State} {i : Fin 8} (h : LineKept s t i) (g : LineKept t u i) : LineKept s u i :=
  ⟨g.now.trans h.now, g.entry.trans h.entry, g.line.trans h.line, fun q => (g.flags q).trans (h.flags q),
    fun e hl he => (g.log e hl he).trans (h.log e hl he)⟩

/-- What touches neither the line unit nor the line table. -/
theorem LineKept.of_agree {s t : State} (hl : t.lines = s.lines) (hw : t.ctl.working.lines = s.ctl.working.lines)
    (hn : t.now = s.now) (i : Fin 8) : LineKept s t i :=
  ⟨hn, by rw [State.entry, hw]; rfl, by rw [hl], fun q => by rw [hl], fun e _ _ => by rw [hl]⟩

theorem LineRestored.trans {s t u : State} {e : LineEntry} {l : Fin 8} (h : LineRestored s t e l) (g : LineKept t u l) :
    LineRestored s u e l where
  now := g.now.trans h.now
  entry := g.entry.trans h.entry
  line := g.line.trans h.line
  flags := fun q => by rw [g.flags q, h.flags q, g.doorActiveIn]
  opened := by
    intro c hs hu
    obtain ⟨x, hx, hl, hc, hn, he⟩ := h.opened c hs (g.doorActiveIn ▸ hu)
    exact ⟨x, (g.log x hl he).mpr hx, hl, hc, hn, he⟩
  closed := by
    intro c hs hu x hx hl he
    rw [g.doorActiveIn] at hu ⊢
    exact h.closed c hs hu x ((g.log x hl he).mp hx) hl he

theorem LineRestored.after {s t u : State} {e : LineEntry} {l : Fin 8} (h : LineKept s t l) (g : LineRestored t u e l) :
    LineRestored s u e l where
  now := g.now.trans h.now
  entry := g.entry
  line := by rw [g.line, h.entry, h.line]
  flags := fun q => by rw [g.flags q, h.flags q, h.doorActiveIn]
  opened := by
    intro c hs hu
    rw [← h.now]
    exact g.opened c (h.doorActiveIn ▸ hs) hu
  closed := by
    intro c hs
    rw [← h.now]
    exact g.closed c (h.doorActiveIn.trans hs)

/-- A line whose entry stands already. -/
theorem LineRestored.same (s : State) (l : Fin 8) : LineRestored s s (s.entry l) l where
  now := rfl
  entry := rfl
  line := (if_pos rfl).symm
  flags := fun q => by simp
  opened := fun c hs ht => absurd ht hs
  closed := fun c hs ht => absurd hs ht

section edit

variable {s t : State} (ha : s.Awake)
include ha

/-- A door event keeps every line's entry and state, and whatever the other lines have. -/
theorem lineKept_doorEvent {l i : Fin 8} (hi : i ≠ l) (c : Fin 4) (active : Bool) (was : Nat) :
    LineKept s (s.doorEvent l c active was) i where
  now := by rw [doorEvent_asleep s (.inr (.inr ⟨ha.parked, ha.dormant⟩))]; rfl
  entry := by rw [doorEvent_asleep s (.inr (.inr ⟨ha.parked, ha.dormant⟩))]; rfl
  line := by rw [doorEvent_line]
  flags := fun q => by rw [doorEvent_flags, decide_eq_false hi, Bool.or_false]
  log := by
    intro e hl he
    rw [doorEvent_log]
    cases active
    · exact mem_closed_iff _ (fun h => hi (hl.symm.trans h)) he
    · simp only [if_true, List.mem_append, List.mem_singleton, mem_makeRoom_iff he]
      refine or_iff_left fun h => hi ?_
      rw [← hl, h]

theorem lineKept_doorMoved {l i : Fin 8} (hi : i ≠ l) (c : Option (Fin 4)) (active : Bool) (was : Fin 4 → Nat) :
    LineKept s (s.doorMoved l c active was) i := by
  unfold doorMoved
  split <;> [exact lineKept_doorEvent ha hi _ _ _; exact .refl s i]

/-- The stages of an edit after its door events touch neither the line unit nor the line table. -/
theorem lineKept_of_doorsMoved {l : Fin 8} {e : LineEntry} (h : s.entry l ≠ e) (i : Fin 8) :
    LineKept (s.doorsMoved l e) (s.editLine l e) i := by
  have hdefrost : ∀ (c : Fin 4) (t : State), LineKept t (t.defrostChanged c (s.defrostIndication c)) i := fun c t =>
    .of_agree (by rw [defrostChanged_frame]) (by rw [defrostChanged_frame]) (by unfold State.now; rw [defrostChanged_frame]) i
  have hunit : ∀ t : State, LineKept t (t.unitChanged s.unitFault) i := fun t =>
    .of_agree (by rw [unitChanged_frame]) (by rw [unitChanged_frame]) (by unfold State.now; rw [unitChanged_frame]) i
  have hu := ((relined_doorsMoved ha l e).trans
    (.forComps (fun c t => .defrostChanged t c (s.defrostIndication c)) _)).trans (.unitChanged _ s.unitFault)
  rw [editLine_eq h, parkChanged_awake _ _ (hu.awake ha).parked (hu.awake ha).dormant]
  exact ((((hdefrost 0 _).trans (hdefrost 1 _)).trans (hdefrost 2 _)).trans (hdefrost 3 _)).trans (hunit _)

/-- An edit of one line keeps the others. -/
theorem lineKept_editLine {l i : Fin 8} (hi : i ≠ l) (e : LineEntry) : LineKept s (s.editLine l e) i := by
  by_cases h : s.entry l = e
  · rw [editLine, if_pos h]; exact .refl s i
  · have h1 : LineKept s (s.entryStored l e) i :=
      ⟨rfl, Table.read_write_other _ _ hi, Table.read_modify_other _ _ hi, fun _ => rfl, fun _ _ _ => Iff.rfl⟩
    have ha1 := (relined_entryStored s l e).awake ha
    have h3 : LineKept s (s.doorsMoved l e) i := (h1.trans (lineKept_doorMoved ha1 hi _ _ _)).trans
      (lineKept_doorMoved (((relined_entryStored s l e).doorMoved ha _ _ _ _).awake ha) hi _ _ _)
    exact h3.trans (lineKept_of_doorsMoved ha h i)

/-- The entry and the state of every line stand through a door event. -/
theorem doorMoved_kept (l i : Fin 8) (c : Option (Fin 4)) (active : Bool) (was : Fin 4 → Nat) :
    (s.doorMoved l c active was).now = s.now ∧ (s.doorMoved l c active was).entry i = s.entry i ∧
      (s.doorMoved l c active was).lines.line = s.lines.line := by
  unfold doorMoved
  split
  · rw [doorEvent_line, doorEvent_asleep s (.inr (.inr ⟨ha.parked, ha.dormant⟩))]
    exact ⟨rfl, rfl, rfl⟩
  · exact ⟨rfl, rfl, rfl⟩

end edit

/-- The flag of the line whose door moved (R34). -/
theorem doorMoved_flags (s : State) (l : Fin 8) (c : Option (Fin 4)) (active : Bool) (was : Fin 4 → Nat) (q : Port) :
    ((s.doorMoved l c active was).lines.flags.at q).getLsbD l.val = ((s.lines.flags.at q).getLsbD l.val || c.isSome) := by
  unfold doorMoved
  cases c
  · exact (Bool.or_false _).symm
  · exact (doorEvent_flags _ _ _ _ _ _ _).trans (by rw [decide_eq_true rfl]; rfl)

/-- A line's closing leaves none of its episodes open (R29). -/
theorem doorMoved_closed (s : State) (l : Fin 8) (c : Fin 4) (was : Fin 4 → Nat) :
    ∀ x ∈ (s.doorMoved l (some c) false was).lines.log, x.line = l → x.stop ≠ none := by
  intro x hx
  have hx : x ∈ s.lines.log.map fun e => if e.line = l ∧ e.stop = none then { e with stop := some s.now } else e := by
    simpa only [doorMoved, doorEvent_log, Bool.false_eq_true, if_false] using hx
  obtain ⟨y, -, rfl⟩ := List.mem_map.mp hx
  by_cases hy : y.line = l ∧ y.stop = none
  · rw [if_pos hy]
    exact fun _ => Option.some_ne_none _
  · rw [if_neg hy]
    exact fun h1 h2 => hy ⟨h1, h2⟩

/-- A line's opening opens an episode in its compartment (R28). -/
theorem doorMoved_opened (s : State) (l : Fin 8) (c : Fin 4) (was : Fin 4 → Nat) :
    ∃ x ∈ (s.doorMoved l (some c) true was).lines.log, x.line = l ∧ x.comp = c ∧ x.start = s.now ∧ x.stop = none := by
  simp only [doorMoved, doorEvent_log, if_true]
  exact ⟨_, List.mem_append_right _ (List.mem_singleton.mpr rfl), rfl, rfl, rfl, rfl⟩

/-- Where no episode of a line was open, one that is open after its door moved was opened by that. -/
theorem doorMoved_open {s : State} {l : Fin 8} (hs : ∀ x ∈ s.lines.log, x.line = l → x.stop ≠ none) (c : Option (Fin 4))
    (was : Fin 4 → Nat) :
    ∀ x ∈ (s.doorMoved l c true was).lines.log, x.line = l → x.stop = none → x.start = s.now ∧ c = some x.comp := by
  intro x hx hl he
  cases c with
  | none => exact absurd he (hs x hx hl)
  | some c =>
    simp only [doorMoved, doorEvent_log, if_true, List.mem_append, List.mem_singleton, mem_makeRoom_iff he] at hx
    rcases hx with hx | rfl
    · exact absurd he (hs x hx hl)
    · exact ⟨rfl, rfl⟩

/-- A line whose door-active state and compartment stand: no door event (R23). -/
theorem doorsMoved_same {s : State} {l : Fin 8} {e : LineEntry} (h : (s.entryStored l e).doorActiveIn l = s.doorActiveIn l) :
    s.doorsMoved l e = s.entryStored l e := by
  have hf : ∀ o : Option (Fin 4), (o.filter fun _ => (s.entryStored l e).doorActiveIn l != s.doorActiveIn l) = none := by
    intro o; rw [h, bne_self_eq_false]; cases o <;> rfl
  simp only [doorsMoved, hf]
  rfl

theorem doorsMoved_changed {s : State} {l : Fin 8} {e : LineEntry}
    (h : (s.entryStored l e).doorActiveIn l ≠ s.doorActiveIn l) :
    s.doorsMoved l e = ((s.entryStored l e).doorMoved l (s.doorActiveIn l) false s.doorCount).doorMoved l
      ((s.entryStored l e).doorActiveIn l) true s.doorCount := by
  have hf : ∀ o : Option (Fin 4), (o.filter fun _ => (s.entryStored l e).doorActiveIn l != s.doorActiveIn l) = o := by
    intro o; rw [bne_iff_ne.mpr h]; cases o <;> rfl
  simp only [doorsMoved, hf]

/-- An edited line follows its new entry. -/
theorem lineRestored_doorsMoved {s : State} (ha : s.Awake) {l : Fin 8} {e : LineEntry} (h : s.entry l ≠ e) :
    LineRestored s (s.doorsMoved l e) e l := by
  have hentry : (s.entryStored l e).entry l = e := Table.read_write_same _ _ _
  have hline : (s.entryStored l e).lines.line.read l =
      { s.lines.line.read l with active := sampled e (s.lines.line.read l), candidate := none } := Table.read_modify_same _ _ _
  have hif : (if s.entry l = e then s.lines.line.read l else
      { s.lines.line.read l with active := sampled e (s.lines.line.read l), candidate := none }) = _ := if_neg h
  by_cases hd : (s.entryStored l e).doorActiveIn l = s.doorActiveIn l
  · rw [doorsMoved_same hd]
    exact ⟨rfl, hentry, by rw [hif, hline], fun q => by rw [hd]; simp; rfl, fun c hs ht => absurd (hd ▸ ht) hs,
      fun c hs ht => absurd (hd.trans hs) ht⟩
  · have hr := (relined_entryStored s l e).doorMoved ha l (s.doorActiveIn l) false s.doorCount
    obtain ⟨hnow1, hentry1, hline1⟩ :=
      doorMoved_kept ((relined_entryStored s l e).awake ha) l l (s.doorActiveIn l) false s.doorCount
    obtain ⟨hnow2, hentry2, hline2⟩ := doorMoved_kept (hr.awake ha) l l ((s.entryStored l e).doorActiveIn l) true s.doorCount
    have hnew := doorActiveIn_agree (hentry2.trans hentry1) (by rw [hline2, hline1])
    rw [doorsMoved_changed hd]
    refine ⟨hnow2.trans hnow1, hentry2.trans (hentry1.trans hentry), by rw [hline2, hline1, hif, hline], fun q => ?_,
      fun c hs ht => ?_, fun c hs ht x hx hl he => ?_⟩
    · rw [hnew, doorMoved_flags, doorMoved_flags, decide_eq_true (Ne.symm hd), Bool.or_true, Bool.or_assoc]
      refine Bool.or_eq_true_iff.mpr (.inr ?_)
      revert hd
      cases s.doorActiveIn l <;> cases (s.entryStored l e).doorActiveIn l <;> simp
    · rw [hnew] at ht
      rw [ht, show s.now = _ from hnow1.symm]
      exact doorMoved_opened _ _ _ _
    · rw [hnew]
      rw [show s.now = _ from hnow1.symm]
      refine doorMoved_open ?_ _ _ x hx hl he
      rw [hs]
      exact doorMoved_closed _ _ _ _

theorem lineRestored_editLine {s : State} (ha : s.Awake) (l : Fin 8) (e : LineEntry) : LineRestored s (s.editLine l e) e l := by
  by_cases h : s.entry l = e
  · rw [editLine, if_pos h, ← h]
    exact .same s l
  · exact (lineRestored_doorsMoved ha h).trans (lineKept_of_doorsMoved ha h l)

/-! Edits of several lines, each to its entry of a table. -/

/-- The lines listed given their entries of a table. -/
def relinedTo (s : State) (d : Table LineEntry 8) (ls : List (Fin 8)) : State :=
  ls.foldl (fun t l => t.editLine l (d.read l)) s

theorem relined_relinedTo (d : Table LineEntry 8) (ls : List (Fin 8)) :
    ∀ {s : State}, s.Awake → Relined s (s.relinedTo d ls) := by
  induction ls with
  | nil => exact fun {s} _ => .refl s
  | cons l ls ih =>
    intro s ha
    have h := relined_editLine ha l (d.read l)
    exact h.trans (ih (h.awake ha))

/-- The lines that are not listed stand. -/
theorem lineKept_relinedTo (d : Table LineEntry 8) {i : Fin 8} (ls : List (Fin 8)) :
    ∀ {s : State}, s.Awake → i ∉ ls → LineKept s (s.relinedTo d ls) i := by
  induction ls with
  | nil => exact fun {s} _ _ => .refl s i
  | cons l ls ih =>
    intro s ha hi
    obtain ⟨hl, hls⟩ := not_or.mp (mt List.mem_cons.mpr hi)
    exact (lineKept_editLine ha hl (d.read l)).trans (ih ((relined_editLine ha l _).awake ha) hls)

/-- Each line listed has its entry, and its doors have followed: the edits before and after its own do not touch it. -/
theorem lineRestored_relinedTo (d : Table LineEntry 8) {i : Fin 8} (ls : List (Fin 8)) :
    ∀ {s : State}, s.Awake → i ∈ ls → ls.Nodup → LineRestored s (s.relinedTo d ls) (d.read i) i := by
  induction ls with
  | nil => exact fun _ h => absurd h List.not_mem_nil
  | cons l ls ih =>
    intro s ha hi hn
    obtain ⟨hl, hls⟩ := List.nodup_cons.mp hn
    have ha' := (relined_editLine ha l (d.read l)).awake ha
    by_cases h : i = l
    · subst h
      exact (lineRestored_editLine ha i _).trans (lineKept_relinedTo d ls ha' hl)
    · exact .after (lineKept_editLine ha h _) (ih ha' ((List.mem_cons.mp hi).resolve_left h) hls)

end State
end Sys2Proof.Machine

namespace Sys2Proof.Machine

/-! ### Edits of the whole configuration (R9, R42, R52) -/

namespace State

theorem mon_of_compView {s t : State} {d : Fin 4} (h : s.compView d = t.compView d) : s.mon.read d = t.mon.read d :=
  congrArg Prod.fst h

section comps

variable (s : State) (old : Table CompConfig 4)

theorem editFrame_applyComps : (s.applyAssignment old).EditFrame (s.applyComps old) :=
  EditFrame.forComps (fun c t => editFrame_applyUse t c _) _

theorem applyComps_eq :
    s.applyComps old = (s.applyAssignment old).forComps fun c t => t.applyUse (old.read c).inUse c := rfl

/-- What the edit leaves of one compartment is its own part of the edit, made on what stood of it. -/
theorem applyComps_view (d : Fin 4) :
    ∃ t, (s.applyAssignment old).EditFrame t ∧ t.mon.read d = s.mon.read d ∧
      (s.applyComps old).mon.read d = (t.applyUse (old.read d).inUse d).mon.read d := by
  obtain ⟨t, hf, hv, hu⟩ := forComps_at (V := fun t => t.compView d) (f := fun c t => t.applyUse (old.read c).inUse c) d
    (fun c h t => applyUse_view_other t c _ h) (fun c t => editFrame_applyUse t c _) (s.applyAssignment old)
  exact ⟨t, hf, mon_of_compView hv, mon_of_compView hu⟩

variable {s old} {t : State} {d : Fin 4}

theorem EditFrame.inUse_applied (h : (s.applyAssignment old).EditFrame t) : t.inUse d = s.inUse d := by
  rw [inUse, config, h.ctl]; rfl

theorem EditFrame.conflictNow_applied (h : (s.applyAssignment old).EditFrame t) (hm : t.mon.read d = s.mon.read d) :
    t.conflictNow d = s.conflictNow d :=
  conflictNow_agree (by rw [config, h.ctl]; rfl) (by rw [h.ctl]; rfl) (by rw [hm])

/-- A compartment whose use does not change has its conflict decided again, and nothing more. -/
theorem applyComps_kept (h : s.inUse d = (old.read d).inUse) :
    (s.applyComps old).mon.read d = { s.mon.read d with conflict := s.conflictNow d } := by
  obtain ⟨t, hf, hm, hu⟩ := applyComps_view s old d
  rw [hu, ← hf.conflictNow_applied hm, ← hm]
  exact congrArg Prod.fst (applyUse_view_kept t d (hf.inUse_applied.trans h))

/-- A compartment put into use (R42, R52). -/
theorem applyComps_started (h : s.inUse d = true) (ho : (old.read d).inUse = false) :
    (s.applyComps old).mon.read d = { s.startedComp d (s.mon.read d) with conflict := s.conflictNow d } := by
  obtain ⟨t, hf, hm, hu⟩ := applyComps_view s old d
  have hst := startedComp_agree (s := s) (t := t) (by rw [hf.lines]; rfl) (by rw [hf.ctl]; rfl) (by rw [now, hf.ctl]; rfl) hm
    (s.mon.read d)
  rw [hu, ho, ← hst, ← hf.conflictNow_applied hm, ← hm]
  exact congrArg Prod.fst (applyUse_view_started t d (hf.inUse_applied.trans h))

/-- A compartment taken out of use (R42, R52). -/
theorem applyComps_stopped (h : s.inUse d = false) (ho : (old.read d).inUse = true) :
    (s.applyComps old).mon.read d = { stoppedComp (s.mon.read d) with conflict := false } := by
  obtain ⟨t, hf, hm, hu⟩ := applyComps_view s old d
  rw [hu, ho, ← hm]
  exact congrArg Prod.fst (applyUse_view_stopped t d (hf.inUse_applied.trans h))

theorem conflictNow_unused (h : s.inUse d = false) : s.conflictNow d = false := by
  unfold conflictNow
  rw [h]
  split <;> rfl

/-- A compartment's state once its use has been followed; `was` is its use before (R42). -/
def usedComp (s : State) (was : Bool) (c : Fin 4) (m : Compartment) : Compartment :=
  if s.inUse c = true ∧ was = false then s.startedComp c m
  else if s.inUse c = false ∧ was = true then stoppedComp m
  else m

/-- Each compartment follows its use, and has its conflict decided afresh (R42, R52). -/
theorem applyComps_mon (s : State) (old : Table CompConfig 4) (c : Fin 4) :
    (s.applyComps old).mon.read c =
      { s.usedComp (old.read c).inUse c (s.mon.read c) with conflict := s.conflictNow c } := by
  unfold usedComp
  cases hs : s.inUse c <;> cases ho : (old.read c).inUse
  · exact applyComps_kept (hs.trans ho.symm)
  · rw [conflictNow_unused hs]; exact applyComps_stopped hs ho
  · exact applyComps_started hs ho
  · exact applyComps_kept (hs.trans ho.symm)

/-- What no change of use touches: what the partners reported. -/
theorem usedComp_reports (s : State) (was : Bool) (c : Fin 4) (m : Compartment) :
    (s.usedComp was c m).setpoint = m.setpoint ∧ (s.usedComp was c m).defrostReport = m.defrostReport ∧
      (s.usedComp was c m).unitReport = m.unitReport := by
  unfold usedComp
  split <;> [exact ⟨rfl, rfl, rfl⟩; (split <;> exact ⟨rfl, rfl, rfl⟩)]

theorem usedComp_agree {s t : State} {c : Fin 4} (hl : t.lines = s.lines) (hc : t.ctl = s.ctl)
    (hm : (t.mon.read c).defrostReport = (s.mon.read c).defrostReport) (was : Bool) (m : Compartment) :
    t.usedComp was c m = s.usedComp was c m := by
  have hw : t.ctl.working.lines = s.ctl.working.lines := by rw [hc]
  have hu : t.inUse c = s.inUse c := by rw [inUse, inUse, config, config, hc]
  have hs : t.startedComp c m = s.startedComp c m := by
    unfold startedComp
    rw [doorOpen_agree hl hw, defrostIndication_agree hl hw hm, now, now, hc]
  rw [usedComp, usedComp, hu, hs]

theorem conflictNow_iff (s : State) (d : Fin 4) :
    s.conflictNow d = true ↔ s.inUse d = true ∧ ∃ z v, s.zoneOf d = some z ∧ (s.mon.read d).setpoint = some v ∧
      z.nominal < v := by
  unfold conflictNow
  cases s.zoneOf d <;> cases (s.mon.read d).setpoint <;> simp

/-- A change of use occupies no free slot. -/
theorem applyUse_free {j : Fin 32} (s : State) (was : Bool) (c : Fin 4) (h : s.cons.read j = none) :
    (s.applyUse was c).cons.read j = none := by
  have hd : ∀ t : State, t.cons = s.cons → (t.decideConflict c false).cons.read j = none := by
    intro t ht
    simp only [decideConflict, requestIf_cons, raiseIf_cons]
    split
    · refine (Table.read_mapIdx _ _ j).trans ?_
      rw [modComp_cons, ht, h]; rfl
    · rw [modComp_cons, ht, h]
  refine hd _ ?_
  split
  · rw [startComp_cases]; split <;> [rfl; (split <;> rfl)]
  · split
    · rw [stopComp_cases]; split <;> rfl
    · rfl

theorem applyComps_free {j : Fin 32} (h : s.cons.read j = none) : (s.applyComps old).cons.read j = none := by
  rw [applyComps_eq]
  unfold forComps
  exact applyUse_free _ _ _ (applyUse_free _ _ _ (applyUse_free _ _ _ (applyUse_free _ _ _ h)))

theorem applyComps_responses (q : Port) : ((s.applyComps old).ports.at q).responses = (s.ports.at q).responses := by
  rw [applyComps_eq]
  unfold forComps
  rw [applyUse_responses, applyUse_responses, applyUse_responses, applyUse_responses]
  rfl

end comps

/-! ### The history store emptied (R164) -/

/-- From `s` to `t` the store has chosen, stalled or judged, outside START: no sector, no sequence and no count of unsent
records has changed, and a port for which no READ_HISTORY is held has been answered nothing. -/
structure StoreChose (s t : State) : Prop where
  frame : t = { s with
    hist := { t.hist with
      sectors := s.hist.sectors
      newest := s.hist.newest
      acked := s.hist.acked
      lostUnsent := s.hist.lostUnsent
      current := s.hist.current }
    ports := t.ports
    heldReads := t.heldReads }
  reads : ∀ r ∈ t.heldReads, r ∈ s.heldReads
  responses : ∀ q, (∀ r ∈ s.heldReads, r.port ≠ q) → (t.ports.at q).responses = (s.ports.at q).responses

namespace StoreChose

variable {s t u : State}

theorem refl (s : State) : StoreChose s s := ⟨rfl, fun _ h => h, fun _ _ => rfl⟩

theorem trans (h : StoreChose s t) (g : StoreChose t u) : StoreChose s u where
  frame := by
    have hf := g.frame
    rw [h.frame] at hf
    exact hf
  reads := fun r hr => h.reads r (g.reads r hr)
  responses := fun q hq => (g.responses q fun r hr => hq r (h.reads r hr)).trans (h.responses q hq)

theorem ite {p : Prop} [Decidable p] (h : StoreChose s t) (g : StoreChose s u) : StoreChose s (if p then t else u) := by
  split <;> assumption

/-- A change of the store's state beside its sectors and its sequences. -/
theorem modHist (s : State) {f : History → History} (hf : f s.hist = { f s.hist with
    sectors := s.hist.sectors
    newest := s.hist.newest
    acked := s.hist.acked
    lostUnsent := s.hist.lostUnsent
    current := s.hist.current } := by rfl) : StoreChose s (s.modHist f) :=
  ⟨congrArg (fun x => ({ s with hist := x } : State)) hf, fun _ h => h, fun _ _ => rfl⟩

theorem raise (s : State) (e : EventKind) : StoreChose s (s.raise e) := ⟨rfl, fun _ h => h, fun q _ => responses_raise s e q⟩

theorem createMark_stall (s : State) (a b : Nat) : StoreChose s (s.createMark (.stall a b)) := by
  have hd : ∀ t : State, t.markDropped (.stall a b) = t := fun _ => rfl
  unfold State.createMark
  rw [hd]
  exact .ite (modHist s) (.ite ((modHist s).trans (modHist _)) (modHist s))

theorem foldl_answerRead (rs : List HeldRead) {q : Port} : ∀ s : State, (∀ r ∈ rs, r.port ≠ q) →
    ((rs.foldl State.answerRead s).ports.at q).responses = (s.ports.at q).responses := by
  induction rs with
  | nil => exact fun _ _ => rfl
  | cons r rs ih =>
    intro s h
    have hr : q ≠ r.port := (h r List.mem_cons_self).symm
    rw [List.foldl_cons, ih _ fun x hx => h x (List.mem_cons_of_mem _ hx)]
    simp only [State.answerRead, State.reply_ports, PerPort.at_put_other _ _ hr]

theorem answerReads (s : State) : StoreChose s s.answerReads := by
  unfold State.answerReads
  split
  · exact .refl s
  · obtain ⟨hf, -⟩ := StoreMoves.answerReads_fold s.heldReads s
    have hq := fun q => foldl_answerRead s.heldReads (q := q) s
    generalize s.heldReads.foldl State.answerRead s = t at hf hq ⊢
    refine ⟨by rw [hf]; rfl, fun r hr => absurd hr List.not_mem_nil, fun q h => ?_⟩
    rw [← hq q h]
    simp [State.landed]

theorem stall (s : State) (hm : s.ctl.mode ≠ .start) : StoreChose s s.stall := by
  unfold State.stall
  have h1 : StoreChose s (s.modHist fun h => { h with next := none, stalled := true }) := modHist s
  have hown : ∀ (t : State) (a b : Nat), t.ctl.mode ≠ .start → StoreChose t (t.ownMark (.stall a b)) := fun t a b ht => by
    rw [State.ownMark, if_neg ht]
    exact createMark_stall t a b
  exact ((h1.trans (hown _ _ _ hm)).trans (raise _ _)).trans (answerReads _)

/-- While no sector is FULL a choice erases and retires none (R149). -/
theorem chooseNext (s : State) (hm : s.ctl.mode ≠ .start) (hf : ∀ i, (s.hist.sectors.read i).state ≠ .full) :
    StoreChose s s.chooseNext := by
  unfold State.chooseNext State.chooseFuel
  split
  · exact stall s hm
  · next i _ =>
    dsimp only
    rw [if_neg (hf i)]
    exact modHist s

theorem judgeUpload (s : State) : StoreChose s s.judgeUpload := by
  unfold State.judgeUpload
  exact .ite ((modHist s).trans (raise _ _)) (.ite (modHist s) (.refl s))

end StoreChose

/-- The store's own state as FACTORY_CLEAR empties it, before the next sector is chosen (R164). -/
def emptied (s : State) : State :=
  s.modHist fun h => { h with
    lostUnsent := min (h.lostUnsent + s.hist.unsent) maxTime
    acked := h.newest
    sectors := h.sectors.mapIdx fun _ x => if x.state = .writing ∨ x.state = .full then { x with state := .erasing } else x
    eraseQueue := s.clearQueue
    secondErase := if h.eraseQueue.isEmpty then false else h.secondErase
    current := none
    next := none
    program := none }

theorem emptied_state (s : State) (i : Fin 16) : (s.emptied.hist.sectors.read i).state =
    if (s.hist.sectors.read i).state = .writing ∨ (s.hist.sectors.read i).state = .full then .erasing
    else (s.hist.sectors.read i).state := by
  rw [emptied, modHist_hist, Table.read_mapIdx]
  split <;> rfl

/-- What the clear leaves: the emptied store after its choice, with the CLEARED mark requested (R164). -/
structure HistoryCleared (s t : State) : Prop where
  frame : t = { s with hist := t.hist, marks := t.marks, ports := t.ports, heldReads := t.heldReads }
  newest : t.hist.newest = s.hist.newest
  acked : t.hist.acked = s.hist.newest
  lostUnsent : t.hist.lostUnsent = min (s.hist.lostUnsent + (s.hist.newest - s.hist.acked)) 4294967295
  current : t.hist.current = none
  sectors : ∀ i, (t.hist.sectors.read i).state =
    if (s.hist.sectors.read i).state = .writing ∨ (s.hist.sectors.read i).state = .full then .erasing
    else (s.hist.sectors.read i).state
  mark : Mark.cleared (s.hist.sectors.indices fun _ x => x.state == .writing || x.state == .full).length
    (s.hist.newest - s.hist.acked) ∈ t.marks
  responses : ∀ q, (∀ r ∈ s.heldReads, r.port ≠ q) → (t.ports.at q).responses = (s.ports.at q).responses

theorem historyCleared (s : State) (hm : s.ctl.mode ≠ .start) : HistoryCleared s s.clearHistory := by
  have hfull : ∀ i, (s.emptied.hist.sectors.read i).state ≠ .full := fun i => by
    rw [emptied_state]
    split <;> [exact fun h => SectorState.noConfusion h; (next h => exact fun hf => h (.inr hf))]
  have hc := StoreChose.chooseNext s.emptied hm hfull
  have hj := StoreChose.judgeUpload (s.emptied.chooseNext.request (.cleared s.cleared.length s.hist.unsent))
  have he : s.clearHistory = (s.emptied.chooseNext.request (.cleared s.cleared.length s.hist.unsent)).judgeUpload := rfl
  rw [← he] at hj
  have hresponses := fun q hq => (hj.responses q fun r hr => hq r (hc.reads r hr)).trans (hc.responses q hq)
  generalize s.clearHistory = t at hj hresponses ⊢
  generalize s.emptied.chooseNext = u at hc hj
  have hsectors : t.hist.sectors = s.emptied.hist.sectors := by rw [hj.frame, hc.frame]; rfl
  refine ⟨by rw [hj.frame, hc.frame]; rfl, by rw [hj.frame, hc.frame]; rfl, by rw [hj.frame, hc.frame]; rfl,
    by rw [hj.frame, hc.frame]; rfl, by rw [hj.frame, hc.frame]; rfl, fun i => ?_, ?_, hresponses⟩
  · rw [hsectors, emptied_state]
  · rw [hj.frame]
    exact List.mem_append_right _ (List.mem_singleton.mpr rfl)

end State
end Sys2Proof.Machine

namespace Sys2Proof.Machine

/-! ### FACTORY_CLEAR (R39, R62, R164, R184) -/

namespace State

/-- The lines restored to their defaults (R39). -/
@[irreducible] def linesRestored (s : State) : State := s.relinedTo defaultLines (List.finRange 8)

/-- The working settings restored, before the compartments follow (R184). -/
def settingsRestored (s : State) : State := s.linesRestored.defaulted

/-- The compartments restored, before the history is emptied (R62). -/
def compsRestored (s : State) : State := s.settingsRestored.applyComps s.linesRestored.ctl.working.comps

theorem defaulted_lines (s : State) : s.defaulted.lines = s.lines := by unfold defaulted; rfl

theorem factoryClear_eq (s : State) : s.factoryClear = s.compsRestored.clearHistory := by
  unfold factoryClear compsRestored settingsRestored linesRestored relinedTo
  rfl

section restored

variable {s : State} (ha : s.Awake)
include ha

theorem relined_linesRestored : Relined s s.linesRestored := by
  unfold linesRestored
  exact relined_relinedTo _ _ ha

theorem lineRestored_linesRestored (l : Fin 8) : LineRestored s s.linesRestored (defaultLines.read l) l := by
  unfold linesRestored
  exact lineRestored_relinedTo _ _ ha (List.mem_finRange l) (List.nodup_finRange 8)

theorem linesRestored_working : s.linesRestored.ctl.working = { s.ctl.working with lines := defaultLines } := by
  have hl : s.linesRestored.ctl.working.lines = defaultLines :=
    Table.ext_read fun l => (lineRestored_linesRestored ha l).entry
  rw [(relined_linesRestored ha).frame, hl]

theorem settingsRestored_ctl : s.settingsRestored.ctl = { s.ctl with working := defaultsWith s.ctl.working.trims } := by
  unfold settingsRestored defaulted
  rw [linesRestored_working ha, (relined_linesRestored ha).frame]
  rfl

/-- What the restore of the settings leaves alone. -/
theorem compsRestored_frame : s.compsRestored = { s with
    ctl := { s.ctl with working := defaultsWith s.ctl.working.trims }
    lines := { s.linesRestored.lines with counters := s.lines.counters }
    fe := s.compsRestored.fe
    mon := s.compsRestored.mon
    cons := s.compsRestored.cons
    hist := { s.hist with intervals := s.compsRestored.hist.intervals }
    marks := s.compsRestored.marks
    ports := s.compsRestored.ports } := by
  have hf : EditFrame (s.settingsRestored.applyAssignment s.linesRestored.ctl.working.comps) s.compsRestored :=
    editFrame_applyComps _ _
  have hc : (s.settingsRestored.applyAssignment s.linesRestored.ctl.working.comps).ctl = _ := settingsRestored_ctl ha
  have hr := (relined_linesRestored ha).frame
  generalize s.compsRestored = u at hf ⊢
  rw [hf, applyAssignment, settingsRestored_ctl ha]
  unfold settingsRestored defaulted
  rw [hr]

theorem compsRestored_free {j : Fin 32} (h : s.cons.read j = none) : s.compsRestored.cons.read j = none :=
  applyComps_free ((relined_linesRestored ha).free j h)

theorem compsRestored_responses (q : Port) : (s.compsRestored.ports.at q).responses = (s.ports.at q).responses :=
  (applyComps_responses q).trans ((relined_linesRestored ha).responses q)

/-- The use of the compartments that stood before the restore. -/
theorem linesRestored_inUse (c : Fin 4) : (s.linesRestored.ctl.working.comps.read c).inUse = s.inUse c := by
  rw [linesRestored_working ha]; rfl

/-- A compartment's state but for its phases stands through the restore of the lines. -/
theorem settingsRestored_unphased (c : Fin 4) : (s.settingsRestored.mon.read c).unphased = (s.mon.read c).unphased :=
  (relined_linesRestored ha).mon c

end restored

/-- The history is emptied once the settings are restored (R164, R184). -/
theorem historyCleared_factoryClear {s : State} (ha : s.Awake) (hm : s.ctl.mode ≠ .start) :
    HistoryCleared s.compsRestored s.factoryClear := by
  rw [factoryClear_eq]
  exact historyCleared _ (by rw [compsRestored_frame ha]; exact hm)

/-- What FACTORY_CLEAR leaves alone. -/
theorem factoryClear_frame {s : State} (ha : s.Awake) (hm : s.ctl.mode ≠ .start) : s.factoryClear = { s with
    ctl := { s.ctl with working := defaultsWith s.ctl.working.trims }
    lines := { s.linesRestored.lines with counters := s.lines.counters }
    fe := s.compsRestored.fe
    mon := s.compsRestored.mon
    cons := s.compsRestored.cons
    hist := s.factoryClear.hist
    marks := s.factoryClear.marks
    ports := s.factoryClear.ports
    heldReads := s.factoryClear.heldReads } := by
  have hf := (historyCleared_factoryClear ha hm).frame
  have hu := compsRestored_frame ha
  generalize s.factoryClear = t at hf ⊢
  generalize s.compsRestored = u at hf hu ⊢
  rw [hf, hu]

theorem cons_none_of_occupied {s : State} (h : s.occupied = 0) (j : Fin 32) : s.cons.read j = none := by
  rw [occupied, Table.indices, List.length_eq_zero_iff, List.filter_eq_nil_iff] at h
  simpa using h j (List.mem_finRange j)

/-- From `s` to `t` the settings were restored: the lines in their compartments, then the compartments (R39, R62, R184). -/
structure DefaultsRestored (s t : State) : Prop where
  ctl : t.ctl = { s.ctl with working := defaultsWith s.ctl.working.trims }
  counters : t.lines.counters = s.lines.counters
  lines : ∀ l, LineRestored s t (t.entry l) l
  comps : ∀ c, ∃ m : Compartment, m.unphased = (s.mon.read c).unphased ∧
    t.mon.read c = { t.usedComp (s.inUse c) c m with conflict := t.conflictNow c }

/-- The restore seen in a state that has its settings, its lines and its compartments. -/
theorem DefaultsRestored.of_agree {s t : State} (ha : s.Awake)
    (hc : t.ctl = { s.ctl with working := defaultsWith s.ctl.working.trims })
    (hl : t.lines = { s.linesRestored.lines with counters := s.lines.counters }) (hm : t.mon = s.compsRestored.mon) :
    DefaultsRestored s t := by
  have hctl : t.ctl = s.settingsRestored.ctl := hc.trans (settingsRestored_ctl ha).symm
  have hlines : t.lines = s.linesRestored.lines := by
    have hr := (relined_linesRestored ha).frame
    generalize s.linesRestored = r at hl hr
    rw [hl, hr]
  have hsettings : t.lines = s.settingsRestored.lines := hlines.trans (defaulted_lines _).symm
  refine ⟨hc, by rw [hl], fun l => ?_, fun c => ⟨_, settingsRestored_unphased ha c, ?_⟩⟩
  · have hk : LineKept s.linesRestored t l := .of_agree hlines (by rw [hc, linesRestored_working ha]; rfl)
      (by rw [now, hc]; exact (lineRestored_linesRestored ha l).now.symm) l
    have hrestored := (lineRestored_linesRestored ha l).trans hk
    rw [hrestored.entry]
    exact hrestored
  · have hmon : t.mon.read c = { s.settingsRestored.usedComp (s.inUse c) c (s.settingsRestored.mon.read c) with
        conflict := s.settingsRestored.conflictNow c } := by
      rw [hm, compsRestored, applyComps_mon, linesRestored_inUse ha]
    obtain ⟨hset, hdefrost, -⟩ := s.settingsRestored.usedComp_reports (s.inUse c) c (s.settingsRestored.mon.read c)
    have hused := usedComp_agree hsettings hctl (by rw [hmon]; exact hdefrost) (s.inUse c) (s.settingsRestored.mon.read c)
    have hconflict : t.conflictNow c = s.settingsRestored.conflictNow c :=
      conflictNow_agree (by rw [config, config, hctl]) (by rw [hctl]) (by rw [hmon]; exact hset)
    rw [hused, hconflict]
    exact hmon

namespace DefaultsRestored

variable {s t : State} (h : DefaultsRestored s t)
include h

theorem started {c : Fin 4} (hs : s.inUse c = false) (ht : t.inUse c = true) :
    ∃ m, t.mon.read c = { t.startedComp c m with conflict := t.conflictNow c } := by
  obtain ⟨m, -, hm⟩ := h.comps c
  exact ⟨m, by rw [hm, usedComp, if_pos ⟨ht, hs⟩]⟩

theorem stopped {c : Fin 4} (hs : s.inUse c = true) (ht : t.inUse c = false) :
    ∃ m, t.mon.read c = { stoppedComp m with conflict := t.conflictNow c } := by
  obtain ⟨m, -, hm⟩ := h.comps c
  exact ⟨m, by rw [hm, usedComp, if_neg (by simp [ht]), if_pos ⟨ht, hs⟩]⟩

/-- One that stays in use, or out of it, keeps all but its phases and its conflict. -/
theorem kept {c : Fin 4} (hu : s.inUse c = t.inUse c) :
    ∃ m : Compartment, m.unphased = (s.mon.read c).unphased ∧ t.mon.read c = { m with conflict := t.conflictNow c } := by
  obtain ⟨m, hp, hm⟩ := h.comps c
  refine ⟨m, hp, ?_⟩
  rw [hm, usedComp, ← hu, if_neg (by simp), if_neg (by simp)]

theorem reports (c : Fin 4) : (t.mon.read c).setpoint = (s.mon.read c).setpoint ∧
    (t.mon.read c).defrostReport = (s.mon.read c).defrostReport ∧ (t.mon.read c).unitReport = (s.mon.read c).unitReport := by
  obtain ⟨m, hp, hm⟩ := h.comps c
  obtain ⟨hset, hdefrost, hunit⟩ := t.usedComp_reports (s.inUse c) c m
  rw [hm]
  exact ⟨hset.trans (congrArg Compartment.setpoint hp :), hdefrost.trans (congrArg Compartment.defrostReport hp :),
    hunit.trans (congrArg Compartment.unitReport hp :)⟩

theorem conflict_iff (c : Fin 4) : (t.mon.read c).conflict = true ↔ t.inUse c = true ∧
    ∃ z v, t.zoneOf c = some z ∧ (s.mon.read c).setpoint = some v ∧ z.nominal < v := by
  obtain ⟨m, -, hm⟩ := h.comps c
  rw [← (h.reports c).1, ← conflictNow_iff, hm]

end DefaultsRestored

end State

section factoryClear

variable {h : Header} {s : State}

theorem factoryClear_refused (hs : Editable h s) (hr : s.claimCount ≠ 0 ∨ s.occupied ≠ 0 ∨ s.hand.acked < s.hand.newest) :
    exec (.factoryClear h) s = .next (s.respond h .badState
      (flag (s.claimCount != 0) ++ flag (s.occupied != 0) ++ flag (decide (s.hand.acked < s.hand.newest)))) := by
  have hb : ((s.claimCount != 0 || s.occupied != 0) || decide (s.hand.acked < s.hand.newest)) = true := by
    simpa [or_assoc] using hr
  refine (next_take_taken hs.toTaken _).trans ?_
  simp only [hs.setup, hs.free, hb, ne_eq, not_true_eq_false, Option.isSome_none, Bool.false_eq_true, if_false, if_true]

theorem factoryClear_taken (hs : Editable h s) (hc : s.claimCount = 0) (ho : s.occupied = 0)
    (hn : s.hand.newest ≤ s.hand.acked) :
    exec (.factoryClear h) s = .next (s.factoryClear.respond h .ok []) := by
  refine (next_take_taken hs.toTaken _).trans ?_
  simp [hs.setup, hs.free, hc, ho, Nat.not_lt.mpr hn]

end factoryClear

/-- What FACTORY_CLEAR restores, seen with its answer. -/
theorem defaultsRestored_factoryClear {s : State} (ha : s.Awake) (hm : s.ctl.mode ≠ .start) (h : Header) :
    State.DefaultsRestored s (s.factoryClear.respond h .ok []) := by
  have hf := State.factoryClear_frame ha hm
  generalize s.factoryClear = t at hf ⊢
  exact .of_agree ha (by rw [State.respond_ctl, hf]) (by rw [State.respond_lines, hf]) (by rw [State.respond_mon, hf])

/-- Settles O54: the lines and the compartments by what their restore leaves, the history by what its clear leaves. -/
theorem factoryClearRestoresTheDefaults : Obligations.FactoryClearRestoresTheDefaults := by
  unfold Obligations.FactoryClearRestoresTheDefaults
  intro h s hs
  refine ⟨factoryClear_refused hs, fun hc ho hn => ⟨_, factoryClear_taken hs hc ho hn, ?_⟩⟩
  have ha := State.awake_of_setup hs.setup
  have hrestored := defaultsRestored_factoryClear ha hs.mode h
  have hframe := State.factoryClear_frame ha hs.mode
  have hhist := State.historyCleared_factoryClear ha hs.mode
  have hcomps := State.compsRestored_frame ha
  have hfree := fun j => State.compsRestored_free ha (State.cons_none_of_occupied ho j)
  have hresponses := State.compsRestored_responses ha h.port
  generalize s.factoryClear = t at hrestored hframe hhist ⊢
  generalize s.compsRestored = u at hframe hhist hcomps hfree hresponses
  have hcons : t.cons = u.cons := by rw [hframe]
  refine ⟨hrestored.ctl, by rw [State.respond_hand, hframe], by rw [State.respond_claims, hframe],
    by rw [State.respond_bank, hframe], hrestored.counters, fun j => by rw [State.respond_cons, hcons, hfree],
    hhist.newest.trans (by rw [hcomps]), hhist.acked.trans (by rw [hcomps]), hhist.lostUnsent.trans (by rw [hcomps]),
    hhist.current, fun i => (hhist.sectors i).trans (by rw [hcomps]), ?_, fun hr => ?_, fun l => ?_, fun l => ?_, fun l => ?_,
    fun l => ?_, ?_, ?_, ?_, fun c => ?_⟩
  · have hmark := hhist.mark
    rw [hcomps] at hmark
    exact hmark
  · rw [responses_respond, hhist.responses h.port (by rw [hcomps]; exact hr), hresponses]
  · exact (hrestored.lines l).line
  · exact (hrestored.lines l).flags
  · exact (hrestored.lines l).opened
  · exact (hrestored.lines l).closed
  · rintro c m rfl hs ht
    obtain ⟨m, hm⟩ := hrestored.started hs ht
    rw [hm]
    exact ⟨rfl, by rw [State.startedComp, State.now, hrestored.ctl]; rfl, rfl, rfl, fun hd => if_pos hd, rfl, rfl, rfl, rfl⟩
  · rintro c m rfl hs ht
    obtain ⟨m, hm⟩ := hrestored.stopped hs ht
    rw [hm]
    exact ⟨rfl, rfl, rfl, rfl, rfl, rfl⟩
  · intro c hu
    obtain ⟨m, hp, hm⟩ := hrestored.kept hu
    rw [hm]
    exact ⟨(congrArg Compartment.excursion hp :), (congrArg Compartment.pending hp :), (congrArg Compartment.estimate hp :),
      (congrArg Compartment.startDue hp :)⟩
  · obtain ⟨hset, hdefrost, hunit⟩ := hrestored.reports c
    exact ⟨hset, hdefrost, hunit, hrestored.conflict_iff c⟩

end Sys2Proof.Machine

namespace Sys2Proof

/-- The later of two writes to one entry stands. -/
theorem Table.write_write {α : Type} {n : Nat} (t : Table α n) (i : Fin n) (a b : α) :
    (t.write i a).write i b = t.write i b :=
  Vector.set_set _ _

theorem Table.modify_modify {α : Type} {n : Nat} (t : Table α n) (i : Fin n) (f g : α → α) :
    (t.modify i f).modify i g = t.modify i fun a => g (f a) := by
  simp only [Table.modify, Table.read_write_same, Table.write_write]

end Sys2Proof

namespace Sys2Proof.Machine

/-! ## Zones and the compartment monitor (file 03) -/

/-! ### The refrigeration unit's reports (R49 to R51) -/

namespace State

/-- The state with a compartment's defrost report set, before its phase follows (R51). -/
def defrostReported (s : State) (c : Fin 4) (on : Bool) : State := s.modComp c fun m => { m with defrostReport := on }

/-- The state with a compartment's unit report set, before its mark and event follow (R51). -/
def unitReported (s : State) (c : Fin 4) (on : Bool) : State := s.modComp c fun m => { m with unitReport := on }

variable {s : State} {c : Fin 4} {on : Bool}

theorem defrostReported_mon : (s.defrostReported c on).mon.read c = { s.mon.read c with defrostReport := on } :=
  Table.read_modify_same _ _ _

theorem defrostReported_indication : (s.defrostReported c on).defrostIndication c = (s.defrostLine c || on) := by
  rw [defrostIndication, defrostReported_mon]; rfl

/-- A report whose indication starts or ends a defrost (R49). -/
theorem setDefrost_defrostReported (phase : DefrostPhase) (elapsed : Nat) :
    (s.defrostReported c on).setDefrost c phase elapsed = { s with
      mon := s.mon.write c { s.mon.read c with defrostReport := on, defrost := phase, elapsed := elapsed }
      marks := s.marks ++ [.defrost c phase elapsed] } := by
  have hm : ((s.defrostReported c on).setDefrost c phase elapsed).mon = s.mon.write c
      { s.mon.read c with defrostReport := on, defrost := phase, elapsed := elapsed } := by
    simp only [setDefrost, defrostReported, request_mon, modComp_mon, Table.modify_modify]
    rfl
  rw [setDefrost_frame, hm]
  rfl

/-- A report that takes a defrost indication away ends the phase that stands (R49). -/
theorem defrostChanged_defrostReported_ends (hu : s.inUse c = true) (hl : s.defrostLine c = false) :
    (s.defrostReported c false).defrostChanged c true = { s with
      mon := s.mon.write c { s.mon.read c with defrostReport := false, defrost := .none }
      marks := s.marks ++ if (s.mon.read c).defrost = .none then [] else [.defrost c .none (s.mon.read c).elapsed] } := by
  have hi : (s.defrostReported c false).defrostIndication c = false := by rw [defrostReported_indication, hl]; rfl
  have hm : (s.defrostReported c false).mon.read c = _ := defrostReported_mon
  by_cases hn : (s.mon.read c).defrost = .none
  · rw [defrostChanged_none (by rw [hm]; exact hn), if_pos hn, List.append_nil, ← hn]
    rfl
  · rw [defrostChanged_ends (s := s.defrostReported c false) hu hi (by rw [hm]; exact hn), hm, setDefrost_defrostReported,
      if_neg hn]

theorem unitReported_fault_same : (s.unitReported c on).unitFault c = (s.unitLine || on) := by
  rw [unitFault, unitReported, modComp_mon, Table.read_modify_same]; rfl

theorem unitReported_fault_other {d : Fin 4} (h : d ≠ c) : (s.unitReported c on).unitFault d = s.unitFault d := by
  rw [unitFault, unitReported, modComp_mon, Table.read_modify_other _ _ h]; rfl

/-- A unit report changes at most the indication of its own compartment (R50). -/
theorem unitReported_changed (d : Fin 4) :
    ((s.unitReported c on).inUse d = true ∧ (s.unitReported c on).unitFault d ≠ s.unitFault d) ↔
      d = c ∧ s.inUse c = true ∧ (s.unitLine || on) ≠ s.unitFault c := by
  by_cases h : d = c
  · subst h
    rw [unitReported_fault_same, eq_self, true_and]
    rfl
  · simp [unitReported_fault_other h, h]

/-- A unit report that changes the indication of a compartment in use has its mark and its event (R50). -/
theorem unitChanged_unitReported (hu : s.inUse c = true) (hf : (s.unitLine || on) ≠ s.unitFault c) :
    (s.unitReported c on).unitChanged s.unitFault = { s with
      mon := s.mon.write c { s.mon.read c with unitReport := on }
      marks := s.marks ++ [.unit c .unitFault (s.unitLine || on) 0]
      ports := (s.raise .unit).ports } := by
  have hone : ((List.finRange 4).filter fun d =>
      (s.unitReported c on).inUse d && s.unitFault d != (s.unitReported c on).unitFault d) = [c] := by
    have hp : (fun d => (s.unitReported c on).inUse d && s.unitFault d != (s.unitReported c on).unitFault d) =
        fun d => decide (d = c) := by
      funext d
      rw [Bool.eq_iff_iff, Bool.and_eq_true, bne_iff_ne, ne_comm, unitReported_changed, decide_eq_true_iff]
      exact and_iff_left ⟨hu, hf⟩
    have hc : ∀ c : Fin 4, ((List.finRange 4).filter fun d => decide (d = c)) = [c] := by decide
    rw [hp, hc]
  have hports : ∃ d, (s.unitReported c on).inUse d = true ∧ (s.unitReported c on).unitFault d ≠ s.unitFault d :=
    ⟨c, (unitReported_changed c).mpr ⟨rfl, hu, hf⟩⟩
  rw [unitChanged_frame, unitChanged_marks, unitChanged_ports, if_pos hports, hone, List.map_singleton,
    unitReported_fault_same]
  rfl

/-- A unit report that changes no indication of a compartment in use has no mark and no event. -/
theorem unitChanged_unitReported_kept (h : s.inUse c = false ∨ (s.unitLine || on) = s.unitFault c) :
    (s.unitReported c on).unitChanged s.unitFault = s.unitReported c on := by
  have hnone : ∀ d, ¬ ((s.unitReported c on).inUse d = true ∧ (s.unitReported c on).unitFault d ≠ s.unitFault d) := by
    intro d
    rw [unitReported_changed]
    rintro ⟨-, hu, hf⟩
    rcases h with h | h
    · rw [hu] at h; cases h
    · exact hf h
  have hempty : ((List.finRange 4).filter fun d =>
      (s.unitReported c on).inUse d && s.unitFault d != (s.unitReported c on).unitFault d) = [] := by
    refine List.filter_eq_nil_iff.mpr fun d _ => ?_
    rw [Bool.and_eq_true, bne_iff_ne, ne_comm]
    exact hnone d
  rw [unitChanged_frame, unitChanged_marks, unitChanged_ports, if_neg (not_exists.mpr hnone), hempty, List.map_nil,
    List.append_nil]

end State

section reports

variable {h : Header} {comp report : Byte} {s : State} {c : Fin 4} {on : Bool}

theorem reportDefrost_taken (hs : Taken .unitReport h s) (hc : comp.toNat = c.val) (hr : yesNo report = some on) {t : State}
    (ht : (s.defrostReported c on).defrostChanged c (s.defrostIndication c) = t) :
    exec (.reportDefrost h comp report) s = .next (t.respond h .ok
      (u8 c.val ++ flag on ++ flag (s.defrostLine c || on) ++ u8 (t.mon.read c).defrost.code)) := by
  refine (next_take_taken hs _).trans ?_
  subst ht
  rw [← State.defrostReported_indication,
    ← State.defrostChanged_indication (s := s.defrostReported c on) (s.defrostIndication c)]
  simp only [index_of_val hc, hr]
  rfl

theorem reportUnit_taken (hs : Taken .unitReport h s) (hc : comp.toNat = c.val) (hr : yesNo report = some on) {t : State}
    (ht : (s.unitReported c on).unitChanged s.unitFault = t) :
    exec (.reportUnit h comp report) s = .next (t.respond h .ok
      (u8 c.val ++ flag on ++ flag (s.unitLine || on) ++ flag (s.unitLine || on))) := by
  have hf : t.unitFault c = (s.unitLine || on) := by
    rw [← ht, State.unitChanged_frame, ← State.unitReported_fault_same]; rfl
  refine (next_take_taken hs _).trans ?_
  rw [← hf, ← ht]
  simp only [index_of_val hc, hr]
  rfl

/-- Settles O22. -/
theorem refrigerationReportsDriveTheIndications : Obligations.RefrigerationReportsDriveTheIndications := by
  unfold Obligations.RefrigerationReportsDriveTheIndications
  rintro h comp report s c on m hs hc hr rfl
  have hdefrost {t : State} := reportDefrost_taken (t := t) hs hc hr
  have hunit {t : State} := reportUnit_taken (t := t) hs hc hr
  have hind : (s.defrostReported c on).defrostIndication c = (s.defrostLine c || on) := State.defrostReported_indication
  refine ⟨fun hu hi ho => ?_, fun hu hi hl ho => ?_, fun hk => ?_, fun hu hf => ?_, fun hk => ?_⟩
  · subst ho
    rw [Bool.or_true] at hind hdefrost
    rw [hi, State.defrostChanged_begins (s := s.defrostReported c true) hu hind, State.setDefrost_defrostReported] at hdefrost
    rw [hdefrost rfl, Table.read_write_same]
    rfl
  · subst ho
    have ht := State.defrostChanged_defrostReported_ends hu hl
    rw [← hi] at ht
    rw [hdefrost ht, hl, Table.read_write_same]
    rfl
  · rw [hdefrost (State.defrostChanged_kept (hk.imp_right hind.trans)), State.defrostReported_mon]
    rfl
  · exact hunit (State.unitChanged_unitReported hu hf)
  · exact hunit (State.unitChanged_unitReported_kept hk)

end reports

end Sys2Proof.Machine

namespace Sys2Proof.Machine

/-! ### REPORT_SETPOINT (R52 to R54) -/

namespace State

variable {s : State} {c : Fin 4} {z : Zone} {v : Int}

/-- Whether the decision of SETPOINT_CONFLICT makes it rise (R52). -/
def conflictRises (s : State) (c : Fin 4) : Bool := !(s.mon.read c).conflict && s.conflictNow c

/-- What a decision of SETPOINT_CONFLICT changes (R52, R54). -/
theorem decideConflict_eq (s : State) (c : Fin 4) (changed : Bool) : s.decideConflict c changed = { s with
    mon := s.mon.modify c fun m => { m with conflict := s.conflictNow c }
    cons := if s.conflictRises c then (s.flagConflict c).cons else s.cons
    marks := if changed || (s.mon.read c).conflict != s.conflictNow c then
      s.marks ++ [.setpoint c (s.mon.read c).setpoint (s.conflictNow c)] else s.marks
    ports := if s.conflictRises c then (s.raise .unit).ports else s.ports } := by
  unfold decideConflict conflictRises
  dsimp only
  cases !(s.mon.read c).conflict && s.conflictNow c <;>
    cases changed || (s.mon.read c).conflict != s.conflictNow c <;> rfl

/-- The state with a compartment's setpoint stored, before its conflict is decided (R53). -/
def setpointStored (s : State) (c : Fin 4) (v : Int) : State := s.modComp c fun m => { m with setpoint := some v }

theorem setpointStored_mon : (s.setpointStored c v).mon.read c = { s.mon.read c with setpoint := some v } :=
  Table.read_modify_same _ _ _

theorem setpointStored_conflictNow (hu : s.inUse c = true) (hz : s.zoneOf c = some z) :
    (s.setpointStored c v).conflictNow c = decide (z.nominal < v) := by
  have hz' : (s.setpointStored c v).zoneOf c = some z := hz
  have hu' : (s.setpointStored c v).inUse c = true := hu
  simp only [conflictNow, hz', setpointStored_mon, hu', Bool.true_and]

/-- A setpoint stored in a compartment in use with a zone, and its conflict decided (R52 to R54). -/
theorem decideConflict_setpointStored (hu : s.inUse c = true) (hz : s.zoneOf c = some z) {rise : Bool}
    (hr : rise = (!(s.mon.read c).conflict && decide (z.nominal < v))) :
    (s.setpointStored c v).decideConflict c ((s.mon.read c).setpoint != some v) = { s with
      mon := s.mon.write c { s.mon.read c with setpoint := some v, conflict := decide (z.nominal < v) }
      cons := s.cons.mapIdx fun _ x => x.map fun y =>
        if rise ∧ y.inCustody = true ∧ y.comp = c then { y with conflictSeen := true } else y
      marks := s.marks ++ if (s.mon.read c).setpoint ≠ some v ∨ (s.mon.read c).conflict ≠ decide (z.nominal < v)
        then [.setpoint c (some v) (decide (z.nominal < v))] else []
      ports := if rise then (s.raise .unit).ports else s.ports } := by
  have hnow := setpointStored_conflictNow (v := v) hu hz
  have hrises : (s.setpointStored c v).conflictRises c = rise := by rw [conflictRises, hnow, setpointStored_mon, hr]
  have hmon : ((s.setpointStored c v).mon.modify c fun m => { m with conflict := decide (z.nominal < v) }) =
      s.mon.write c { s.mon.read c with setpoint := some v, conflict := decide (z.nominal < v) } := by
    rw [setpointStored, modComp_mon, Table.modify_modify]; rfl
  have hcons : (if rise then ((s.setpointStored c v).flagConflict c).cons else s.cons) =
      s.cons.mapIdx fun _ x => x.map fun y => if rise ∧ y.inCustody = true ∧ y.comp = c then { y with conflictSeen := true } else y := by
    cases rise
    · simp
    · simp [flagConflict, setpointStored]
  have hmarks : (if ((s.mon.read c).setpoint != some v) || (s.mon.read c).conflict != decide (z.nominal < v) then
        s.marks ++ [.setpoint c (some v) (decide (z.nominal < v))] else s.marks) =
      s.marks ++ if (s.mon.read c).setpoint ≠ some v ∨ (s.mon.read c).conflict ≠ decide (z.nominal < v)
        then [.setpoint c (some v) (decide (z.nominal < v))] else [] := by
    simp only [Bool.or_eq_true, bne_iff_ne]
    split <;> simp
  rw [decideConflict_eq, hnow, hrises, hmon, setpointStored_mon, ← hcons, ← hmarks]
  rfl

end State

theorem reportSetpoint_taken {h : Header} {comp : Byte} {s : State} {c : Fin 4} {z : Zone} {v : Int} {value : BitVec 16}
    (hs : Taken .unitReport h s) (hc : comp.toNat = c.val) (hz : s.zoneOf c = some z) (hv : v = clampTemp value.toInt)
    {t : State} (ht : (s.setpointStored c v).decideConflict c ((s.mon.read c).setpoint != some v) = t) :
    exec (.reportSetpoint h comp value) s = .next (t.respond h (if v = value.toInt then .ok else .clamped)
      (u8 c.val ++ i16 v ++ flag (t.mon.read c).conflict ++ i16 z.nominal)) := by
  subst hv ht
  refine (next_take_taken hs _).trans ?_
  rw [← clampedIf_bne]
  simp only [index_of_val hc, hz]
  rfl

/-- Settles O23. -/
theorem setpointReportsDecideTheConflict : Obligations.SetpointReportsDecideTheConflict := by
  unfold Obligations.SetpointReportsDecideTheConflict
  intro h comp value s c z v rise hs hc hu hz hv hr
  rw [reportSetpoint_taken hs hc hz hv (State.decideConflict_setpointStored hu hz hr), Table.read_write_same]

end Sys2Proof.Machine

namespace Sys2Proof.Machine

/-! ### SET_ZONE (R43, R45) -/

/-! The fields of a zone profile. -/

namespace Zone

theorem field_store (z : Zone) (f g : ZoneField) (v : Int) : (z.store f v).field g = if g = f then v else z.field g := by
  cases f <;> cases g <;> rfl

/-- Two profiles that agree in every field are equal. -/
theorem ext_field {y z : Zone} (h : ∀ f, y.field f = z.field f) : y = z := by
  cases y
  cases z
  simp only [Zone.mk.injEq]
  exact ⟨h .nominal, h .doorAllowance, h .doorOpenLimit, h .recovery, h .defrostAllowance, h .defrostMax, h .hysteresis,
    h .alarmDelay, h .k, h .theta, h .soften, h .weight, h .shockHysteresis, h .shockLimit, h .hardLimit, h .doseLimit⟩

theorem ne_iff_field {y z : Zone} : y ≠ z ↔ ∃ f, y.field f ≠ z.field f := by
  rw [← not_forall]
  exact not_congr ⟨fun h f => congrArg (Zone.field · f) h, ext_field⟩

theorem field_storeAll_of_notMem {f : ZoneField} {fs : List (ZoneField × Int)} (h : f ∉ fs.map Prod.fst) (z : Zone) :
    (z.storeAll fs).field f = z.field f := by
  induction fs generalizing z with
  | nil => rfl
  | cons x fs ih =>
    obtain ⟨hx, hfs⟩ := not_or.mp (List.mem_cons.not.mp h)
    exact (ih hfs _).trans ((field_store _ _ _ _).trans (if_neg hx))

/-- A field given once is stored clamped to its own range (R43). -/
theorem field_storeAll_of_mem {x : ZoneField × Int} {fs : List (ZoneField × Int)} (hn : (fs.map Prod.fst).Nodup)
    (h : x ∈ fs) (z : Zone) : (z.storeAll fs).field x.1 = max x.1.range.1 (min x.1.range.2 x.2) := by
  induction fs generalizing z with
  | nil => cases h
  | cons y fs ih =>
    obtain ⟨hy, hn⟩ := List.nodup_cons.mp hn
    rcases List.mem_cons.mp h with rfl | h
    · exact (field_storeAll_of_notMem hy _).trans ((field_store _ _ _ _).trans (if_pos rfl))
    · exact ih hn h _

/-- The cross-field raises (R43). -/
theorem field_raised (z : Zone) (f : ZoneField) : z.raised.field f =
    if f = .doorAllowance ∨ f = .defrostAllowance then max (z.field f) (z.field .nominal)
    else if f = .soften then max (z.field f) (z.field .theta)
    else z.field f := by
  cases f <;> rfl

end Zone

/-! The fields of SET_ZONE by name. -/

/-- The names of the fields are their places in R43's table (R201). -/
theorem zoneField_eq (b : Byte) : zoneField b = ZoneField.all[b.toNat]? := by
  unfold zoneField
  generalize b.toNat = n
  rcases Nat.lt_or_ge n 16 with h | h
  · interval_cases n <;> rfl
  · obtain ⟨k, rfl⟩ := Nat.exists_eq_add_of_le' h
    rfl

theorem zoneField_of_lt {b : Byte} (h : b.toNat < 16) : ∃ f, zoneField b = some f :=
  ⟨_, (zoneField_eq b).trans (List.getElem?_eq_getElem h)⟩

theorem zoneField_of_ge {b : Byte} (h : 16 ≤ b.toNat) : zoneField b = none :=
  (zoneField_eq b).trans (List.getElem?_eq_none h)

theorem lt_of_zoneField {b : Byte} {f : ZoneField} (h : zoneField b = some f) : b.toNat < 16 := by
  by_contra hb
  rw [zoneField_of_ge (Nat.le_of_not_lt hb)] at h
  cases h

/-- No two bytes name the same field. -/
theorem zoneField_inj {a b : Byte} {f : ZoneField} (ha : zoneField a = some f) (hb : zoneField b = some f) : a = b := by
  have hlt := lt_of_zoneField ha
  rw [zoneField_eq] at ha hb
  exact BitVec.eq_of_toNat_eq ((List.getElem?_inj hlt (by decide)).mp (ha.trans hb.symm))

section fields

variable {fields : List (Byte × BitVec 32)} {fs : List (ZoneField × Int)}

theorem zoneFields_nil : zoneFields [] = some [] := rfl

theorem zoneFields_cons (x : Byte × BitVec 32) (fields : List (Byte × BitVec 32)) :
    zoneFields (x :: fields) = (zoneField x.1).bind fun f => (zoneFields fields).map fun fs => (f, x.2.toInt) :: fs := by
  unfold zoneFields
  rw [List.mapM_cons]
  cases zoneField x.1 <;> cases fields.mapM fun x => (zoneField x.1).map fun f => (f, x.2.toInt) <;> rfl

/-- A field outside the sixteen leaves the list without a meaning (R45). -/
theorem zoneFields_none (h : ∃ x ∈ fields, 16 ≤ x.1.toNat) : zoneFields fields = none := by
  induction fields with
  | nil => obtain ⟨x, hx, -⟩ := h; cases hx
  | cons y fields ih =>
    rw [zoneFields_cons]
    obtain ⟨x, hx, h⟩ := h
    rcases List.mem_cons.mp hx with rfl | hx
    · rw [zoneField_of_ge h]; rfl
    · rw [ih ⟨x, hx, h⟩]; cases zoneField y.1 <;> rfl

theorem zoneFields_some (h : ∀ x ∈ fields, x.1.toNat < 16) : ∃ fs, zoneFields fields = some fs := by
  induction fields with
  | nil => exact ⟨_, zoneFields_nil⟩
  | cons x fields ih =>
    obtain ⟨hx, h⟩ := List.forall_mem_cons.mp h
    obtain ⟨f, hf⟩ := zoneField_of_lt hx
    obtain ⟨fs, hfs⟩ := ih h
    exact ⟨_, by rw [zoneFields_cons, hf, hfs]; rfl⟩

/-- The fields parsed are those given, name by name and value by value. -/
theorem map_zoneFields (h : zoneFields fields = some fs) :
    fields.map (fun x => (zoneField x.1, x.2.toInt)) = fs.map fun y => (some y.1, y.2) := by
  induction fields generalizing fs with
  | nil => cases h; rfl
  | cons x fields ih =>
    rw [zoneFields_cons] at h
    obtain ⟨f, hf, h⟩ := Option.bind_eq_some_iff.mp h
    obtain ⟨gs, hgs, rfl⟩ := Option.map_eq_some_iff.mp h
    rw [List.map_cons, List.map_cons, ih hgs, hf]

theorem mem_zoneFields (h : zoneFields fields = some fs) {y : ZoneField × Int} :
    y ∈ fs ↔ ∃ x ∈ fields, zoneField x.1 = some y.1 ∧ x.2.toInt = y.2 := by
  have hm : y ∈ fs ↔ (some y.1, y.2) ∈ fs.map fun y => (some y.1, y.2) :=
    (List.mem_map_of_injective (f := fun y : ZoneField × Int => (some y.1, y.2)) fun a b hab =>
      Prod.ext (Option.some.inj (Prod.ext_iff.mp hab).1) (Prod.ext_iff.mp hab).2).symm
  rw [hm, ← map_zoneFields h, List.mem_map]
  simp only [Prod.mk.injEq]

/-- A field is named once where its byte is. -/
theorem nodup_zoneFields (h : zoneFields fields = some fs) : (fs.map Prod.fst).Nodup ↔ (fields.map Prod.fst).Nodup := by
  have hm : (fields.map Prod.fst).map zoneField = (fs.map Prod.fst).map some := by
    have hnames := congrArg (List.map Prod.fst) (map_zoneFields h)
    rw [List.map_map, List.map_map] at hnames ⊢
    exact hnames
  constructor
  · intro hn
    exact .of_map zoneField (hm ▸ hn.map (Option.some_injective _))
  · intro hn
    refine .of_map some (hm ▸ hn.map_on fun a ha b hb hab => ?_)
    obtain ⟨f, -, hf⟩ := List.mem_map.mp (hm ▸ List.mem_map_of_mem (f := zoneField) ha)
    exact zoneField_inj hf.symm (hab ▸ hf.symm)

end fields

/-! The edit. -/

namespace State

/-- SETPOINT_CONFLICT decided afresh in every compartment (R52). -/
def conflictsDecided (s : State) : State := s.forComps fun c t => t.decideConflict c false

/-- The state with a zone's profile stored, before the conflicts are decided (R43). -/
def zoneStored (s : State) (z : Fin 4) (new : Zone) : State :=
  { s with ctl := { s.ctl with working := { s.ctl.working with zones := s.ctl.working.zones.write z new } } }

theorem conflictsDecided_frame (s : State) : s.conflictsDecided = { s with
    mon := s.conflictsDecided.mon
    cons := s.conflictsDecided.cons
    marks := s.conflictsDecided.marks
    ports := s.conflictsDecided.ports } := by
  have hf : s.EditFrame s.conflictsDecided := EditFrame.forComps (fun c t => editFrame_decideConflict t c false) s
  have hfe : s.conflictsDecided.fe = s.fe := by simp only [conflictsDecided, forComps, decideConflict_fe]
  have hh : s.conflictsDecided.hist = s.hist := by simp only [conflictsDecided, forComps, decideConflict_hist]
  generalize s.conflictsDecided = t at *
  rw [EditFrame, hfe, hh] at hf
  exact hf

theorem conflictsDecided_mon (s : State) (c : Fin 4) :
    s.conflictsDecided.mon.read c = { s.mon.read c with conflict := s.conflictNow c } := by
  obtain ⟨t, hf, hm, he⟩ := forComps_at (V := fun t => t.mon.read c) (f := fun c t => t.decideConflict c false) c
    (fun d h t => by rw [decideConflict_mon, Table.read_modify_other _ _ h]) (fun d t => editFrame_decideConflict t d false) s
  have hnow : t.conflictNow c = s.conflictNow c :=
    conflictNow_agree (by rw [config, config, hf.ctl]) (by rw [hf.ctl]) (congrArg _ hm)
  rw [conflictsDecided, he, decideConflict_mon, Table.read_modify_same, hnow, hm]

theorem decideConflict_responses (s : State) (c : Fin 4) (b : Bool) (q : Port) :
    ((s.decideConflict c b).ports.at q).responses = (s.ports.at q).responses := by
  have hp : (s.decideConflict c b).ports = if s.conflictRises c then (s.raise .unit).ports else s.ports := by
    rw [decideConflict_eq]
  rw [hp]
  split <;> [exact responses_raise s .unit q; rfl]

theorem conflictsDecided_responses (s : State) (q : Port) :
    (s.conflictsDecided.ports.at q).responses = (s.ports.at q).responses := by
  simp only [conflictsDecided, forComps, decideConflict_responses]

end State

theorem clampedIf_eq_clamped (b : Bool) : clampedIf b = .clamped ↔ b = true := by cases b <;> decide

theorem clampedIf_cases (b : Bool) : clampedIf b = .ok ∨ clampedIf b = .clamped := by cases b <;> decide

section setZone

variable {h : Header} {zone : Byte} {fields : List (Byte × BitVec 32)} {fs : List (ZoneField × Int)} {s : State} {z : Fin 4}

theorem setZone_refused (hs : Editable h s) (hz : zone.toNat = z.val)
    (hbad : fields = [] ∨ ¬ (fields.map Prod.fst).Nodup ∨ ∃ x ∈ fields, 16 ≤ x.1.toNat) :
    exec (.setZone h zone fields) s = .next (s.respond h .badArgument []) := by
  refine congrArg Host.Outcome.next ((State.take_edit hs _).trans ?_)
  simp only [index_of_val hz]
  cases hf : zoneFields fields with
  | none => rfl
  | some fs =>
    refine if_pos ?_
    rcases hbad with rfl | hbad | hbad
    · cases hf; exact .inl rfl
    · exact .inr ((nodup_zoneFields hf).not.mpr hbad)
    · rw [zoneFields_none hbad] at hf; cases hf

theorem setZone_taken (hs : Editable h s) (hz : zone.toNat = z.val) (hf : zoneFields fields = some fs) (hne : fields ≠ [])
    (hn : (fields.map Prod.fst).Nodup) {first : Zone} (hfirst : (s.ctl.working.zones.read z).storeAll fs = first) :
    exec (.setZone h zone fields) s = .next (((s.zoneStored z first.raised).conflictsDecided).respond h
      (clampedIf (fs.any (fun x => first.raised.field x.1 != x.2) || first.raised != first))
      (ZoneField.all.flatMap fun f => i32 (first.raised.field f))) := by
  subst hfirst
  refine congrArg Host.Outcome.next ((State.take_edit hs _).trans ?_)
  have hfs : ¬ (fs = [] ∨ ¬ (fs.map Prod.fst).Nodup) := by
    rintro (rfl | hd)
    · exact hne (List.map_eq_nil_iff.mp (map_zoneFields hf))
    · exact hd ((nodup_zoneFields hf).mpr hn)
  simp only [index_of_val hz, hf, if_neg hfs]
  rfl

/-- CLAMPED is answered where a field given is not stored as given or a raise changed a field (R45). -/
theorem zoneClamped_iff (hf : zoneFields fields = some fs) (first : Zone) :
    (fs.any (fun x => first.raised.field x.1 != x.2) || first.raised != first) = true ↔
      (∃ f, first.raised.field f ≠ first.field f) ∨
        ∃ x ∈ fields, ∃ f, zoneField x.1 = some f ∧ first.raised.field f ≠ x.2.toInt := by
  rw [Bool.or_eq_true, bne_iff_ne, Zone.ne_iff_field, or_comm, List.any_eq_true]
  refine or_congr_right ⟨?_, ?_⟩
  · rintro ⟨y, hy, hb⟩
    obtain ⟨x, hx, hname, hvalue⟩ := (mem_zoneFields hf).mp hy
    exact ⟨x, hx, y.1, hname, hvalue ▸ bne_iff_ne.mp hb⟩
  · rintro ⟨x, hx, f, hname, hb⟩
    exact ⟨(f, x.2.toInt), (mem_zoneFields hf).mpr ⟨x, hx, hname, rfl⟩, bne_iff_ne.mpr hb⟩

end setZone

/-- Settles O21: the two passes field by field, then the conflicts compartment by compartment. -/
theorem zoneEditsAreClampedInTwoPasses : Obligations.ZoneEditsAreClampedInTwoPasses := by
  unfold Obligations.ZoneEditsAreClampedInTwoPasses
  intro h zone fields s z hs hz
  refine ⟨setZone_refused hs hz, fun hne hn hlt => ?_⟩
  obtain ⟨fs, hf⟩ := zoneFields_some hlt
  obtain ⟨first, hfirst⟩ : ∃ first, (s.ctl.working.zones.read z).storeAll fs = first := ⟨_, rfl⟩
  have hframe := (s.zoneStored z first.raised).conflictsDecided_frame
  have hmon := (s.zoneStored z first.raised).conflictsDecided_mon
  have hresponses := (s.zoneStored z first.raised).conflictsDecided_responses h.port
  rw [setZone_taken hs hz hf hne hn hfirst]
  generalize (s.zoneStored z first.raised).conflictsDecided = t at *
  refine ⟨_, first.field, first.raised, rfl, fun f => ⟨fun hnot => ?_, fun x hx hname => ?_⟩, first.field_raised, ?_,
    fun c => ?_, _, ?_, clampedIf_cases _, (clampedIf_eq_clamped _).trans (zoneClamped_iff hf first)⟩
  · subst hfirst
    refine Zone.field_storeAll_of_notMem (fun hmem => ?_) _
    obtain ⟨y, hy, rfl⟩ := List.mem_map.mp hmem
    obtain ⟨x, hx, hname, -⟩ := (mem_zoneFields hf).mp hy
    exact hnot x hx hname
  · subst hfirst
    exact Zone.field_storeAll_of_mem (x := (f, x.2.toInt)) ((nodup_zoneFields hf).mpr hn)
      ((mem_zoneFields hf).mpr ⟨x, hx, hname, rfl⟩) _
  · rw [hframe]; rfl
  · have hnow : t.conflictNow c = (s.zoneStored z first.raised).conflictNow c :=
      State.conflictNow_agree (by rw [hframe]; rfl) (by rw [hframe]) (by rw [hmon])
    refine (hmon c).trans ?_
    rw [← hnow]
    rfl
  · rw [State.answered, responses_respond, hresponses]; rfl

end Sys2Proof.Machine

namespace Sys2Proof.Machine

/-! ### The publication at the monitor (R40, R48, R49, R55 to R58) -/

/-! The table of R56. -/

section table

variable {n eq : Nat} {a l y d : Int}

theorem judgeAir_clear_below (h : a ≤ l) : judgeAir .clear n a l y d eq = (.clear, n, false) := if_neg (not_lt.mpr h)

theorem judgeAir_clear_delayed (h : l < a) (hd : d ≠ 0) : judgeAir .clear n a l y d eq = (.pending, 0, false) :=
  (if_pos h).trans (if_neg hd)

theorem judgeAir_clear_entered (h : l < a) (hd : d = 0) : judgeAir .clear n a l y d eq = (.active, 0, true) :=
  (if_pos h).trans (if_pos hd)

theorem judgeAir_pending_below (h : a ≤ l) : judgeAir .pending n a l y d eq = (.clear, 0, false) := if_neg (not_lt.mpr h)

theorem judgeAir_pending_counted (h : l < a) (hd : ((min (n + eq) 60 : Nat) : Int) < d) :
    judgeAir .pending n a l y d eq = (.pending, min (n + eq) 60, false) :=
  (if_pos h).trans (if_neg (not_le.mpr hd))

theorem judgeAir_pending_entered (h : l < a) (hd : d ≤ ((min (n + eq) 60 : Nat) : Int)) :
    judgeAir .pending n a l y d eq = (.active, min (n + eq) 60, true) :=
  (if_pos h).trans (if_pos hd)

theorem judgeAir_active_below (h : a ≤ l - y) : judgeAir .active n a l y d eq = (.clear, 0, false) := if_pos h

theorem judgeAir_active_above (h : l - y < a) : judgeAir .active n a l y d eq = (.active, n, false) := if_neg (not_le.mpr h)

/-- ALARM is raised only where ACTIVE is entered from another state (R56). -/
theorem judgeAir_entered {x : Excursion} (h : (judgeAir x n a l y d eq).2.2 = true) :
    x ≠ .active ∧ (judgeAir x n a l y d eq).1 = .active := by
  cases x with
  | clear =>
    rcases le_or_gt a l with hl | hl
    · rw [judgeAir_clear_below hl] at h; cases h
    · by_cases hd : d = 0
      · rw [judgeAir_clear_entered hl hd]; exact ⟨nofun, rfl⟩
      · rw [judgeAir_clear_delayed hl hd] at h; cases h
  | pending =>
    rcases le_or_gt a l with hl | hl
    · rw [judgeAir_pending_below hl] at h; cases h
    · rcases le_or_gt d ((min (n + eq) 60 : Nat) : Int) with hd | hd
      · rw [judgeAir_pending_entered hl hd]; exact ⟨nofun, rfl⟩
      · rw [judgeAir_pending_counted hl hd] at h; cases h
  | active =>
    rcases le_or_gt a (l - y) with hl | hl
    · rw [judgeAir_active_below hl] at h; cases h
    · rw [judgeAir_active_above hl] at h; cases h

end table

/-! The compartment estimate (R58). -/

theorem stepEstimate_filters (n : Nat) (a k v : Int) :
    stepEstimate n a k false (some v) = (some ((fun e => e + filterStep a e k)^[n] v), false) := by
  induction n generalizing v with
  | zero => rfl
  | succ n ih => exact ih _

/-- Sub-steps that start the estimate leave it at the air (R58). -/
theorem stepEstimate_starts (n : Nat) (a k : Int) {due : Bool} {e : Option Int} (h : due = true ∨ e = none) :
    stepEstimate (n + 1) a k due e = (some a, false) := by
  have hfix : a + filterStep a a k = a := by simp [filterStep]
  have hstep : stepEstimate (n + 1) a k due e = stepEstimate n a k false (some a) := by
    rcases h with rfl | rfl
    · rfl
    · cases due <;> rfl
  rw [hstep, stepEstimate_filters, Function.iterate_fixed hfix]

theorem equivalents_eq (parked : Bool) : ∃ n, equivalents parked = n + 1 := by
  cases parked <;> exact ⟨_, rfl⟩

/-! The limit in effect (R40, R55). -/

namespace State

variable {s t : State} {c : Fin 4}

theorem limit_none (h : s.inUse c = false ∨ s.zoneOf c = none ∨ (s.config c).primary = none) : s.limit c = none := by
  unfold limit
  rcases h with h | h | h <;> simp [h]

theorem limit_some {z : Zone} (hu : s.inUse c = true) (hz : s.zoneOf c = some z) (hp : (s.config c).primary ≠ none) :
    s.limit c = some (max
      (if (s.mon.read c).door = .allow ∨ (s.mon.read c).door = .recovery then max z.nominal z.doorAllowance else z.nominal)
      (if (s.mon.read c).defrost = .allow then z.defrostAllowance else z.nominal)) := by
  have hb : (s.inUse c && (s.config c).primary.isSome) = true := by
    rw [hu, Bool.true_and, Option.isSome_iff_ne_none]; exact hp
  rw [limit, if_pos hb, hz, Option.map_some]
  refine congrArg some ?_
  by_cases hd : (s.mon.read c).defrost = .allow
  · simp only [if_pos hd]
  · simp only [if_neg hd]
    split
    · exact (max_eq_left (le_max_left _ _)).symm
    · exact (max_self _).symm

theorem limit_agree (hc : t.ctl = s.ctl) (hm : t.mon.read c = s.mon.read c) : t.limit c = s.limit c := by
  unfold limit inUse zoneOf config
  rw [hc, hm]

theorem judgedAir_some {p : Publication} {r : AirRecord} {a : Int} (hr : p.air.read c = some r) (hl : r.lost = false)
    (ha : r.a = some a) : judgedAir p c = some a := by
  simp [judgedAir, hr, hl, ha]

theorem judgedAir_none {p : Publication} (h : ∀ r, p.air.read c = some r → r.lost = true ∨ r.a = none) :
    judgedAir p c = none := by
  unfold judgedAir
  split
  · next r hr => rcases h r hr with h | h <;> simp [h]
  · rfl

/-! What the monitor's part for one compartment may change. -/

/-- The count of a defrost leaves the compartment alone, overruns or counts (R49). -/
theorem countDefrost_cases (s : State) (n : Nat) (c : Fin 4) :
    s.countDefrost n c = s ∨ (∃ m, s.countDefrost n c = (s.setDefrost c .overrun m).raise .unit) ∨
      ∃ m, s.countDefrost n c = s.modComp c fun x => { x with elapsed := m } := by
  unfold countDefrost
  dsimp only
  split
  · exact .inl rfl
  · split
    · split <;> [exact .inr (.inl ⟨_, rfl⟩); exact .inr (.inr ⟨_, rfl⟩)]
    · exact .inr (.inr ⟨_, rfl⟩)

/-- From `s` to `t` the monitor has worked on compartments: marks have joined, pending kinds have stayed, and besides its own
state, the marks and the ports nothing has changed. -/
structure MonitorGrows (s t : State) : Prop where
  frame : t = { s with mon := t.mon, marks := t.marks, ports := t.ports }
  marks : ∀ m ∈ s.marks, m ∈ t.marks
  kinds : ∀ e q, hasKind (s.ports.at q).pending e = true → hasKind (t.ports.at q).pending e = true

namespace MonitorGrows

theorem refl (s : State) : s.MonitorGrows s := ⟨rfl, fun _ h => h, fun _ _ h => h⟩

theorem trans {s t u : State} (h : s.MonitorGrows t) (g : t.MonitorGrows u) : s.MonitorGrows u :=
  ⟨by rw [g.frame, h.frame], fun m hm => g.marks m (h.marks m hm), fun e q hk => g.kinds e q (h.kinds e q hk)⟩

theorem ite {p : Prop} [Decidable p] {s t u : State} (h : s.MonitorGrows t) (g : s.MonitorGrows u) :
    s.MonitorGrows (if p then t else u) := by
  split <;> assumption

theorem ctl {s t : State} (h : s.MonitorGrows t) : t.ctl = s.ctl := by rw [h.frame]

theorem inUse {s t : State} (h : s.MonitorGrows t) (c : Fin 4) : t.inUse c = s.inUse c := by
  rw [State.inUse, config, h.ctl]; rfl

theorem zoneOf {s t : State} (h : s.MonitorGrows t) (c : Fin 4) : t.zoneOf c = s.zoneOf c := by
  rw [State.zoneOf, config, h.ctl]; rfl

theorem modComp (s : State) (c : Fin 4) (f : Compartment → Compartment) : s.MonitorGrows (s.modComp c f) :=
  ⟨rfl, fun _ h => h, fun _ _ h => h⟩

theorem raise (s : State) (k : EventKind) : s.MonitorGrows (s.raise k) :=
  ⟨rfl, fun _ h => h, fun _ _ h => hasKind_raise_of _ _ _ _ h⟩

theorem raiseIf (s : State) (b : Bool) (k : EventKind) : s.MonitorGrows (s.raiseIf b k) := .ite (raise s k) (refl s)

theorem setDefrost (s : State) (c : Fin 4) (phase : DefrostPhase) (n : Nat) : s.MonitorGrows (s.setDefrost c phase n) :=
  ⟨rfl, fun _ h => List.mem_append_left _ h, fun _ _ h => h⟩

theorem judgeComp (s : State) (p : Publication) (c : Fin 4) : s.MonitorGrows (s.judgeComp p c) := by
  unfold State.judgeComp
  split
  · exact .ite ((modComp s c _).trans (raiseIf _ _ _)) (refl s)
  · exact refl s

theorem countRecovery (s : State) (n : Nat) (c : Fin 4) : s.MonitorGrows (s.countRecovery n c) :=
  .ite (refl s) (modComp s c _)

theorem countDefrost (s : State) (n : Nat) (c : Fin 4) : s.MonitorGrows (s.countDefrost n c) := by
  rcases countDefrost_cases s n c with h | ⟨m, h⟩ | ⟨m, h⟩ <;> rw [h]
  · exact refl s
  · exact (setDefrost s c _ m).trans (raise _ _)
  · exact modComp s c _

theorem monitorComp (s : State) (p : Publication) (c : Fin 4) : s.MonitorGrows (s.monitorComp p c) :=
  ((judgeComp s p c).trans (countRecovery _ _ c)).trans (countDefrost _ _ c)

end MonitorGrows

/-! The three parts of a compartment's state that a publication changes, each by its own stage. -/

/-- What the judgement of the air changes: the excursion with its count, and the estimate with its due start (R56, R58). -/
def airState (m : Compartment) : Excursion × Nat × Option Int × Bool := (m.excursion, m.pending, m.estimate, m.startDue)

/-- What the count of a recovery changes (R48). -/
def doorState (m : Compartment) : DoorPhase × Option Nat := (m.door, m.recovery)

/-- What the count of a defrost changes (R49). -/
def defrostState (m : Compartment) : DefrostPhase × Nat := (m.defrost, m.elapsed)

/-- A compartment whose recovery has counted `n` round-equivalents down (R48). -/
def recovered (n : Nat) (m : Compartment) : Compartment :=
  if m.door = .recovery then
    if m.recovery.getD 0 - n = 0 then { m with door := .closed, recovery := none }
    else { m with recovery := some (m.recovery.getD 0 - n) }
  else m

section comp

variable (s : State) (p : Publication) (c : Fin 4) (n : Nat)

theorem mon_modify_id : s.mon = s.mon.modify c id := (Table.modify_eq_self _ _ _ rfl).symm

theorem judgeComp_mon : ∃ f : Compartment → Compartment, (s.judgeComp p c).mon = s.mon.modify c f ∧
    ∀ m, doorState (f m) = doorState m ∧ defrostState (f m) = defrostState m := by
  have hkept : ∃ f : Compartment → Compartment, s.mon = s.mon.modify c f ∧
    ∀ m, doorState (f m) = doorState m ∧ defrostState (f m) = defrostState m := ⟨id, mon_modify_id s c, fun _ => ⟨rfl, rfl⟩⟩
  unfold judgeComp
  split
  · split
    · rw [raiseIf_mon, modComp_mon]
      refine ⟨_, rfl, fun m => ?_⟩
      exact ⟨rfl, rfl⟩
    · exact hkept
  · exact hkept

theorem recovered_kept (m : Compartment) :
    airState (recovered n m) = airState m ∧ defrostState (recovered n m) = defrostState m := by
  unfold recovered
  split <;> [(split <;> exact ⟨rfl, rfl⟩); exact ⟨rfl, rfl⟩]

theorem countRecovery_mon : (s.countRecovery n c).mon = s.mon.modify c (if s.inUse c then recovered n else id) := by
  unfold countRecovery
  cases s.inUse c
  · exact mon_modify_id s c
  · rfl

theorem countDefrost_mon : ∃ f : Compartment → Compartment, (s.countDefrost n c).mon = s.mon.modify c f ∧
    ∀ m, airState (f m) = airState m ∧ doorState (f m) = doorState m := by
  rcases countDefrost_cases s n c with h | ⟨m, h⟩ | ⟨m, h⟩ <;> rw [h]
  · exact ⟨id, mon_modify_id s c, fun _ => ⟨rfl, rfl⟩⟩
  · rw [raise_mon, setDefrost, request_mon, modComp_mon]
    refine ⟨_, rfl, fun x => ?_⟩
    exact ⟨rfl, rfl⟩
  · refine ⟨_, modComp_mon s c _, fun x => ?_⟩
    exact ⟨rfl, rfl⟩

/-- The monitor's part for one compartment, before its defrost is counted (R48, R56, R58). -/
def beforeDefrost : State := (s.judgeComp p c).countRecovery (equivalents p.parked) c

theorem monitorComp_eq : s.monitorComp p c = (s.beforeDefrost p c).countDefrost (equivalents p.parked) c := rfl

theorem beforeDefrost_grows : s.MonitorGrows (s.beforeDefrost p c) :=
  (MonitorGrows.judgeComp s p c).trans (MonitorGrows.countRecovery _ _ c)

/-- The judgement and the count of the recovery leave the defrost phase and its count alone. -/
theorem beforeDefrost_defrostState :
    defrostState ((s.beforeDefrost p c).mon.read c) = defrostState (s.mon.read c) := by
  obtain ⟨f, hf, hkept⟩ := judgeComp_mon s p c
  have hj : defrostState ((s.judgeComp p c).mon.read c) = defrostState (s.mon.read c) := by
    rw [hf, Table.read_modify_same]; exact (hkept _).2
  rw [beforeDefrost, countRecovery_mon, Table.read_modify_same]
  split <;> [exact (recovered_kept _ _).2.trans hj; exact hj]

/-- The monitor's part for one compartment leaves the others alone. -/
theorem monitorComp_mon_other {d : Fin 4} (h : d ≠ c) : (s.monitorComp p c).mon.read d = s.mon.read d := by
  obtain ⟨f, hf, -⟩ := judgeComp_mon s p c
  obtain ⟨g, hg, -⟩ := countDefrost_mon (s.beforeDefrost p c) c (equivalents p.parked)
  rw [monitorComp_eq, hg, Table.read_modify_other _ _ h, beforeDefrost, countRecovery_mon, Table.read_modify_other _ _ h, hf,
    Table.read_modify_other _ _ h]

/-- The counts leave the judgement as it came out. -/
theorem monitorComp_airState :
    airState ((s.monitorComp p c).mon.read c) = airState ((s.judgeComp p c).mon.read c) := by
  obtain ⟨g, hg, hkept⟩ := countDefrost_mon (s.beforeDefrost p c) c (equivalents p.parked)
  rw [monitorComp_eq, hg, Table.read_modify_same, (hkept _).1, beforeDefrost, countRecovery_mon, Table.read_modify_same]
  split <;> [exact (recovered_kept _ _).1; rfl]

theorem recovered_agree {m m' : Compartment} (h : doorState m' = doorState m) :
    doorState (recovered n m') = doorState (recovered n m) := by
  obtain ⟨hd, hr⟩ := Prod.ext_iff.mp h
  have hd : m'.door = m.door := hd
  have hr : m'.recovery = m.recovery := hr
  unfold recovered
  rw [hd, hr]
  split <;> [(split <;> simp [doorState]); exact h]

/-- The door phase follows the recovery's count alone (R48). -/
theorem monitorComp_doorState (hu : s.inUse c = true) :
    doorState ((s.monitorComp p c).mon.read c) = doorState (recovered (equivalents p.parked) (s.mon.read c)) := by
  have hu' : (s.judgeComp p c).inUse c = true := ((MonitorGrows.judgeComp s p c).inUse c).trans hu
  obtain ⟨f, hf, hkept⟩ := judgeComp_mon s p c
  obtain ⟨g, hg, hdoor⟩ := countDefrost_mon (s.beforeDefrost p c) c (equivalents p.parked)
  rw [monitorComp_eq, hg, Table.read_modify_same, (hdoor _).2, beforeDefrost, countRecovery_mon, if_pos hu',
    Table.read_modify_same, hf, Table.read_modify_same]
  exact recovered_agree _ (hkept _).1

end comp

section stages

variable {s : State} {p : Publication} {c : Fin 4} {n : Nat} {z : Zone}

theorem judgeComp_kept (h : s.zoneOf c = none ∨ judgedAir p c = none) : s.judgeComp p c = s := by
  unfold judgeComp
  split
  · next hz ha => rcases h with h | h <;> simp [h] at hz ha
  · rfl

/-- The judgement of the air where a limit is in effect (R56, R58). -/
theorem judgeComp_judged {a l : Int} (hu : s.inUse c = true) (hm : s.ctl.mode = .service ∨ s.ctl.mode = .parked)
    (hz : s.zoneOf c = some z) (ha : judgedAir p c = some a) (hl : s.limit c = some l) {j : Excursion × Nat × Bool}
    (hj : judgeAir (s.mon.read c).excursion (s.mon.read c).pending a l z.hysteresis z.alarmDelay (equivalents p.parked) = j)
    {e : Option Int × Bool}
    (he : stepEstimate (equivalents p.parked) a z.k (s.mon.read c).startDue (s.mon.read c).estimate = e) :
    s.judgeComp p c = (s.modComp c fun m =>
      { m with excursion := j.1, pending := j.2.1, estimate := e.1, startDue := e.2 }).raiseIf j.2.2 .alarm := by
  subst hj he
  simp only [judgeComp, hz, ha, hl]
  exact if_pos ⟨hu, hm⟩

/-- A defrost whose count reaches the zone's maximum overruns (R49). -/
theorem countDefrost_overruns (hu : s.inUse c = true) (hz : s.zoneOf c = some z) (hd : (s.mon.read c).defrost = .allow)
    (hn : z.defrostMax ≤ ((min ((s.mon.read c).elapsed + n) 540 : Nat) : Int)) :
    s.countDefrost n c = (s.setDefrost c .overrun (min ((s.mon.read c).elapsed + n) 540)).raise .unit := by
  have hb : ¬ (!s.inUse c || (s.mon.read c).defrost == .none) = true := by simp [hu, hd]
  have ho : ((s.mon.read c).defrost == .allow &&
      decide (z.defrostMax ≤ ((min ((s.mon.read c).elapsed + n) 540 : Nat) : Int))) = true := by simp only [hd, hn]; rfl
  simp only [countDefrost, if_neg hb, hz, ho, if_true]

theorem countDefrost_counts (hu : s.inUse c = true) (hz : s.zoneOf c = some z) (hd : (s.mon.read c).defrost = .allow)
    (hn : ((min ((s.mon.read c).elapsed + n) 540 : Nat) : Int) < z.defrostMax) :
    s.countDefrost n c = s.modComp c fun m => { m with elapsed := min ((s.mon.read c).elapsed + n) 540 } := by
  have hb : ¬ (!s.inUse c || (s.mon.read c).defrost == .none) = true := by simp [hu, hd]
  have ho : ¬ ((s.mon.read c).defrost == .allow &&
      decide (z.defrostMax ≤ ((min ((s.mon.read c).elapsed + n) 540 : Nat) : Int))) = true := by
    rw [Bool.and_eq_true, decide_eq_true_iff]
    exact fun h => absurd h.2 (not_le.mpr hn)
  simp only [countDefrost, if_neg hb, hz, if_neg ho]

/-- A recovery counted down to 0 ends in CLOSED (R48). -/
theorem recovered_ends {m : Compartment} {k : Nat} (hd : m.door = .recovery) (hr : m.recovery = some k) (hk : k ≤ n) :
    recovered n m = { m with door := .closed, recovery := none } := by
  rw [recovered, if_pos hd, hr, Option.getD_some, if_pos (Nat.sub_eq_zero_of_le hk)]

theorem recovered_counts {m : Compartment} {k : Nat} (hd : m.door = .recovery) (hr : m.recovery = some k) (hk : n < k) :
    recovered n m = { m with recovery := some (k - n) } := by
  rw [recovered, if_pos hd, hr, Option.getD_some, if_neg (by omega)]

section defrost

variable (p)
variable (hu : s.inUse c = true) (hz : s.zoneOf c = some z) (hd : (s.mon.read c).defrost = .allow)
include hu hz hd

theorem beforeDefrost_allow : (s.beforeDefrost p c).inUse c = true ∧ (s.beforeDefrost p c).zoneOf c = some z ∧
    ((s.beforeDefrost p c).mon.read c).defrost = .allow ∧
    ((s.beforeDefrost p c).mon.read c).elapsed = (s.mon.read c).elapsed := by
  have hgrows := beforeDefrost_grows s p c
  obtain ⟨hphase, helapsed⟩ := Prod.ext_iff.mp (beforeDefrost_defrostState s p c)
  exact ⟨(hgrows.inUse c).trans hu, (hgrows.zoneOf c).trans hz, hphase.trans hd, helapsed⟩

theorem monitorComp_overruns
    (hn : z.defrostMax ≤ ((min ((s.mon.read c).elapsed + equivalents p.parked) 540 : Nat) : Int)) :
    s.monitorComp p c = ((s.beforeDefrost p c).setDefrost c .overrun
      (min ((s.mon.read c).elapsed + equivalents p.parked) 540)).raise .unit := by
  obtain ⟨hu', hz', hd', he⟩ := beforeDefrost_allow p hu hz hd
  rw [← he] at hn ⊢
  exact countDefrost_overruns hu' hz' hd' hn

theorem monitorComp_counts
    (hn : ((min ((s.mon.read c).elapsed + equivalents p.parked) 540 : Nat) : Int) < z.defrostMax) :
    s.monitorComp p c = (s.beforeDefrost p c).modComp c fun m =>
      { m with elapsed := min ((s.mon.read c).elapsed + equivalents p.parked) 540 } := by
  obtain ⟨hu', hz', hd', he⟩ := beforeDefrost_allow p hu hz hd
  rw [← he] at hn ⊢
  exact countDefrost_counts hu' hz' hd' hn

end defrost

end stages

/-! ALARM is raised where a compartment enters ACTIVE, and nowhere else (R56). -/

section alarm

variable {s : State} {p : Publication} {c : Fin 4}

theorem hasKind_alarm_raise_unit (s : State) (q : Port) :
    hasKind ((s.raise .unit).ports.at q).pending .alarm = hasKind (s.ports.at q).pending .alarm := by
  have hbit : EventKind.unit.mask.getLsbD EventKind.alarm.bit = false := by decide
  rw [raise_ports, PerPort.at_map]
  change ((s.ports.at q).pending ||| EventKind.unit.mask).getLsbD _ = (s.ports.at q).pending.getLsbD _
  rw [BitVec.getLsbD_or, hbit, Bool.or_false]

theorem countDefrost_alarm (s : State) (n : Nat) (c : Fin 4) (q : Port) :
    hasKind ((s.countDefrost n c).ports.at q).pending .alarm = hasKind (s.ports.at q).pending .alarm := by
  rcases countDefrost_cases s n c with h | ⟨m, h⟩ | ⟨m, h⟩ <;> rw [h]
  · exact hasKind_alarm_raise_unit (s.setDefrost c .overrun m) q
  · rfl

theorem countRecovery_ports (s : State) (n : Nat) (c : Fin 4) : (s.countRecovery n c).ports = s.ports := by
  unfold countRecovery
  split <;> rfl

theorem judgeComp_alarm
    (h : ((s.judgeComp p c).mon.read c).excursion = .active → (s.mon.read c).excursion = .active) (q : Port) :
    hasKind ((s.judgeComp p c).ports.at q).pending .alarm = hasKind (s.ports.at q).pending .alarm := by
  revert h
  unfold judgeComp
  split
  · split
    · intro h
      rw [raiseIf_mon, modComp_mon, Table.read_modify_same] at h
      dsimp only at h ⊢
      split at h
      · rw [raiseIf, if_neg fun he => (judgeAir_entered he).1 (h (judgeAir_entered he).2)]
        rfl
      · rfl
    · exact fun _ => rfl
  · exact fun _ => rfl

theorem monitorComp_alarm
    (h : ((s.monitorComp p c).mon.read c).excursion = .active → (s.mon.read c).excursion = .active) (q : Port) :
    hasKind ((s.monitorComp p c).ports.at q).pending .alarm = hasKind (s.ports.at q).pending .alarm := by
  have hx : ((s.monitorComp p c).mon.read c).excursion = ((s.judgeComp p c).mon.read c).excursion :=
    congrArg Prod.fst (monitorComp_airState s p c)
  rw [hx] at h
  rw [monitorComp, countDefrost_alarm, countRecovery_ports, judgeComp_alarm h]

end alarm

/-! The publication at the monitor, seen from one compartment. -/

section forComps

variable {f : Fin 4 → State → State}

/-- An operation made for each compartment that leaves the others alone: before its own part a compartment is as it was, and
after it as it ends up. -/
theorem forComps_around (hg : ∀ c t, MonitorGrows t (f c t)) (ho : ∀ c t d, d ≠ c → (f c t).mon.read d = t.mon.read d)
    (s : State) (d : Fin 4) :
    ∃ t, s.MonitorGrows t ∧ t.mon.read d = s.mon.read d ∧ (f d t).MonitorGrows (s.forComps f) ∧
      (s.forComps f).mon.read d = (f d t).mon.read d := by
  unfold forComps
  match d with
  | 0 =>
    exact ⟨s, .refl s, rfl, ((hg 1 _).trans (hg 2 _)).trans (hg 3 _),
      by rw [ho 3 _ 0 (by decide), ho 2 _ 0 (by decide), ho 1 _ 0 (by decide)]⟩
  | 1 =>
    exact ⟨f 0 s, hg 0 s, ho 0 s 1 (by decide), (hg 2 _).trans (hg 3 _),
      by rw [ho 3 _ 1 (by decide), ho 2 _ 1 (by decide)]⟩
  | 2 =>
    exact ⟨f 1 (f 0 s), (hg 0 s).trans (hg 1 _), by rw [ho 1 _ 2 (by decide), ho 0 _ 2 (by decide)], hg 3 _,
      by rw [ho 3 _ 2 (by decide)]⟩
  | 3 =>
    exact ⟨f 2 (f 1 (f 0 s)), ((hg 0 s).trans (hg 1 _)).trans (hg 2 _),
      by rw [ho 2 _ 3 (by decide), ho 1 _ 3 (by decide), ho 0 _ 3 (by decide)], .refl _, rfl⟩

/-- What holds before, and is kept by each compartment's own part from what it was to what it ends up as, holds after. -/
theorem forComps_induction (ho : ∀ c t d, d ≠ c → (f c t).mon.read d = t.mon.read d) {P : State → Prop} (s : State)
    (h0 : P s)
    (h : ∀ c t, t.mon.read c = s.mon.read c → (f c t).mon.read c = (s.forComps f).mon.read c → P t → P (f c t)) :
    P (s.forComps f) := by
  have h1 : P (f 0 s) := h 0 s rfl
    (by unfold forComps; rw [ho 3 _ 0 (by decide), ho 2 _ 0 (by decide), ho 1 _ 0 (by decide)]) h0
  have h2 : P (f 1 (f 0 s)) := h 1 _ (ho 0 _ 1 (by decide))
    (by unfold forComps; rw [ho 3 _ 1 (by decide), ho 2 _ 1 (by decide)]) h1
  have h3 : P (f 2 (f 1 (f 0 s))) := h 2 _ (by rw [ho 1 _ 2 (by decide), ho 0 _ 2 (by decide)])
    (by unfold forComps; rw [ho 3 _ 2 (by decide)]) h2
  exact h 3 _ (by rw [ho 2 _ 3 (by decide), ho 1 _ 3 (by decide), ho 0 _ 3 (by decide)]) rfl h3

end forComps

/-- The state once the monitor has a publication in hand. -/
def monitorHolds (s : State) (rest : List Publication) : State := { s with pubs := { s.pubs with monitor := rest } }

section take

variable {s : State} {p : Publication} {rest : List Publication}

theorem monitorTake_cons (hp : s.pubs.monitor = p :: rest) :
    s.monitorTake = (s.monitorHolds rest).forComps (monitorComp p) := by
  simp only [monitorTake, hp]
  rfl

/-- The publication seen from one compartment: its own part, between those of the compartments before and after it. -/
theorem monitorTake_around (hp : s.pubs.monitor = p :: rest) (c : Fin 4) :
    ∃ t, (s.monitorHolds rest).MonitorGrows t ∧ t.mon.read c = s.mon.read c ∧
      (t.monitorComp p c).MonitorGrows s.monitorTake ∧ s.monitorTake.mon.read c = (t.monitorComp p c).mon.read c := by
  rw [monitorTake_cons hp]
  exact forComps_around (fun c t => .monitorComp t p c) (fun c t d h => monitorComp_mon_other t p c h) (s.monitorHolds rest) c

theorem monitorTake_grows (hp : s.pubs.monitor = p :: rest) : (s.monitorHolds rest).MonitorGrows s.monitorTake := by
  obtain ⟨t, hbefore, -, hafter, -⟩ := monitorTake_around hp 0
  exact (hbefore.trans (.monitorComp t p 0)).trans hafter

/-- Where no compartment enters ACTIVE the publication leaves ALARM as it was (R56). -/
theorem monitorTake_alarm (hp : s.pubs.monitor = p :: rest)
    (h : ∀ d, (s.monitorTake.mon.read d).excursion = .active → (s.mon.read d).excursion = .active) (q : Port) :
    hasKind (s.monitorTake.ports.at q).pending .alarm = hasKind (s.ports.at q).pending .alarm := by
  rw [monitorTake_cons hp] at h ⊢
  refine forComps_induction (fun c t d h => monitorComp_mon_other t p c h)
    (P := fun t => hasKind (t.ports.at q).pending .alarm = hasKind (s.ports.at q).pending .alarm) (s.monitorHolds rest) rfl ?_
  intro c t hbefore hafter ht
  have hc : (t.mon.read c).excursion = (s.mon.read c).excursion := congrArg Compartment.excursion hbefore
  refine (monitorComp_alarm (fun hx => ?_) q).trans ht
  rw [hc]
  exact h c (hafter ▸ hx)

end take

end State

/-- Settles O26: the publication seen from the compartment, whose door phase and defrost phase follow their own counts. -/
theorem recoveryAndDefrostAreCounted : Obligations.RecoveryAndDefrostAreCounted := by
  unfold Obligations.RecoveryAndDefrostAreCounted
  intro s p rest c n hp hu hn
  replace hn : n = equivalents p.parked := hn
  subst hn
  have hframe := (State.monitorTake_grows hp).frame
  obtain ⟨t, hbefore, hm, hafter, hcomp⟩ := State.monitorTake_around hp c
  have hut : t.inUse c = true := (hbefore.inUse c).trans hu
  constructor
  · intro k hd hk
    have hdoor := State.monitorComp_doorState t p c hut
    rw [← hcomp, hm] at hdoor
    refine ⟨fun hle => ?_, fun hlt => ?_⟩
    · rw [State.recovered_ends hd hk hle] at hdoor
      obtain ⟨hclosed, hnone⟩ := Prod.ext_iff.mp hdoor
      exact ⟨s.monitorTake, congrArg Host.Outcome.next (if_pos ⟨hd, hclosed⟩), hframe, hclosed, hnone⟩
    · rw [State.recovered_counts hd hk hlt] at hdoor
      obtain ⟨hphase, hcount⟩ := Prod.ext_iff.mp hdoor
      exact ⟨s.monitorTake, rfl, hphase.trans hd, hcount⟩
  · intro z hz hd
    have hzt : t.zoneOf c = some z := (hbefore.zoneOf c).trans hz
    have hdt : (t.mon.read c).defrost = .allow := by rw [hm]; exact hd
    rw [← hm]
    refine ⟨fun hle => ?_, fun hlt => ?_⟩
    · have hstep := State.monitorComp_overruns p hut hzt hdt hle
      rw [hstep] at hafter hcomp
      rw [State.raise_mon, State.setDefrost, State.request_mon, State.modComp_mon, Table.read_modify_same] at hcomp
      have hover : (s.monitorTake.mon.read c).defrost = .overrun := by rw [hcomp]
      exact ⟨s.monitorTake, congrArg Host.Outcome.next (if_pos ⟨hd, hover⟩), hframe, hover, by rw [hcomp],
        hafter.marks _ (List.mem_append_right _ (List.mem_singleton.mpr rfl)),
        fun q => hafter.kinds _ q (hasKind_raise _ _ q)⟩
    · have hstep := State.monitorComp_counts p hut hzt hdt hlt
      rw [hstep, State.modComp_mon, Table.read_modify_same] at hcomp
      obtain ⟨-, -, hallow, -⟩ := State.beforeDefrost_allow p hut hzt hdt
      exact ⟨s.monitorTake, rfl, by rw [hcomp]; exact hallow, by rw [hcomp]⟩

/-! The publication judged (R55 to R58). -/

section judged

variable {s : State} {p : Publication} {rest : List Publication} {c : Fin 4}

/-- A compartment without a zone or without air in the publication keeps its excursion and its estimate (R56, R58). -/
theorem monitorTake_kept (hp : s.pubs.monitor = p :: rest) (h : s.zoneOf c = none ∨ State.judgedAir p c = none) :
    State.airState (s.monitorTake.mon.read c) = State.airState (s.mon.read c) := by
  obtain ⟨t, hbefore, hm, -, hcomp⟩ := State.monitorTake_around hp c
  have hz : t.zoneOf c = s.zoneOf c := hbefore.zoneOf c
  rw [hcomp, State.monitorComp_airState, State.judgeComp_kept (hz ▸ h), hm]

variable {z : Zone} {a l : Int} (hp : s.pubs.monitor = p :: rest) (hmode : s.ctl.mode = .service ∨ s.ctl.mode = .parked)
  (hu : s.inUse c = true) (hz : s.zoneOf c = some z) (ha : State.judgedAir p c = some a) (hl : s.limit c = some l)
include hp hmode hu hz ha hl

/-- One in use with a limit in effect takes the judgement and the sub-steps of its estimate; ALARM is raised where the
judgement enters ACTIVE (R56, R58). -/
theorem monitorTake_judged {j : Excursion × Nat × Bool}
    (hj : judgeAir (s.mon.read c).excursion (s.mon.read c).pending a l z.hysteresis z.alarmDelay (equivalents p.parked) = j)
    {e : Option Int × Bool}
    (he : stepEstimate (equivalents p.parked) a z.k (s.mon.read c).startDue (s.mon.read c).estimate = e) :
    ((s.monitorTake.mon.read c).excursion = j.1 ∧ (s.monitorTake.mon.read c).pending = j.2.1 ∧
        (s.monitorTake.mon.read c).estimate = e.1 ∧ (s.monitorTake.mon.read c).startDue = e.2) ∧
      (j.2.2 = true → ∀ q, hasKind (s.monitorTake.ports.at q).pending .alarm = true) := by
  obtain ⟨t, hbefore, hm, hafter, hcomp⟩ := State.monitorTake_around hp c
  have hctl : t.ctl = s.ctl := hbefore.ctl
  have hstep := State.judgeComp_judged ((hbefore.inUse c).trans hu) (by rw [hctl]; exact hmode)
    ((hbefore.zoneOf c).trans hz) ha ((State.limit_agree hctl hm).trans hl) (hm ▸ hj) (hm ▸ he)
  constructor
  · have hair : State.airState (s.monitorTake.mon.read c) = (j.1, j.2.1, e.1, e.2) := by
      rw [hcomp, State.monitorComp_airState, hstep, State.raiseIf_mon, State.modComp_mon, Table.read_modify_same]
      rfl
    simpa only [State.airState, Prod.mk.injEq] using hair
  · intro halarm q
    have hcounts : (t.judgeComp p c).MonitorGrows (t.monitorComp p c) :=
      (State.MonitorGrows.countRecovery _ _ c).trans (State.MonitorGrows.countDefrost _ _ c)
    rw [hstep] at hcounts
    exact hafter.kinds _ q (hcounts.kinds _ q (State.hasKind_raiseIf halarm q))

/-- The row of R56's table gives the excursion state and the pending count. -/
theorem monitorTake_row {x y : Excursion} {n : Nat} {b : Bool} (hx : (s.mon.read c).excursion = x)
    (hj : judgeAir x (s.mon.read c).pending a l z.hysteresis z.alarmDelay (equivalents p.parked) = (y, n, b)) :
    (s.monitorTake.mon.read c).excursion = y ∧ (s.monitorTake.mon.read c).pending = n := by
  subst hx
  obtain ⟨⟨hexcursion, hpending, -, -⟩, -⟩ := monitorTake_judged hp hmode hu hz ha hl hj rfl
  exact ⟨hexcursion, hpending⟩

/-- Where ACTIVE is entered the publication is EXCURSION_ACTIVE, and raises ALARM (R56, log 6). -/
theorem monitorTake_enters {x : Excursion} {n : Nat} (hx : (s.mon.read c).excursion = x)
    (hj : judgeAir x (s.mon.read c).pending a l z.hysteresis z.alarmDelay (equivalents p.parked) = (.active, n, true)) :
    exec (.excursionActive c) s = .next s.monitorTake ∧ (s.monitorTake.mon.read c).excursion = .active ∧
      (s.monitorTake.mon.read c).pending = n ∧ ∀ q, hasKind (s.monitorTake.ports.at q).pending .alarm = true := by
  obtain ⟨hactive, hpending⟩ := monitorTake_row hp hmode hu hz ha hl hx hj
  subst hx
  obtain ⟨-, halarm⟩ := monitorTake_judged hp hmode hu hz ha hl hj rfl
  have hleft : (s.mon.read c).excursion ≠ .active := (judgeAir_entered (congrArg (·.2.2) hj)).1
  exact ⟨congrArg Host.Outcome.next (if_pos ⟨hleft, hactive⟩), hactive, hpending, halarm rfl⟩

/-- The estimate starts at the air, where its start is due or it has no value yet (R58). -/
theorem monitorTake_estimate_starts (h : (s.mon.read c).startDue = true ∨ (s.mon.read c).estimate = none) :
    (s.monitorTake.mon.read c).estimate = some a ∧ (s.monitorTake.mon.read c).startDue = false := by
  obtain ⟨n, hn⟩ := equivalents_eq p.parked
  obtain ⟨⟨-, -, hestimate, hdue⟩, -⟩ := monitorTake_judged hp hmode hu hz ha hl rfl (hn ▸ stepEstimate_starts n a z.k h)
  exact ⟨hestimate, hdue⟩

/-- Otherwise it makes one filter step for each round-equivalent, all on the same air (R58). -/
theorem monitorTake_estimate_filters {v : Int} (hd : (s.mon.read c).startDue = false)
    (hv : (s.mon.read c).estimate = some v) :
    (s.monitorTake.mon.read c).estimate = some ((fun e => e + filterStep a e z.k)^[equivalents p.parked] v) ∧
      (s.monitorTake.mon.read c).startDue = false := by
  have he := stepEstimate_filters (equivalents p.parked) a z.k v
  rw [← hd, ← hv] at he
  obtain ⟨⟨-, -, hestimate, hdue⟩, -⟩ := monitorTake_judged hp hmode hu hz ha hl rfl he
  exact ⟨hestimate, hdue.trans hd⟩

end judged

/-- Settles O25: the limit in effect, the compartment that is not judged, and the one that is, row by row of R56's table. -/
theorem airIsJudgedAgainstTheLimit : Obligations.AirIsJudgedAgainstTheLimit := by
  unfold Obligations.AirIsJudgedAgainstTheLimit
  refine ⟨fun s c => State.limit_none, fun s p rest c hp h => ?_, ?_⟩
  · have hkept := monitorTake_kept hp (h.imp_right State.judgedAir_none)
    simp only [State.airState, Prod.mk.injEq] at hkept
    exact ⟨s.monitorTake, rfl, hkept⟩
  · rintro s p rest c z r a l m hp hmode hu hz hprimary hr hlost hair rfl rfl
    have hl := State.limit_some hu hz hprimary
    have hjudged := State.judgedAir_some hr hlost hair
    have row {x y n b} := monitorTake_row (x := x) (y := y) (n := n) (b := b) hp hmode hu hz hjudged hl
    have enters {x n} := monitorTake_enters (x := x) (n := n) hp hmode hu hz hjudged hl
    refine ⟨hl, s.monitorTake, rfl, (State.monitorTake_grows hp).frame, fun hx h => row hx (judgeAir_clear_below h),
      fun hx h hd => row hx (judgeAir_clear_delayed h hd), fun hx h hd => row hx (judgeAir_pending_counted h hd),
      fun hx h => row hx (judgeAir_pending_below h), fun hx h => row hx (judgeAir_active_below h),
      fun hx h => row hx (judgeAir_active_above h), ?_, State.monitorTake_alarm hp, ?_⟩
    · rintro (⟨hx, h, hd⟩ | ⟨hx, h, hd⟩)
      · rw [if_pos hx]
        exact enters hx (judgeAir_clear_entered h hd)
      · rw [if_neg (by rw [hx]; nofun)]
        exact enters hx (judgeAir_pending_entered h hd)
    · by_cases hstart : (s.mon.read c).startDue = true ∨ (s.mon.read c).estimate = none
      · obtain ⟨hestimate, hdue⟩ := monitorTake_estimate_starts hp hmode hu hz hjudged hl hstart
        refine ⟨hdue, fun f _ => hestimate.trans ?_⟩
        rcases hstart with h | h
        · rw [h]
        · rw [h]; cases (s.mon.read c).startDue <;> rfl
      · obtain ⟨hd, hv⟩ := not_or.mp hstart
        obtain ⟨v, hv⟩ := Option.ne_none_iff_exists'.mp hv
        rw [Bool.not_eq_true] at hd
        obtain ⟨hestimate, hdue⟩ := monitorTake_estimate_filters hp hmode hu hz hjudged hl hd hv
        refine ⟨hdue, fun f hf => hestimate.trans ?_⟩
        rw [hf, hd, hv]
        cases p.parked <;> rfl

end Sys2Proof.Machine

namespace Sys2Proof.Machine

/-! ## The manifest (file 05) -/

/-! ### LOAD (R54, R63, R89, R90, R178) -/

theorem takesLoad_iff (m : Mode) : m.takesLoad = true ↔ m = .service ∨ m = .parked ∨ m = .waking ∨ m = .dormant := by
  cases m <;> simp [Mode.takesLoad]

/-- An optional temperature clamped to the recorder's range; 0x8000 counts as omitted (R88, R200). -/
theorem optTemp_clamped (w : Option (BitVec 16)) :
    (optTemp w).map clampTemp =
      if w = some 0x8000#16 then none else w.map fun x => max (-5500) (min 8500 x.toInt) := by
  rcases w with _ | x
  · rfl
  · by_cases h : x = 0x8000#16 <;> simp [optTemp, h, clampTemp, clampInt]

/-- CLAMPED is answered for an optional temperature that is not omitted and not stored as given. -/
theorem clampedIf_optTemp (w : Option (BitVec 16)) {g : Option Int} (hg : g = (optTemp w).map clampTemp) :
    clampedIf (g != optTemp w) = if w = none ∨ w = some 0x8000#16 ∨ g = w.map BitVec.toInt then .ok else .clamped := by
  subst hg
  rcases w with _ | x
  · rfl
  · by_cases h : x = 0x8000#16
    · subst h; rfl
    · by_cases hx : clampTemp x.toInt = x.toInt <;> simp [clampedIf, optTemp, h, hx]

theorem Exposure.loaded_e (x : Exposure) (z : Option Zone) (v : Option Int) :
    (x.loaded z v).e = match v with | some a => some a | none => x.e := by
  cases v <;> rfl

namespace State

variable {s : State}

theorem wakeFrom_awake (h : s.ctl.mode ≠ .dormant) (k : ModeCause) : s.wakeFrom k = s := if_neg h

theorem wakeFrom_dormant (h : s.ctl.mode = .dormant) (k : ModeCause) : s.wakeFrom k = s.enterMode .waking k := if_pos h

/-- A waking event touches the controller, the front end, the marks and the ports alone (R178). -/
theorem wakeFrom_frame (s : State) (k : ModeCause) : s.wakeFrom k = { s with
    ctl := (s.wakeFrom k).ctl, fe := (s.wakeFrom k).fe, marks := (s.wakeFrom k).marks, ports := (s.wakeFrom k).ports } := by
  unfold wakeFrom
  split <;> rfl

theorem wakeFrom_responses (s : State) (k : ModeCause) (q : Port) :
    ((s.wakeFrom k).ports.at q).responses = (s.ports.at q).responses := by
  unfold wakeFrom
  split <;> [exact responses_raise _ _ q; rfl]

end State

section manifest

variable {h : Header} {id : BitVec 32} {s : State} {j : Fin 32} {x : Consignment}

/-- A LOAD before the part wakes: the consignment is in custody and its mark requested (R89, R90). -/
def State.loadSlot (s : State) (j : Fin 32) (x : Consignment) (id : BitVec 32) (v : Option Int) : State :=
  (s.putCons j (some (s.loaded x v))).request (.load j x.comp id x.stop s.now v)

theorem load_taken (hs : Taken .manifest h s) (hm : s.ctl.mode.takesLoad = true) (hx : s.byId id = some (j, x))
    (hl : x.state = .listed) (hu : s.inUse x.comp = true) {w : Option (BitVec 16)} {g v : Option Int}
    (hg : g = (optTemp w).map clampTemp) (hv : v = g.or x.loadEstimate) :
    exec (.load h id w) s = .next (((s.loadSlot j x id v).wakeFrom .load).respond h (clampedIf (g != optTemp w))
      (u8 j.val ++ u8 1 ++ u32 s.now ++ temp (x.exposure.loaded (s.zoneOf x.comp) v).e ++ temp v)) := by
  subst hg hv
  refine (next_take_taken hs _).trans ?_
  simp only [hm, hx, hl, hu, Bool.not_true, Bool.false_eq_true, if_false, ne_eq, not_true_eq_false]
  rfl

/-- Settles O30. -/
theorem loadTakesCustody : Obligations.LoadTakesCustody := by
  unfold Obligations.LoadTakesCustody
  intro h id w s j x z g v hs hm hx hl hu hz hg hv
  rw [← optTemp_clamped] at hg
  have hor : v = g.or x.loadEstimate := by rw [hv]; cases g <;> rfl
  clear hv
  refine ⟨_, load_taken hs ((takesLoad_iff _).mpr hm) hx hl hu hg hor, ?_, ?_, ?_, fun hd => ?_, fun hd => ?_⟩
  · rw [State.wakeFrom_frame]; rfl
  · rw [State.respond_cons, State.wakeFrom_frame]
    change s.cons.write j (some (s.loaded x v)) = _
    rw [State.loaded, hz]
    cases v <;> rfl
  · rw [State.answered, responses_respond, State.wakeFrom_responses, clampedIf_optTemp w hg, Exposure.loaded_e]; rfl
  · rw [State.wakeFrom_awake (s := s.loadSlot j x id v) hd]
    exact ⟨rfl, rfl, rfl⟩
  · rw [State.wakeFrom_dormant (s := s.loadSlot j x id v) hd, ← hd]
    exact ⟨rfl, rfl, List.append_assoc _ _ _⟩

/-! ### MOVE (R54, R87, R92, R93, R97) -/

theorem move_taken (hs : Taken .manifest h s) (hm : s.ctl.mode.takesLoad = true) {comp : Byte} {c : Fin 4}
    (hc : comp.toNat = c.val) (hx : s.byId id = some (j, x)) :
    exec (.move h id comp) s = .next (match heldBack x with
      | some st => s.respond h st []
      | none =>
        if s.inUse c = false then s.respond h .badArgument []
        else ((s.putCons j (some (s.moved x c))).request (.move j c x.comp id (s.moved x c).doorSeconds)).respond h .ok
          (u8 j.val ++ u8 x.comp.val ++ u8 c.val ++ u32 (s.moved x c).doorSeconds ++ word32 (s.lines.counters.read c))) := by
  refine (next_take_taken hs _).trans ?_
  simp only [hm, index_of_val hc, hx, Bool.not_true, Bool.false_eq_true, if_false]
  cases heldBack x <;> cases s.inUse c <;> rfl

/-- The live door seconds of a consignment in custody (R92). -/
theorem liveDoor_custody {b : BitVec 32} (hx : x.inCustody = true) (hb : x.doorBase = some b) :
    s.liveDoor x = min (x.doorSeconds + (s.lines.counters.read x.comp - b).toNat) 4294967295 := by
  simp only [State.liveDoor, hb, hx, if_true]
  rfl

theorem heldBack_none (hx : x.state = .aboard ∨ x.state = .returned) : heldBack x = none := by
  rcases hx with h | h <;> simp only [heldBack, h]

theorem inCustody_of_held (hx : x.state = .aboard ∨ x.state = .returned) : x.inCustody = true := by
  rcases hx with h | h <;> simp [Consignment.inCustody, h]

/-- Settles O31. -/
theorem moveClosesOffTheDoorSeconds : Obligations.MoveClosesOffTheDoorSeconds := by
  unfold Obligations.MoveClosesOffTheDoorSeconds
  intro h id comp s j x c hs hm hc hx
  rw [move_taken hs ((takesLoad_iff _).mpr hm) hc hx]
  refine ⟨fun hh => ?_, fun hh => ?_, fun hh hu => ?_, fun b n hh hu hb hn => ?_⟩
  · simp only [heldBack, hh]
  · rcases hh with hh | hh | hh <;> simp only [heldBack, hh]
  · simp only [heldBack_none hh, hu, if_true]
  · rw [← liveDoor_custody (inCustody_of_held hh) hb] at hn
    subst hn
    simp only [heldBack_none hh, hu, Bool.true_eq_false, if_false]
    rfl

end manifest

end Sys2Proof.Machine

namespace Sys2Proof.Machine

/-! ## The exposure engine (file 04) -/

/-! ### What never falls while a slot is occupied (R54, R72, R79, R104) -/

/-- The ledger that claims of a step only that doses stay bounded and that no occupied slot loses what it has. -/
def Ledger.ofDoses (s : State) (rest : List Instr) : Ledger where
  commands := rest
  settings := s.ctl.working
  queue := False
  ports := False
  contexts := False
  reference := False
  working := False
  table := s.cons
  doses := True

theorem keeps_ofDoses {s : State} (rest : List Instr) (hs : s.dosesBounded) :
    Keeps (.ofDoses s rest) { s with pending := rest } where
  commands := rfl
  queue := False.elim
  ports := False.elim
  contexts := False.elim
  reference := False.elim
  working := False.elim
  doses := fun _ => ⟨hs, tableSince_refl s.cons⟩

/-- Settles O8: an empty queue idles, and every command and event keeps the ledger's clause about the consignment table. -/
theorem dosesNeverFallWhileTheSlotIsOccupied : Obligations.DosesNeverFallWhileTheSlotIsOccupied := by
  unfold Obligations.DosesNeverFallWhileTheSlotIsOccupied
  intro s t hs h
  unfold step at h
  split at h
  · cases h; exact ⟨hs, tableSince_refl s.cons⟩
  · next c rest _ => exact (keeps_exec c False.elim (fun _ => rfl) (keeps_ofDoses rest hs) h).doses trivial

/-! ### One sub-step (R64 to R69, R72, R74, R75, R77) -/

theorem Buckets.at_add (b : Buckets) (k q : DoseClass) (inc : Nat) :
    (b.add k inc).at q = if q = k then min (b.at q + inc) maxBucket else b.at q := by
  cases k <;> cases q <;> rfl

namespace Exposure

variable {x : Exposure} {z : Zone} {air : Option Int} {k : DoseClass} {a e : Int}

/-- Stage 1 of a sub-step. -/
def estimated (x : Exposure) (z : Zone) : Option Int → Exposure
  | some a => x.filter z a
  | none => x.freeze

theorem subStep_eq : x.subStep z air k = (x.estimated z air).afterEstimate z k := by
  cases air <;> rfl

/-! Stage 1. -/

theorem filter_set (h : x.e = some e) : x.filter z a = { x with e := some (e + filterStep a e z.k) } := by
  simp only [filter, h]

theorem filter_unset (h : x.e = none) : x.filter z a = { x with e := some a, armed := armedAt a z.soften } := by
  simp only [filter, h]

/-- An air value leaves everything but the estimate and armed. -/
theorem filter_frame : x.filter z a = { x with e := (x.filter z a).e, armed := (x.filter z a).armed } := by
  unfold filter
  split <;> rfl

theorem filter_lost : (x.filter z a).lost = x.lost := by
  rw [filter_frame]

theorem filter_lostSeen : (x.filter z a).lostSeen = x.lostSeen := by
  rw [filter_frame]

theorem filter_e_ne_none : (x.filter z a).e ≠ none := by
  unfold filter
  split <;> nofun

/-- Stage 1 touches neither the counts nor what follows from them. -/
theorem estimated_frame : x.estimated z air = { x with
    e := (x.estimated z air).e, armed := (x.estimated z air).armed
    lost := (x.estimated z air).lost, lostSeen := (x.estimated z air).lostSeen } := by
  cases air with
  | none => rfl
  | some a => simp only [estimated]; rw [filter_frame]

theorem estimated_shocks (x : Exposure) (z : Zone) (air : Option Int) : (x.estimated z air).shocks = x.shocks := by
  rw [estimated_frame]

/-- A first estimate decides armed (R66); any other leaves it. -/
theorem estimated_armed (h : (x.estimated z air).e = some e) :
    (x.estimated z air).armed = if x.e = none then decide (e ≤ z.soften) else x.armed := by
  cases air with
  | none => rw [if_neg (by rw [show x.e = some e from h]; nofun)]; rfl
  | some a =>
    cases hx : x.e with
    | none =>
      simp only [estimated, filter_unset hx, Option.some.injEq] at h ⊢
      rw [h, armedAt, if_pos trivial]
    | some v => simp only [estimated, filter_set hx, reduceCtorEq, if_false]

/-! Stages 2 to 5. -/

theorem afterEstimate_unset (h : x.e = none) : x.afterEstimate z k = x := by
  simp only [afterEstimate, h]

theorem afterEstimate_set (h : x.e = some e) :
    x.afterEstimate z k = ((x.dose k (increment z e)).shock z e).peakOf e := by
  simp only [afterEstimate, h]

/-- Stage 4 touches the count and armed alone. -/
theorem shock_frame : x.shock z e = { x with shocks := (x.shock z e).shocks, armed := (x.shock z e).armed } := by
  unfold shock
  repeat' split
  all_goals rfl

theorem shock_above (ha : x.armed = true) (he : z.soften < e) :
    x.shock z e = { x with shocks := min (x.shocks + 1) 255, armed := false } := by
  simp [shock, ha, he]

theorem shock_armed (ha : x.armed = true) (he : e ≤ z.soften) : x.shock z e = x := by
  simp [shock, ha, not_lt.mpr he]

theorem shock_rearms (ha : x.armed = false) (he : e ≤ z.soften - z.shockHysteresis) :
    x.shock z e = { x with armed := true } := by
  simp [shock, ha, he]

theorem shock_disarmed (ha : x.armed = false) (he : z.soften - z.shockHysteresis < e) : x.shock z e = x := by
  simp [shock, ha, not_le.mpr he]

/-- Stages 2 to 5 leave the estimate, the lost count and the triggered set. -/
theorem afterEstimate_frame : x.afterEstimate z k = { x.afterEstimate z k with
    e := x.e, lost := x.lost, lostSeen := x.lostSeen, triggered := x.triggered } := by
  cases h : x.e with
  | none => rw [afterEstimate_unset h, ← h]
  | some e => rw [afterEstimate_set h, shock_frame, ← h]; rfl

/-! The whole sub-step. -/

theorem subStep_e : (x.subStep z air k).e = (x.estimated z air).e := by
  rw [subStep_eq, afterEstimate_frame]

theorem subStep_lost : (x.subStep z air k).lost = (x.estimated z air).lost := by
  rw [subStep_eq, afterEstimate_frame]

theorem subStep_lostSeen : (x.subStep z air k).lostSeen = (x.estimated z air).lostSeen := by
  rw [subStep_eq, afterEstimate_frame]

theorem subStep_triggered : (x.subStep z air k).triggered = x.triggered := by
  rw [subStep_eq, afterEstimate_frame, estimated_frame]

theorem subSteps_triggered (n : Nat) : ∀ x : Exposure, (subSteps z air k n x).triggered = x.triggered := by
  induction n with
  | zero => exact fun _ => rfl
  | succ n ih => exact fun x => (ih _).trans subStep_triggered

/-- Without an estimate only the lost count and its flag change (R68). -/
theorem subStep_unset (h : (x.estimated z air).e = none) :
    x.subStep z air k = { x with lost := bump x.lost, lostSeen := true } := by
  rw [subStep_eq, afterEstimate_unset h]
  cases air with
  | none => rfl
  | some a => exact absurd h filter_e_ne_none

/-- With an estimate stages 2 to 5 run on it. -/
theorem subStep_set (h : (x.estimated z air).e = some e) :
    x.subStep z air k = (((x.estimated z air).dose k (increment z e)).shock z e).peakOf e :=
  subStep_eq.trans (afterEstimate_set h)

section doses

variable (h : (x.estimated z air).e = some e)
include h

theorem subStep_buckets : (x.subStep z air k).buckets = x.buckets.add k (increment z e) := by
  rw [subStep_set h, shock_frame, estimated_frame]
  rfl

theorem subStep_saturated :
    (x.subStep z air k).saturated = (x.saturated || decide (maxBucket < x.buckets.at k + increment z e)) := by
  rw [subStep_set h, shock_frame, estimated_frame]
  rfl

theorem subStep_peak : (x.subStep z air k).peak = some (match x.peak with | none => e | some q => max q e) := by
  have hp : (x.subStep z air k).peak = some (max (x.peak.getD e) e) := by
    rw [subStep_set h, shock_frame, estimated_frame]
    rfl
  rw [hp]
  cases x.peak with
  | none => exact congrArg some (max_self e)
  | some q => rfl

/-- Stage 4 runs on what stages 1 and 3 leave, and stage 5 keeps what it gives. -/
theorem subStep_shock {y : Exposure} (hy : ((x.estimated z air).dose k (increment z e)).shock z e = y) :
    (x.subStep z air k).shocks = y.shocks ∧ (x.subStep z air k).armed = y.armed := by
  rw [subStep_set h, hy]
  exact ⟨rfl, rfl⟩

theorem subStep_above (ha : (x.estimated z air).armed = true) (he : z.soften < e) :
    (x.subStep z air k).shocks = min (x.shocks + 1) 255 ∧ (x.subStep z air k).armed = false := by
  obtain ⟨hc, hr⟩ := subStep_shock (k := k) h (shock_above ha he)
  exact ⟨hc.trans (congrArg (fun n => min (n + 1) 255) (estimated_shocks x z air)), hr⟩

theorem subStep_armed (ha : (x.estimated z air).armed = true) (he : e ≤ z.soften) :
    (x.subStep z air k).shocks = x.shocks ∧ (x.subStep z air k).armed = true := by
  obtain ⟨hc, hr⟩ := subStep_shock (k := k) h (shock_armed ha he)
  exact ⟨hc.trans (estimated_shocks x z air), hr.trans ha⟩

theorem subStep_rearms (ha : (x.estimated z air).armed = false) (he : e ≤ z.soften - z.shockHysteresis) :
    (x.subStep z air k).shocks = x.shocks ∧ (x.subStep z air k).armed = true := by
  obtain ⟨hc, hr⟩ := subStep_shock (k := k) h (shock_rearms ha he)
  exact ⟨hc.trans (estimated_shocks x z air), hr⟩

theorem subStep_disarmed (ha : (x.estimated z air).armed = false) (he : z.soften - z.shockHysteresis < e) :
    (x.subStep z air k).shocks = x.shocks ∧ (x.subStep z air k).armed = false := by
  obtain ⟨hc, hr⟩ := subStep_shock (k := k) h (shock_disarmed ha he)
  exact ⟨hc.trans (estimated_shocks x z air), hr.trans ha⟩

end doses

end Exposure

/-- Settles O27. -/
theorem subStepRunsTheFiveStages : Obligations.SubStepRunsTheFiveStages := by
  unfold Obligations.SubStepRunsTheFiveStages
  rintro x _ z air k rfl
  simp only [Exposure.subStep_e, Exposure.subStep_lost, Exposure.subStep_lostSeen]
  refine ⟨Exposure.subStep_triggered, ?_, ?_, ?_, ?_, Exposure.subStep_unset, ?_⟩
  · rintro a e rfl hx
    exact congrArg Exposure.e (Exposure.filter_set hx)
  · rintro a rfl hx
    exact congrArg Exposure.e (Exposure.filter_unset hx)
  · intro ha
    obtain ⟨a, rfl⟩ := Option.ne_none_iff_exists'.mp ha
    exact ⟨Exposure.filter_lost, Exposure.filter_lostSeen⟩
  · rintro rfl
    exact ⟨rfl, rfl, rfl⟩
  · intro e inc armed he hinc harmed
    change inc = increment z e at hinc
    subst hinc
    rw [← Exposure.estimated_armed he] at harmed
    subst harmed
    exact ⟨fun q => by rw [Exposure.subStep_buckets he]; exact Buckets.at_add .., Exposure.subStep_saturated he,
      Exposure.subStep_above he, Exposure.subStep_armed he, Exposure.subStep_rearms he, Exposure.subStep_disarmed he,
      Exposure.subStep_peak he⟩

/-! ### The trigger test (R73, R76, R78, R79) -/

/-- The set of the causes whose limit a consignment has passed. -/
def passedSet (x : Consignment) (z : Zone) : BitVec 5 :=
  (if z.doseLimit < (x.totalDose : Int) then causeDose else 0#5) |||
  (match x.exposure.e with | some e => if z.hardLimit < e then causeHard else 0#5 | none => 0#5) |||
  (if z.shockLimit < (x.totalShocks : Int) then causeShock else 0#5) |||
  (if 30 ≤ x.exposure.lost then causeSensor else 0#5)

theorem any_getLsbD_ite {p : Prop} [Decidable p] (c : BitVec 5) (i : Nat) :
    (if p then [c] else []).any (fun d => d.getLsbD i) = (if p then c else 0#5).getLsbD i := by
  split <;> simp

/-- The list of the causes passed spells the set. -/
theorem any_passed (x : Consignment) (z : Zone) (i : Nat) :
    (passed x z).any (fun d => d.getLsbD i) = (passedSet x z).getLsbD i := by
  unfold passed passedSet
  simp only [List.any_append, BitVec.getLsbD_or, any_getLsbD_ite]
  cases x.exposure.e with
  | none => simp
  | some e => simp only [any_getLsbD_ite]

theorem mem_causes_of_passed {x : Consignment} {z : Zone} {c : BitVec 5} (h : c ∈ passed x z) :
    c ∈ [causeDose, causeHard, causeShock, causeSensor] := by
  simp only [passed, List.mem_append, List.mem_ite_nil_right, List.mem_singleton] at h
  rcases h with ((⟨-, rfl⟩ | h) | ⟨-, rfl⟩) | ⟨-, rfl⟩
  · decide
  · split at h
    · rw [List.mem_ite_nil_right, List.mem_singleton] at h
      rw [h.2]; decide
    · cases h
  · decide
  · decide

/-- Each cause passed is a set with one member. -/
theorem eq_single_of_passed {x : Consignment} {z : Zone} {c : BitVec 5} (h : c ∈ passed x z) {i : Fin 5}
    (hi : c.getLsbD i.val = true) : c = single i := by
  have key : ∀ c ∈ [causeDose, causeHard, causeShock, causeSensor], ∀ i : Fin 5,
      c.getLsbD i.val = true → c = single i := by decide
  exact key c (mem_causes_of_passed h) i hi

theorem getLsbD_foldl_or (cs : List (BitVec 5)) (i : Nat) : ∀ a : BitVec 5,
    (cs.foldl (fun acc c => acc ||| c) a).getLsbD i = (a.getLsbD i || cs.any fun c => c.getLsbD i) := by
  induction cs with
  | nil => exact fun a => (Bool.or_false _).symm
  | cons c cs ih => exact fun a => by rw [List.foldl_cons, ih, BitVec.getLsbD_or, List.any_cons, Bool.or_assoc]

/-- A cause that the test does not hand on is in the triggered set already. -/
theorem any_newCauses (x : Consignment) (z : Zone) (i : Nat) :
    (x.exposure.triggered.getLsbD i || (newCauses x z).any fun c => c.getLsbD i) =
      (x.exposure.triggered.getLsbD i || (passed x z).any fun c => c.getLsbD i) := by
  cases ht : x.exposure.triggered.getLsbD i with
  | true => rfl
  | false =>
    simp only [Bool.false_or, newCauses, List.any_filter]
    refine congrArg (passed x z).any (funext fun c => ?_)
    cases hc : c.getLsbD i with
    | false => exact Bool.and_false _
    | true =>
      have hne : x.exposure.triggered &&& c ≠ c := fun e => by
        rw [← e, BitVec.getLsbD_and, ht] at hc; cases hc
      simp [hne]

/-- The test adds to the triggered set the causes passed (R79). -/
theorem trigger_newCauses (x : Consignment) (z : Zone) : x.trigger (newCauses x z) =
    { x with exposure := { x.exposure with triggered := x.exposure.triggered ||| passedSet x z } } := by
  have hset : (newCauses x z).foldl (fun acc c => acc ||| c) x.exposure.triggered =
      x.exposure.triggered ||| passedSet x z :=
    BitVec.eq_of_getLsbD_eq fun i _ => by
      rw [getLsbD_foldl_or, any_newCauses, any_passed, BitVec.getLsbD_or]
  rw [Consignment.trigger, hset]

/-- Each cause passed and not triggered before is handed on (R79). -/
theorem single_mem_newCauses {x : Consignment} {z : Zone} {i : Fin 5} (hi : (passedSet x z).getLsbD i.val = true)
    (ht : x.exposure.triggered.getLsbD i.val = false) : single i ∈ newCauses x z := by
  rw [← any_passed, List.any_eq_true] at hi
  obtain ⟨c, hc, hci⟩ := hi
  rw [← eq_single_of_passed hc hci]
  refine List.mem_filter.mpr ⟨hc, bne_iff_ne.mpr fun e => ?_⟩
  rw [← e, BitVec.getLsbD_and, ht] at hci
  cases hci

/-! ### The publication at the engine (R64, R71, R78, R79) -/

namespace State

variable {s : State} {p : Publication}

/-- A consignment after the publication: stepped and tested, or left alone. -/
def engineStepped (s : State) (p : Publication) (x : Consignment) : Consignment :=
  match s.stepWith p x with
  | some (z, air) => (s.stepOf p x z air).trigger (newCauses (s.stepOf p x z air) z)
  | none => x

/-- The claim requests that the publication makes for a slot. -/
def engineRequests (s : State) (p : Publication) (j : Fin 32) : List ClaimRequest :=
  match s.cons.read j with
  | none => []
  | some x =>
    match s.stepWith p x with
    | some (z, air) => (newCauses (s.stepOf p x z air) z).map fun c =>
        { slot := j, id := x.id, cause := c, comp := x.comp, second := p.second }
    | none => []

theorem engineSlot_eq (s : State) (p : Publication) (j : Fin 32) : engineSlot p s j = { s with
    cons := s.cons.write j ((s.cons.read j).map (s.engineStepped p))
    claims := { s.claims with requests := s.claims.requests ++ s.engineRequests p j } } := by
  unfold engineSlot engineRequests
  cases hx : s.cons.read j with
  | none =>
    have hc : s.cons.write j none = s.cons := hx ▸ Table.write_read ..
    simp only [Option.map_none, hc, List.append_nil]
  | some x =>
    cases hw : s.stepWith p x with
    | none =>
      have hc : s.cons.write j (some x) = s.cons := hx ▸ Table.write_read ..
      simp only [Option.map_some, engineStepped, hw, hc, List.append_nil]
    | some w => simp only [Option.map_some, engineStepped, hw]; rfl

/-- The requests of a slot follow from that slot alone: the engine's work on another slot leaves them. -/
theorem engineRequests_engineSlot {i j : Fin 32} (h : i ≠ j) :
    (engineSlot p s j).engineRequests p i = s.engineRequests p i := by
  rw [engineSlot_eq]
  simp only [engineRequests, Table.read_write_other _ _ h]
  rfl

/-- The slots of a list, each once: every one is stepped as the state before found it. -/
theorem foldl_engineSlot (p : Publication) {js : List (Fin 32)} (hjs : js.Nodup) : ∀ s : State,
    js.foldl (engineSlot p) s = { s with
      cons := s.cons.mapIdx fun j x => if j ∈ js then x.map (s.engineStepped p) else x
      claims := { s.claims with requests := s.claims.requests ++ js.flatMap (s.engineRequests p) } } := by
  induction js with
  | nil => intro s; simp
  | cons j js ih =>
    intro s
    obtain ⟨hj, hjs⟩ := List.nodup_cons.mp hjs
    have hr : js.flatMap ((engineSlot p s j).engineRequests p) = js.flatMap (s.engineRequests p) :=
      List.flatMap_congr fun i hi => engineRequests_engineSlot (ne_of_mem_of_not_mem hi hj)
    rw [List.foldl_cons, ih hjs, hr, List.flatMap_cons, ← List.append_assoc, engineSlot_eq]
    congr 1
    refine Table.ext_read fun i => ?_
    simp only [Table.read_mapIdx, Table.read_write, List.mem_cons]
    by_cases hi : i = j
    · subst hi; simp [hj]
    · simp only [hi, if_false, false_or]; rfl

/-- The publication steps every consignment as the state before found it, and hands on the requests slot by slot. -/
theorem engineTake_eq {rest : List Publication} (h : s.pubs.engine = p :: rest) : s.engineTake = { s with
    pubs := { s.pubs with engine := rest }
    cons := s.cons.mapIdx fun _ x => x.map (s.engineStepped p)
    claims := { s.claims with requests := s.claims.requests ++ (List.finRange 32).flatMap (s.engineRequests p) } } := by
  simp only [engineTake, h]
  rw [foldl_engineSlot p (List.nodup_finRange 32)]
  simp only [List.mem_finRange, if_true]
  rfl

theorem stepWith_out {x : Consignment} (h : x.inCustody = false) : s.stepWith p x = none := by
  unfold stepWith
  split
  · rw [h]; rfl
  · rfl

theorem stepWith_custody {x : Consignment} {z : Zone} {r : AirRecord} (h : x.inCustody = true)
    (hz : s.zoneOf x.comp = some z) (hr : p.air.read x.comp = some r) (ha : r.lost = true ∨ r.a ≠ none) :
    s.stepWith p x = some (z, if r.lost then none else r.a) := by
  have hb : (x.inCustody && (r.lost || r.a.isSome)) = true := by
    rw [h, Bool.true_and, Bool.or_eq_true, Option.isSome_iff_ne_none]; exact ha
  simp only [stepWith, hz, hr, hb, if_true]

theorem engineStepped_out {x : Consignment} (h : x.inCustody = false) : s.engineStepped p x = x := by
  simp only [engineStepped, stepWith_out h]

/-- A consignment that is stepped keeps everything but its exposure; the triggered set grows by the causes passed. -/
theorem engineStepped_custody {x : Consignment} {z : Zone} {air : Option Int} {w : Exposure}
    (h : s.stepWith p x = some (z, air))
    (hw : w = Exposure.subSteps z air (s.doseClass x.comp) (equivalents p.parked) x.exposure) :
    s.engineStepped p x = { x with exposure := { w with
      triggered := x.exposure.triggered ||| passedSet { x with exposure := w } z } } := by
  subst hw
  simp only [engineStepped, h, trigger_newCauses]
  simp only [stepOf, Exposure.subSteps_triggered]

/-- A cause newly passed at the stepped consignment is among the requests of its slot. -/
theorem mem_engineRequests {j : Fin 32} {x : Consignment} {z : Zone} {air : Option Int} {w : Exposure} {i : Fin 5}
    (hx : s.cons.read j = some x) (h : s.stepWith p x = some (z, air))
    (hw : w = Exposure.subSteps z air (s.doseClass x.comp) (equivalents p.parked) x.exposure)
    (hi : (passedSet { x with exposure := w } z).getLsbD i.val = true)
    (ht : x.exposure.triggered.getLsbD i.val = false) :
    ({ slot := j, id := x.id, cause := single i, comp := x.comp, second := p.second } : ClaimRequest) ∈
      s.engineRequests p j := by
  subst hw
  simp only [engineRequests, hx, h]
  refine List.mem_map.mpr ⟨single i, single_mem_newCauses hi ?_, rfl⟩
  simpa only [stepOf, Exposure.subSteps_triggered] using ht

end State

/-- Settles O28. -/
theorem engineStepsEveryConsignmentInCustody : Obligations.EngineStepsEveryConsignmentInCustody := by
  unfold Obligations.EngineStepsEveryConsignmentInCustody
  intro s p rest hp
  refine ⟨_, rfl, ?_⟩
  rw [State.engineTake_eq hp]
  refine ⟨rfl, ⟨_, rfl⟩, fun j hj => ?_, fun j x hx hc => ?_, ?_⟩
  · simp [hj]
  · simp [hx, State.engineStepped_out hc]
  · intro j x z r k w past f hx hc hz hr ha hk hf hw hpast
    have hstep := State.stepWith_custody hc hz hr ha
    have hsub : w = Exposure.subSteps z (if r.lost then none else r.a) (s.doseClass x.comp) (equivalents p.parked)
        x.exposure := by
      rw [hw, hf, hk]
      cases p.parked <;> rfl
    replace hpast : past = passedSet { x with exposure := w } z := hpast
    rw [hpast]
    refine ⟨?_, fun i hi ht => ?_⟩
    · rw [Table.read_mapIdx, hx, Option.map_some, State.engineStepped_custody hstep hsub]
    · exact List.mem_append_right _ (List.mem_flatMap.mpr
        ⟨j, List.mem_finRange j, State.mem_engineRequests hx hstep hsub hi ht⟩)

end Sys2Proof.Machine

namespace Sys2Proof.Machine

/-! ## LIST, UNLOAD and DROP (file 05) -/

/-! ### LIST (R85 to R88, R200) -/

/-- The first entry of a table that satisfies a test. -/
theorem findIdx?_of_first {α : Type} {n : Nat} {t : Table α n} {p : α → Bool} {i : Fin n} (hi : p (t.read i) = true)
    (hlt : ∀ j, j < i → p (t.read j) = false) : t.findIdx? p = some i := by
  rw [Table.findIdx?, List.find?_eq_findSome?_guard]
  exact findSome?_finRange (Option.guard_eq_some_iff.mpr ⟨rfl, hi⟩) fun j hj => by simp [Option.guard, hlt j hj]

theorem takesList_iff (m : Mode) : m.takesList = true ↔ m = .setup ∨ m = .service ∨ m = .parked := by
  cases m <;> simp [Mode.takesList]

/-- An id that no consignment carries is in no slot (R85). -/
theorem State.slotOf_none {s : State} {id : BitVec 32} (h : ∀ i x, s.cons.read i = some x → x.id ≠ id) :
    s.slotOf id = none := by
  refine List.find?_eq_none.mpr fun i _ => ?_
  cases hx : s.cons.read i with
  | none => simp
  | some x => simpa using h i x hx

/-- The lowest-numbered free slot (R85). -/
theorem State.freeSlot_lowest {s : State} {j : Fin 32} (hj : s.cons.read j = none)
    (hlt : ∀ i, i < j → s.cons.read i ≠ none) : s.freeSlot = some j :=
  findIdx?_of_first (by simp [hj]) fun i hi => Option.isNone_eq_false_iff.mpr (Option.isSome_iff_ne_none.mpr (hlt i hi))

/-- A carried dose clamped to its range (R86). -/
theorem clampNat_dose (w : Option (BitVec 32)) :
    (w.map fun x => clampNat 0 maxBucket x.toNat) = w.map fun x => min 16777215 x.toNat := by
  simp [clampNat, maxBucket]

/-- CLAMPED is answered when one of two conditions holds. -/
theorem clampedIf_or (a b : Bool) : clampedIf (a || b) = if a = false ∧ clampedIf b = .ok then .ok else .clamped := by
  cases a <;> cases b <;> rfl

section manifest

variable {h : Header} {id : BitVec 32} {s : State} {j : Fin 32} {x : Consignment}

/-- The status of LIST: CLAMPED where the dose or the estimate is not stored as given (R88, R200). -/
theorem clampedIf_list {dose : Option (BitVec 32)} {d : Option Nat} {w : Option (BitVec 16)} {e : Option Int}
    (he : e = (optTemp w).map clampTemp) :
    clampedIf (d != dose.map BitVec.toNat || e != optTemp w) =
      if d = dose.map BitVec.toNat ∧ (w = none ∨ w = some 0x8000#16 ∨ e = w.map BitVec.toInt) then .ok else .clamped := by
  rw [clampedIf_or, clampedIf_optTemp w he]
  by_cases hw : w = none ∨ w = some 0x8000#16 ∨ e = w.map BitVec.toInt <;> simp [hw]

/-- Settles O29. -/
theorem listFillsTheLowestFreeSlot : Obligations.ListFillsTheLowestFreeSlot := by
  unfold Obligations.ListFillsTheLowestFreeSlot
  intro h id comp stop dose shock source w s c j d e hs hm hc hu hstop hsource hid hj hlt hd he
  rw [← clampNat_dose] at hd
  rw [← optTemp_clamped] at he
  rw [← clampedIf_list he]
  subst hd he
  refine (next_take_taken hs _).trans ?_
  have hargs : ¬ (stop = 0#8 ∨ source = some 0#32) := not_or.mpr ⟨hstop, hsource⟩
  simp only [(takesList_iff _).mpr hm, index_of_val hc, hargs, State.slotOf_none hid, State.freeSlot_lowest hj hlt, hu,
    Bool.not_true, Bool.false_eq_true, Option.isSome_none, if_false]
  rfl

/-! ### UNLOAD and DROP (R87, R93, R99, R100, R118) -/

/-- With no claim request outstanding none has to be taken first. -/
theorem State.drainRequests_nil (h : s.claims.requests = []) : s.drainRequests = s := by
  have hs : ({ s with claims := { s.claims with requests := [] } } : State) = s := by rw [← h]
  rw [drainRequests, h, List.foldl_nil, hs]

theorem unload_heldBack (hs : Taken .manifest h s) (hx : s.byId id = some (j, x)) {st : Status}
    (hst : heldBack x = some st) : exec (.unload h id) s = .next (s.respond h st []) := by
  refine (next_take_taken hs _).trans ?_
  simp only [hx, hst]

theorem unload_taken (hs : Taken .manifest h s) (hx : s.byId id = some (j, x)) (hst : heldBack x = none)
    (hr : s.claims.requests = []) :
    exec (.unload h id) s = .next ((s.unloadSlot j x).respond h .ok (u8 j.val ++ u8 5 ++
      u32 ((s.custodySeconds (s.unloaded x)).getD 0) ++ u32 (s.unloaded x).doorSeconds ++ optNumber x.claim)) := by
  refine (next_take_taken hs _).trans ?_
  simp only [State.drainRequests_nil hr, hx, hst]
  rfl

theorem drop_taken (hs : Taken .manifest h s) (hx : s.byId id = some (j, x)) :
    exec (.drop h id) s = .next (
      if x.state = .handingOver then s.respond h .busy []
      else if x.inCustody then s.respond h .badState []
      else if x.claim.isSome then s.respond h .claimHeld []
      else (s.putCons j none).respond h .ok (u8 j.val ++ word32 id)) := by
  refine (next_take_taken hs _).trans ?_
  simp only [hx]

/-- The consignment that an UNLOAD leaves, by its fields (R93, R99). -/
theorem unloaded_eq {b : BitVec 32} (hx : x.inCustody = true) (hb : x.doorBase = some b) :
    s.unloaded x = { x with
      doorSeconds := min (x.doorSeconds + (s.lines.counters.read x.comp - b).toNat) 4294967295
      doorBase := none, custodyEnd := some s.now, state := .unloaded } := by
  rw [State.unloaded, State.closeOff, liveDoor_custody hx hb]

theorem custodySeconds_unloaded {start : Nat} (hx : x.custodyStart = some start) :
    s.custodySeconds (s.unloaded x) = some (s.now - start) := by
  change x.custodyStart.map _ = _
  rw [hx]; rfl

/-- A claim that is not GATHERING, or none, is left as it is (R118). -/
theorem State.freezeOpen_settled (hk : ∀ i k, s.claimOf x = some (i, k) → k.state ≠ .gathering) : s.freezeOpen x = s := by
  unfold freezeOpen
  split
  · next i k hx => rw [if_neg (hk i k hx)]
  · rfl

/-- A GATHERING claim is frozen to OPEN with its snapshot (R118). -/
theorem State.freezeOpen_gathering {i : Fin 16} {k : Claim} (hx : s.claimOf x = some (i, k)) (hk : k.state = .gathering) :
    s.freezeOpen x = s.freeze i k .opened
      { buckets := x.exposure.buckets, shocks := x.totalShocks, peak := x.exposure.peak, e := x.exposure.e } none := by
  simp only [freezeOpen, hx, hk, if_true]

theorem unloadSlot_settled (hk : ∀ i k, s.claimOf x = some (i, k) → k.state ≠ .gathering) :
    s.unloadSlot j x = (s.putCons j (some (s.unloaded x))).request (.unload j x.comp x.id
      ((s.custodySeconds (s.unloaded x)).getD 0) (s.unloaded x).doorSeconds x.episodes x.ownDose x.totalDose) :=
  congrArg (State.request · _) (State.freezeOpen_settled (s := s.putCons j _) (x := s.unloaded x) hk)

theorem unloadSlot_gathering {i : Fin 16} {k : Claim} (hx : s.claimOf x = some (i, k)) (hk : k.state = .gathering) :
    s.unloadSlot j x = ((s.putCons j (some (s.unloaded x))).freeze i k .opened
        { buckets := x.exposure.buckets, shocks := x.totalShocks, peak := x.exposure.peak, e := x.exposure.e } none).request
      (.unload j x.comp x.id ((s.custodySeconds (s.unloaded x)).getD 0) (s.unloaded x).doorSeconds x.episodes x.ownDose
        x.totalDose) :=
  congrArg (State.request · _) (State.freezeOpen_gathering (s := s.putCons j _) (x := s.unloaded x) hx hk)

/-- Settles O32. -/
theorem unloadAndDropEndTheOccupancy : Obligations.UnloadAndDropEndTheOccupancy := by
  unfold Obligations.UnloadAndDropEndTheOccupancy
  intro h id s j x hs hx
  rw [drop_taken hs hx]
  refine ⟨fun hh => ?_, fun hh => ?_, fun hh => ?_⟩
  · exact ⟨unload_heldBack hs hx (by simp only [heldBack, hh]), congrArg Host.Outcome.next (if_pos hh)⟩
  · have hheld : heldBack x = some .badState := by rcases hh with hh | hh | hh <;> simp only [heldBack, hh]
    have hnot : x.state ≠ .handingOver := by rcases hh with hh | hh | hh <;> simp [hh]
    have hout : x.inCustody = false := by rcases hh with hh | hh | hh <;> simp [Consignment.inCustody, hh]
    rw [if_neg hnot, if_neg (by simp [hout])]
    refine ⟨unload_heldBack hs hx hheld, fun hc => ?_, fun hc => ?_⟩
    · rw [if_pos (Option.isSome_iff_ne_none.mpr hc)]
    · rw [if_neg (by simp [hc])]; rfl
  · have hnot : x.state ≠ .handingOver := by rcases hh with hh | hh <;> simp [hh]
    have hin := inCustody_of_held hh
    refine ⟨by rw [if_neg hnot, if_pos hin], fun b n start y hr hb hstart _ hn hy => ?_⟩
    have hunloaded : s.unloaded x = y := by rw [unloaded_eq hin hb, hy, hn]
    rw [unload_taken hs hx (heldBack_none hh) hr]
    refine ⟨fun hk => ?_, fun i k hk hg => ?_⟩
    · rw [unloadSlot_settled hk, custodySeconds_unloaded hstart, hunloaded, hy]; rfl
    · rw [unloadSlot_gathering hk hg, custodySeconds_unloaded hstart, hunloaded, hy]
      simp only [State.freeze, State.request, List.append_assoc]
      rfl

end manifest

end Sys2Proof.Machine

namespace Sys2Proof.Machine

/-! ## The history store (file 08) -/

/-! ### The pending queue (R91, R154, R155) -/

/-- What the last element with a property leaves when it is taken out. -/
theorem eraseLast_append {α : Type} {p : α → Bool} {a b : List α} {q : α} (hq : p q = true) (hb : ∀ y ∈ b, p y = false) :
    eraseLast p (a ++ q :: b) = a ++ b := by
  have hr : ∀ y ∈ b.reverse, ¬ p y = true := fun y hy => by simp [hb y (List.mem_reverse.mp hy)]
  simp [eraseLast, List.eraseP_append_right _ hr, hq]

/-- The newest SAMPLE taken out of the queue: it is the head, where nothing stands before it (R155). -/
theorem History.displaceSample_eq {h : History} {a b : List Queued} {q : Queued} (hh : h.queue = a ++ q :: b)
    (hq : q.isSample = true) (hb : ∀ y ∈ b, y.isSample = false) :
    h.displaceSample = { h with
      queue := a ++ b
      queuedSamples := h.queuedSamples - 1
      droppedSamples := min (h.droppedSamples + 1) 65535
      program := if a = [] then h.program.map Program.displace else h.program } := by
  have hhead : ((h.queue.drop 1).any Queued.isSample = true) ↔ a ≠ [] := by
    rw [hh]
    cases a with
    | nil => simpa using hb
    | cons x xs => simp [hq]
  simp only [displaceSample, hh ▸ eraseLast_append hq hb, hhead, ne_eq, ite_not]
  rfl

namespace State

variable {s : State} {m : Mark}

/-- The consignment that a LOAD mark names, changed; any other record changes none. -/
def modLoad (s : State) (b : Body) (f : Consignment → Consignment) : State :=
  match b.loadSlot? with
  | some j => s.modCons j f
  | none => s

theorem modLoad_none {b : Body} (h : b.loadSlot? = none) (f : Consignment → Consignment) : s.modLoad b f = s := by
  rw [modLoad, h]

theorem modLoad_frame (b : Body) (f : Consignment → Consignment) :
    s.modLoad b f = { s with cons := (s.modLoad b f).cons } := by
  unfold modLoad
  split <;> rfl

theorem modLoad_cons (b : Body) (f : Consignment → Consignment) (j : Fin 32) :
    (s.modLoad b f).cons.read j = (s.cons.read j).map fun x => if b.loadSlot? = some j then f x else x := by
  unfold modLoad
  split
  · next i hi =>
    rw [modCons_cons, Table.read_modify, hi]
    by_cases hj : j = i
    · simp [hj]
    · simp [hj, Ne.symm hj]
  · next hi => simp [hi]

/-- A dropped LOAD mark clears load mark outstanding in its slot (R91). -/
theorem markDropped_eq (s : State) (m : Mark) :
    s.markDropped m = s.modLoad (.mark m) fun x => { x with loadMarkOutstanding := false } := by
  cases m <;> rfl

/-- A mark joins a queue that has room (R154). -/
theorem createMark_room (hq : s.hist.queue.length < 8) : s.createMark m = { s with hist := { s.hist with
    queue := s.hist.queue ++ [{ time := s.now, body := .mark m }], queuedMarks := s.hist.queuedMarks + 1 } } := by
  rw [createMark, if_pos hq]
  rfl

/-- From a full queue a mark displaces the newest SAMPLE (R155). -/
theorem createMark_displacing {a b : List Queued} {q : Queued} (hq : 8 ≤ s.hist.queue.length)
    (hh : s.hist.queue = a ++ q :: b) (hsample : q.isSample = true) (hb : ∀ y ∈ b, y.isSample = false) :
    s.createMark m = { s with hist := { s.hist with
      queue := a ++ b ++ [{ time := s.now, body := .mark m }]
      queuedSamples := s.hist.queuedSamples - 1
      queuedMarks := s.hist.queuedMarks + 1
      droppedSamples := min (s.hist.droppedSamples + 1) 65535
      program := if a = [] then s.hist.program.map Program.displace else s.hist.program } } := by
  have hany : s.hist.queue.any Queued.isSample = true := List.any_eq_true.mpr ⟨q, by simp [hh], hsample⟩
  rw [createMark, if_neg (Nat.not_lt.mpr hq), if_pos hany, modHist, History.displaceSample_eq hh hsample hb]
  rfl

/-- With eight marks in the queue a mark is dropped and counted (R91, R155). -/
theorem createMark_dropped (hq : 8 ≤ s.hist.queue.length) (hno : ∀ y ∈ s.hist.queue, y.isSample = false) :
    s.createMark m = (s.modHist fun h => { h with droppedMarks := bump h.droppedMarks }).modLoad (.mark m)
      fun x => { x with loadMarkOutstanding := false } := by
  rw [createMark, if_neg (Nat.not_lt.mpr hq), if_neg (by simpa using hno), markDropped_eq]

theorem exec_markRequest {rest : List Mark} (hm : s.marks = m :: rest) : exec .markRequest s =
    .next (if s.ctl.mode = .start then s else ({ s with marks := rest } : State).createMark m) := by
  change Host.Outcome.next s.takeMark = _
  rw [takeMark, hm]

end State

/-- Settles O43. -/
theorem marksDisplaceTheNewestSample : Obligations.MarksDisplaceTheNewestSample := by
  unfold Obligations.MarksDisplaceTheNewestSample
  intro s m rest hm
  rw [State.exec_markRequest hm]
  refine ⟨fun hs => by rw [if_pos hs], fun hs => ?_⟩
  rw [if_neg hs]
  refine ⟨fun hq => ?_, fun a q b hq hh hsample hb => ?_, fun hq hno => ⟨_, rfl, ?_, fun j => ?_⟩⟩
  · exact congrArg _ (State.createMark_room (s := { s with marks := rest }) hq)
  · exact congrArg _ (State.createMark_displacing (s := { s with marks := rest }) hq hh hsample hb)
  · rw [State.createMark_dropped (s := { s with marks := rest }) hq hno, State.modLoad_frame]
    rfl
  · rw [State.createMark_dropped (s := { s with marks := rest }) hq hno, State.modLoad_cons]
    rfl

end Sys2Proof.Machine
namespace Sys2Proof.Machine

/-! ### Held reads (R157, R189) -/

/-- Records are put in order by an insertion sort on their sequences. -/
theorem sortRecords_eq_insertionSort (rs : List Record) :
    sortRecords rs = rs.insertionSort (Record.sequence ⁻¹'o (· ≤ ·)) := by
  have hinsert : ∀ r xs, insertRecord r xs = xs.orderedInsert (Record.sequence ⁻¹'o (· ≤ ·)) r := fun r xs => by
    induction xs with
    | nil => rfl
    | cons x xs ih => simp only [insertRecord, List.orderedInsert_cons, ih, Order.Preimage]
  induction rs with
  | nil => rfl
  | cons r rs ih => rw [List.insertionSort_cons, ← ih, ← hinsert]; rfl

theorem mem_sortRecords {x : Record} {rs : List Record} : x ∈ sortRecords rs ↔ x ∈ rs := by
  rw [sortRecords_eq_insertionSort, List.mem_insertionSort]

theorem pairwise_sortRecords (rs : List Record) : (sortRecords rs).Pairwise fun a b => a.sequence ≤ b.sequence := by
  rw [sortRecords_eq_insertionSort]
  exact List.pairwise_insertionSort _ rs

namespace State

variable {s t u : State}

/-- The records of an answer are the first readable ones from the sequence given upward (R157). -/
theorem firstRecords_recordsFrom (s : State) (a n : Nat) : s.hist.FirstRecords a n (s.recordsFrom a n) := by
  have hmem : ∀ r, r ∈ sortRecords (s.hist.readable.filter fun r => decide (a ≤ r.sequence)) ↔
      r ∈ s.hist.readable ∧ a ≤ r.sequence := fun r => by rw [mem_sortRecords, List.mem_filter, decide_eq_true_eq]
  have hsorted := pairwise_sortRecords (s.hist.readable.filter fun r => decide (a ≤ r.sequence))
  unfold recordsFrom
  generalize sortRecords (s.hist.readable.filter fun r => decide (a ≤ r.sequence)) = l at hmem hsorted
  refine ⟨fun r hr => (hmem r).mp (List.mem_of_mem_take hr), List.length_take_le n l,
    hsorted.sublist (List.take_sublist n l), fun r hr har hnot => ⟨?_, fun x hx => ?_⟩⟩
  · refine List.length_take_of_le (le_of_not_ge fun hl => hnot ?_)
    rw [List.take_of_length_le hl]
    exact (hmem r).mpr ⟨hr, har⟩
  · rw [← List.take_append_drop n l] at hsorted hmem
    have hdrop := (List.mem_append.mp ((hmem r).mpr ⟨hr, har⟩)).resolve_left hnot
    exact (List.pairwise_append.mp hsorted).2.2 x hx r hdrop

/-- The response that answers a held READ_HISTORY (R157). -/
def readResponse (s : State) (r : HeldRead) : Response where
  status := clampedIf (clampNat 1 7 r.count != r.count)
  tag := r.tag
  data := s.historyBytes (s.recordsFrom r.fromSequence (clampNat 1 7 r.count))

theorem responses_answerRead (s : State) (r : HeldRead) (q : Port) : ((s.answerRead r).ports.at q).responses =
    (s.ports.at q).responses ++ if r.port == q then [s.readResponse r] else [] := by
  by_cases h : r.port = q
  · subst h
    simp [answerRead, readResponse]
  · simp [answerRead, PerPort.at_put_other _ _ (Ne.symm h), h]

/-- Reads answered one after another are each answered with what stands in the store (R157). -/
theorem responses_foldl_answerRead (q : Port) (rs : List HeldRead) : ∀ s : State,
    ((rs.foldl answerRead s).ports.at q).responses =
      (s.ports.at q).responses ++ (rs.filter fun r => r.port == q).map s.readResponse := by
  induction rs with
  | nil => exact fun s => (List.append_nil _).symm
  | cons r rs ih =>
    intro s
    have hsame : (s.answerRead r).readResponse = s.readResponse := rfl
    rw [List.foldl_cons, ih, responses_answerRead, hsame, List.filter_cons, List.append_assoc]
    split <;> rfl

theorem landed_inFlight {c : LongCommand} {q : Port} {f : InFlight} (h : ((s.landed c).ports.at q).inFlight = some f) :
    f.command ≠ c := by
  simp only [landed, PerPort.at_map, Option.filter_eq_some_iff, bne_iff_ne] at h
  exact h.2

theorem answerReads_frame (s : State) : s.answerReads = { s with ports := s.answerReads.ports, heldReads := [] } := by
  unfold answerReads
  split
  · next h => rw [← List.isEmpty_iff.mp h]
  · obtain ⟨hf, -⟩ := StoreMoves.answerReads_fold s.heldReads s
    generalize s.heldReads.foldl answerRead s = t at hf
    rw [hf]
    rfl

theorem responses_answerReads (s : State) (q : Port) : (s.answerReads.ports.at q).responses =
    (s.ports.at q).responses ++ (s.heldReads.filter fun r => r.port == q).map s.readResponse := by
  rw [← responses_foldl_answerRead]
  unfold answerReads
  split
  · next h => rw [List.isEmpty_iff.mp h]; rfl
  · simp [landed]

/-- Every held read is answered, and none is in flight any more (R157, R189). -/
theorem readsAnswered_answerReads (s : State) : s.ReadsAnswered s.answerReads where
  none := by rw [answerReads_frame]
  answers := by
    refine ⟨fun r => s.recordsFrom r.fromSequence (clampNat 1 7 r.count), fun r _ => ?_, fun q => ?_⟩
    · rw [answerReads_frame]
      exact s.firstRecords_recordsFrom _ _
    · rw [responses_answerReads, answerReads_frame]
      refine congrArg _ (List.map_congr_left fun r _ => ?_)
      rw [readResponse, clampedIf_bne]
      simp only [eq_comm (a := r.count)]
      rfl
  landed := by
    intro hne q f hf
    have hheld : s.heldReads.isEmpty = false := List.isEmpty_eq_false_iff.mpr hne
    rw [answerReads, hheld, if_neg Bool.false_ne_true] at hf
    exact landed_inFlight hf

/-- Reads are answered as well from an earlier state that held the same and had been answered the same. -/
theorem ReadsAnswered.of_agree (h : u.ReadsAnswered t) (hr : u.heldReads = s.heldReads)
    (hp : ∀ q, (u.ports.at q).responses = (s.ports.at q).responses) : s.ReadsAnswered t where
  none := h.none
  answers := by simpa only [hr, hp] using h.answers
  landed := by simpa only [hr] using h.landed

theorem responses_judgeUpload (s : State) (q : Port) :
    (s.judgeUpload.ports.at q).responses = (s.ports.at q).responses := by
  unfold judgeUpload
  split
  · exact responses_raise _ _ q
  · split <;> rfl

/-! ### The writer (R91, R147, R156) -/

theorem gapWaits_iff {h : History} : h.gapWaits = true ↔ h.gapDue = true ∨ h.droppedSamples ≠ 0 ∨ h.droppedMarks ≠ 0 := by
  simp [History.gapWaits, or_assoc]

/-- With a free slot and no program in flight the writer starts a GAP before the head of the queue (R147, R156). -/
theorem nextProgram_eq {i : Fin 16} (hp : s.powered = true) (hm : s.ctl.mode ≠ .start) (hn : s.hist.program = none)
    (hi : s.hist.current = some i) (hfree : (s.hist.sectors.read i).slots.length < 512) : s.nextProgram =
      if s.hist.gapWaits then some (.gap s.now s.hist.droppedSamples s.hist.droppedMarks)
      else s.hist.queue.head?.map .head := by
  simp [nextProgram, hp, hm, hn, History.hasFreeSlot, hi, hfree]

theorem exec_historyProgramStart {p : Program} (h : s.nextProgram = some p) :
    exec .historyProgramStart s = .next { s with hist := { s.hist with program := some p } } := by
  change execHistoryProgramStart s = _
  rw [execHistoryProgramStart, h]
  rfl

theorem fillSlot_current {i : Fin 16} (hi : s.hist.current = some i) (x : Slot) :
    s.fillSlot x = { s with hist := { s.hist with
      sectors := s.hist.sectors.write i
        { s.hist.sectors.read i with slots := (s.hist.sectors.read i).slots ++ [x] } } } := by
  rw [fillSlot, hi]
  rfl

/-- A LOAD mark written hands its sequence to the consignment that waits for it (R91). -/
theorem loadWritten_eq (s : State) (r : Record) : s.loadWritten r = s.modLoad r.body fun x =>
    if x.loadMarkOutstanding then { x with loadMarkOutstanding := false, startSequence := some r.sequence } else x := by
  obtain ⟨n, time, body⟩ := r
  rcases body with _ | m | _ <;> [rfl; cases m <;> rfl; rfl]

/-- A completed program before upload-wanted is judged and the held reads are answered (R147). -/
def programmed (s : State) (p : Program) : State :=
  ((((s.fillSlot (.record (s.programRecord p))).modHist fun h =>
    { h with newest := (s.programRecord p).sequence, program := none }).settleProgram p).loadWritten (s.programRecord p))

theorem completeProgram_eq (s : State) (p : Program) : s.completeProgram p = (s.programmed p).judgeUpload.answerReads := rfl

theorem exec_historyProgramComplete {p : Program} (h : s.hist.program = some p) :
    exec .historyProgramComplete s = .next (s.completeProgram p) := by
  change execHistoryProgramComplete s = _
  rw [execHistoryProgramComplete, h]

theorem exec_historyProgramFailure {p : Program} (h : s.hist.program = some p) :
    exec .historyProgramFailure s = .next (s.failProgram p) := by
  change execHistoryProgramFailure s = _
  rw [execHistoryProgramFailure, h]

/-- Up to the judging of upload-wanted a completion touches the store and the consignments alone. -/
theorem programmed_frame (s : State) (p : Program) :
    s.programmed p = { s with hist := (s.programmed p).hist, cons := (s.programmed p).cons } := by
  have hfill : ∀ x, s.fillSlot x = { s with hist := (s.fillSlot x).hist } := fun x => by
    unfold fillSlot; split <;> rfl
  have hsettle : ∀ t : State, t.settleProgram p = { t with hist := (t.settleProgram p).hist } := fun t => by
    cases p <;> rfl
  rw [programmed, loadWritten_eq, modLoad_frame, hsettle, hfill]
  rfl

/-- Every completion answers the READ_HISTORY commands that are held (R157). -/
theorem readsAnswered_completeProgram (s : State) (p : Program) : s.ReadsAnswered (s.completeProgram p) := by
  rw [completeProgram_eq]
  refine (readsAnswered_answerReads _).of_agree ?_ fun q => ?_
  · rw [judgeUpload_frame, programmed_frame]
  · rw [responses_judgeUpload, programmed_frame]

theorem completeProgram_frame (s : State) (p : Program) : s.completeProgram p = { s.programmed p with
    hist := { (s.programmed p).hist with uploadWanted := (s.completeProgram p).hist.uploadWanted }
    ports := (s.completeProgram p).ports
    heldReads := [] } := by
  rw [completeProgram_eq, answerReads_frame, judgeUpload_frame]

section programmed

variable {i : Fin 16} (hi : s.hist.current = some i)

include hi

theorem programmed_head (q : Queued) : s.programmed (.head q) = ({ s with hist := { s.hist with
      sectors := s.hist.sectors.write i { s.hist.sectors.read i with slots := (s.hist.sectors.read i).slots ++
        [.record { sequence := nextNumber s.hist.newest, time := q.time, body := q.body }] }
      newest := nextNumber s.hist.newest
      program := none
      queue := s.hist.queue.drop 1
      queuedSamples := if q.isSample then s.hist.queuedSamples - 1 else s.hist.queuedSamples
      queuedMarks := if q.isSample then s.hist.queuedMarks else s.hist.queuedMarks - 1 } } : State).modLoad q.body fun x =>
    if x.loadMarkOutstanding then
      { x with loadMarkOutstanding := false, startSequence := some (nextNumber s.hist.newest) }
    else x := by
  rw [programmed, loadWritten_eq, fillSlot_current hi]
  rfl

/-- A displaced SAMPLE takes nothing from the queue (log 22). -/
theorem programmed_displaced {q : Queued} (hq : q.isSample = true) : s.programmed (.displaced q) = { s with
    hist := { s.hist with
      sectors := s.hist.sectors.write i { s.hist.sectors.read i with slots := (s.hist.sectors.read i).slots ++
        [.record { sequence := nextNumber s.hist.newest, time := q.time, body := q.body }] }
      newest := nextNumber s.hist.newest
      program := none } } := by
  have hload : q.body.loadSlot? = none := by
    obtain ⟨time, body⟩ := q
    cases body <;> [rfl; cases hq; cases hq]
  rw [programmed, loadWritten_eq, fillSlot_current hi]
  exact modLoad_none hload _

theorem programmed_gap (time samples marks : Nat) : s.programmed (.gap time samples marks) = { s with
    hist := { s.hist with
      sectors := s.hist.sectors.write i { s.hist.sectors.read i with slots := (s.hist.sectors.read i).slots ++
        [.record { sequence := nextNumber s.hist.newest, time := time, body := .gap samples marks }] }
      newest := nextNumber s.hist.newest
      program := none
      droppedSamples := s.hist.droppedSamples - samples
      droppedMarks := s.hist.droppedMarks - marks
      gapDue := false } } := by
  rw [programmed, fillSlot_current hi]
  rfl

theorem failProgram_eq (p : Program) : ∃ left, s.failProgram p = { s with
    freeCount := s.freeCount + 1
    hist := { s.hist with
      program := none
      sectors := s.hist.sectors.write i { s.hist.sectors.read i with
        slots := (s.hist.sectors.read i).slots ++ [.void left], voids := (s.hist.sectors.read i).voids + 1 } } } := by
  refine ⟨leavesOf s.takeLeaves.1 (s.programRecord p), ?_⟩
  have hcur : s.takeLeaves.2.hist.current = some i := hi
  have hsectors := Table.modify_modify s.hist.sectors i
    (fun y => { y with slots := y.slots ++ [.void (leavesOf s.takeLeaves.1 (s.programRecord p))] })
    (fun y => { y with voids := y.voids + 1 })
  rw [failProgram, fillSlot_current hcur]
  dsimp only
  split
  · next a ha =>
    obtain rfl : a = i := Option.some.inj (ha.symm.trans hi)
    exact congrArg (fun x => ({ s with
      freeCount := s.freeCount + 1, hist := { s.hist with program := none, sectors := x } } : State)) hsectors
  · next hn => exact absurd (hn.symm.trans hi) nofun

end programmed

end State

/-- Settles O44. -/
theorem historyProgramsCompleteOrVoidASlot : Obligations.HistoryProgramsCompleteOrVoidASlot := by
  unfold Obligations.HistoryProgramsCompleteOrVoidASlot
  rintro s i _ hi rfl
  refine ⟨fun hp hm hn hfree => ?_, fun q r hq hr => ?_, fun q hq hsample => ?_, fun time samples marks hg => ?_,
    fun p hp => ⟨_, State.exec_historyProgramComplete hp, State.readsAnswered_completeProgram s p⟩, fun p hp => ?_⟩
  · have hnext := State.nextProgram_eq hp hm hn hi hfree
    refine ⟨fun hg => ?_, fun q rest hgap hsamples hmarks hqueue => ?_⟩
    · rw [if_pos (State.gapWaits_iff.mpr hg)] at hnext
      exact State.exec_historyProgramStart hnext
    · rw [if_neg (by simp [State.gapWaits_iff, hgap, hsamples, hmarks]), hqueue] at hnext
      exact State.exec_historyProgramStart hnext
  · subst hr
    have ht := State.completeProgram_frame s (.head q)
    refine ⟨_, State.exec_historyProgramComplete hq, ?_, ?_, fun j => ?_⟩
    all_goals
      generalize s.completeProgram (.head q) = t at ht ⊢
      rw [State.programmed_head hi] at ht
      rw [ht]
    · rw [State.modLoad_frame]
    · rw [State.modLoad_frame]
    · refine (State.modLoad_cons _ _ j).trans (congrArg (Option.map · _) (funext fun y => ?_))
      by_cases hslot : q.body.loadSlot? = some j <;> simp [hslot]
  · have ht := State.completeProgram_frame s (.displaced q)
    refine ⟨_, State.exec_historyProgramComplete hq, ?_, ?_⟩
    all_goals
      generalize s.completeProgram (.displaced q) = t at ht ⊢
      rw [State.programmed_displaced hi hsample] at ht
      rw [ht]
  · have ht := State.completeProgram_frame s (.gap time samples marks)
    refine ⟨_, State.exec_historyProgramComplete hg, ?_⟩
    generalize s.completeProgram (.gap time samples marks) = t at ht ⊢
    rw [State.programmed_gap hi] at ht
    rw [ht]
    exact ⟨rfl, rfl, rfl, rfl, rfl, rfl, rfl⟩
  · obtain ⟨left, hleft⟩ := State.failProgram_eq hi p
    exact ⟨left, (State.exec_historyProgramFailure hp).trans (congrArg _ hleft)⟩

end Sys2Proof.Machine

namespace Sys2Proof.Machine

/-! ## Claims (file 06) -/

namespace State

variable {s t : State} {x : Consignment} {i : Fin 16} {k : Claim}

/-! ### The claims table (R106) -/

theorem freeClaimSlot_lowest (hi : s.claims.table.read i = none) (hlt : ∀ a, a < i → s.claims.table.read a ≠ none) :
    s.freeClaimSlot = some i :=
  findIdx?_of_first (by simp [hi]) fun a ha => Option.isNone_eq_false_iff.mpr (Option.isSome_iff_ne_none.mpr (hlt a ha))

theorem freeClaimSlot_none (h : ∀ a, s.claims.table.read a ≠ none) : s.freeClaimSlot = none :=
  List.find?_eq_none.mpr fun a _ => by simpa using h a

theorem read_of_freeClaimSlot (h : s.freeClaimSlot = some i) : s.claims.table.read i = none := by
  simpa using List.find?_some h

theorem claimOf_none (hx : x.claim = none) : s.claimOf x = none := by rw [claimOf, hx]; rfl

/-- The claim found under a number stands in its slot and bears that number. -/
theorem claimByNumber_spec {n : Nat} (h : s.claimByNumber n = some (i, k)) :
    s.claims.table.read i = some k ∧ k.number = n := by
  obtain ⟨a, ha, h⟩ := Option.bind_eq_some_iff.mp h
  obtain ⟨m, hm, h⟩ := Option.bind_eq_some_iff.mp h
  obtain ⟨rfl, rfl⟩ := Prod.mk.inj (Option.some.inj h)
  have hn := List.find?_some ha
  rw [hm] at hn
  exact ⟨hm, by simpa using hn⟩

/-- The claim that a consignment refers to stands in its slot and bears the number of the reference. -/
theorem claimOf_spec (h : s.claimOf x = some (i, k)) : s.claims.table.read i = some k ∧ x.claim = some k.number := by
  obtain ⟨n, hn, h⟩ := Option.bind_eq_some_iff.mp h
  obtain ⟨hk, rfl⟩ := claimByNumber_spec h
  exact ⟨hk, hn⟩

/-- A lookup reads the claims table alone. -/
theorem claimOf_agree {y : Consignment} (ht : t.claims.table = s.claims.table) (hy : y.claim = x.claim) :
    t.claimOf y = s.claimOf x := by
  have hf : t.claimByNumber = s.claimByNumber := funext fun n => by simp only [claimByNumber, claimSlot, ht]
  rw [claimOf, claimOf, hf, hy]

/-! ### Claims removed (R117, R121, R122) -/

theorem pinsRequired_agree (ht : t.claims.table = s.claims.table) (hh : t.hist = s.hist) :
    t.pinsRequired = s.pinsRequired := by
  simp only [pinsRequired, claimsPresent, ht, hh]

theorem loseReference_frame (s : State) (k : Claim) : s.loseReference k = { s with cons := (s.loseReference k).cons } := by
  unfold loseReference; split <;> rfl

theorem loseReference_cons (s : State) (k : Claim) (j : Fin 32) :
    (s.loseReference k).cons.read j = (s.cons.read j).map fun y =>
      if k.cons.map Prod.fst = some j ∧ y.claim = some k.number then { y with claim := none } else y := by
  unfold loseReference
  split
  · next a id hk =>
    rw [modCons_cons, Table.read_modify, hk]
    by_cases hj : j = a
    · simp [hj]
    · simp [hj, Ne.symm hj]
  · next hk => simp [hk]

/-- While the store is not STALLED the pins recomputed are those the claims left require (R117). -/
theorem removeClaim_eq (hst : s.hist.stalled = false) (settled : Bool) : s.removeClaim i k settled = { s with
    claims := { s.claims with
      table := s.claims.table.write i none, pins := (s.putClaim i none).pinsRequired }
    cons := (s.loseReference k).cons
    marks := s.marks ++ [.claimClosed k.number settled] } := by
  have hcons : ((s.putClaim i none).loseReference k).cons = (s.loseReference k).cons := by
    unfold loseReference; split <;> rfl
  have hfree : ∀ u : State, u.hist.stalled = false → u.recomputePins = { u with
      claims := { u.claims with pins := u.pinsRequired } } := fun u hu => by rw [recomputePins]; simp only [hu]; rfl
  rw [removeClaim, hfree _ (by rw [loseReference_frame]; exact hst), loseReference_frame, hcons]
  rfl

end State

section remove

variable {h : Header} {number : BitVec 32} {s : State} {i : Fin 16} {k : Claim}

/-- What SETTLE_CLAIM and WITHDRAW_CLAIM answer when they remove a claim (R121, R122). -/
def State.claimRemoved (s : State) (h : Header) (i : Fin 16) (k : Claim) (settled : Bool) : State :=
  (s.removeClaim i k settled).respond h .ok
    (u32 k.number ++ u8 i.val ++ u8 (setSize (s.removeClaim i k settled).claims.pins))

theorem settleClaim_taken (hs : Taken .claims h s) (hk : s.claimByNumber number.toNat = some (i, k)) :
    exec (.settleClaim h number) s = .next (
      if k.state = .gathering then s.respond h .badState []
      else if s.hist.acked < k.windowLast s.hist then
        s.respond h .notUploaded (u32 (k.windowLast s.hist) ++ u32 s.hist.acked)
      else s.claimRemoved h i k true) := by
  refine (next_take_taken hs _).trans ?_
  simp only [hk]
  rfl

theorem withdrawClaim_taken (hs : Taken .claims h s) (hk : s.claimByNumber number.toNat = some (i, k)) :
    exec (.withdrawClaim h number) s = .next (
      if k.state = .presented then s.respond h .badState []
      else if k.state = .gathering ∧ s.claimDeciding k then s.respond h .busy []
      else s.claimRemoved h i k false) := by
  refine (next_take_taken hs _).trans ?_
  simp only [hk]
  rfl

/-- The removal at its answer: the frame, the pins, the answer and the reference. -/
theorem claimRemoved_spec (hst : s.hist.stalled = false) {settled : Bool} {t : State} (ht : t = s.claimRemoved h i k settled) :
    t = { s with
      claims := { s.claims with table := s.claims.table.write i none, pins := t.pinsRequired }
      cons := t.cons
      marks := s.marks ++ [.claimClosed k.number settled]
      ports := t.ports } ∧
    s.answered t h .ok (u32 k.number ++ u8 i.val ++ u8 (setSize t.claims.pins)) ∧
    t.cons = (s.loseReference k).cons := by
  have hr := State.removeClaim_eq (i := i) (k := k) hst settled
  rw [State.claimRemoved] at ht
  generalize s.removeClaim i k settled = u at hr ht
  have hpins : t.pinsRequired = (s.putClaim i none).pinsRequired :=
    State.pinsRequired_agree (by rw [ht, hr]; rfl) (by rw [ht, hr]; rfl)
  refine ⟨?_, ?_, ?_⟩
  · rw [hpins, ht, hr]; rfl
  · rw [State.answered, ht, responses_respond, hr]; rfl
  · rw [ht, hr]; rfl

end remove

/-- Settles O35. -/
theorem removedClaimsGiveUpTheirPins : Obligations.RemovedClaimsGiveUpTheirPins := by
  unfold Obligations.RemovedClaimsGiveUpTheirPins
  intro h number s i k hs hk hst
  rw [settleClaim_taken hs hk, withdrawClaim_taken hs hk]
  refine ⟨fun hg => by rw [if_pos hg], fun hg ha => ?_, fun hp => by rw [if_pos hp], fun hg hd => ?_,
    fun i' settled hi => ⟨s.claimRemoved h i k settled, ?_, ?_⟩⟩
  · rw [if_neg hg]; exact congrArg _ (if_pos ha)
  · rw [if_neg (by simp [hg]), if_pos ⟨hg, hd⟩]
  · rcases hi with ⟨rfl, rfl, hg, ha⟩ | ⟨rfl, rfl, hp, hd⟩
    · rw [settleClaim_taken hs hk, if_neg hg]
      exact congrArg _ (if_neg (Nat.not_lt.mpr ha))
    · rw [withdrawClaim_taken hs hk, if_neg hp, if_neg fun hg => by simp [hd hg.1] at hg]
  · obtain ⟨hframe, hanswer, hcons⟩ := claimRemoved_spec hst (t := s.claimRemoved h i k settled) rfl
    exact ⟨hframe, hanswer, fun j => by rw [hcons, State.loseReference_cons]⟩

end Sys2Proof.Machine

namespace Sys2Proof

/-- The entries of a table are those read at its indices. -/
theorem Table.mem_toList_iff {α : Type} {n : Nat} {t : Table α n} {a : α} : a ∈ t.toList ↔ ∃ i, t.read i = a := by
  rw [Vector.mem_toList_iff, Vector.mem_iff_getElem]
  exact ⟨fun ⟨i, hi, h⟩ => ⟨⟨i, hi⟩, h⟩, fun ⟨i, h⟩ => ⟨i.val, i.isLt, h⟩⟩

end Sys2Proof

namespace Sys2Proof.Machine

/-! ### Windows and the pin budget (R112, R114, R115) -/

theorem setSize_mono {n : Nat} {a b : BitVec n} (h : b ||| a = b) : setSize a ≤ setSize b := by
  unfold setSize membersOf
  rw [← List.countP_eq_length_filter, ← List.countP_eq_length_filter]
  refine List.countP_mono_left fun i _ hi => ?_
  rw [← h, BitVec.getLsbD_or, hi, Bool.or_true]

section windows

variable {h : History} {pins need more : BitVec 16} {first last f : Nat}

theorem fits_iff : fits h pins need = true ↔ pins ||| need = pins ∨ setSize (pins ||| need) ≤ h.usable - 4 := by
  simp only [fits, Bool.or_eq_true, beq_iff_eq, decide_eq_true_eq]
  rfl

/-- Where sectors fit, fewer of them fit as well. -/
theorem fits_of_more (hsub : more ||| need = more) (hf : fits h pins more = true) : fits h pins need = true := by
  refine fits_iff.mpr ((fits_iff.mp hf).imp (fun he => ?_) fun hle => (setSize_mono ?_).trans hle)
  · rw [← he, BitVec.or_assoc, hsub]
  · rw [BitVec.or_assoc, ← BitVec.or_assoc more, BitVec.or_comm more, BitVec.or_assoc, hsub, ← BitVec.or_assoc,
      BitVec.or_self]

/-- No record stands past the last of a window. -/
theorem sectorsHolding_past (h : History) (last : Nat) : h.sectorsHolding (last + 1) last = 0#16 := by
  have hempty : ∀ x : Sector, x.inWindow (last + 1) last = [] := fun x =>
    List.filter_eq_nil_iff.mpr fun n _ => by simp only [within, Bool.and_eq_true, decide_eq_true_eq]; omega
  simp [History.sectorsHolding, Table.indices, hempty, setOf]

/-- Past the newest a growing window needs the least (R115). -/
theorem needs_past (h : History) (f last : Nat) :
    h.needs f last true ||| h.needs (last + 1) last true = h.needs f last true := by
  simp [History.needs, sectorsHolding_past, BitVec.or_assoc]

/-- The places to which the first of a growing window may be moved (R115). -/
theorem mem_laterFirsts : f ∈ h.laterFirsts first last true ↔
    f = last + 1 ∨ ∃ a, ∃ q ∈ (h.sectors.read a).readable, q.sequence = f ∧ first ≤ f ∧ f ≤ last ∧
      ∀ p ∈ (h.sectors.read a).readable, first ≤ p.sequence → f ≤ p.sequence := by
  have hmin : ∀ x : Sector, (x.inWindow first last).min? = some f ↔
      ∃ q ∈ x.readable, q.sequence = f ∧ first ≤ f ∧ f ≤ last ∧
        ∀ p ∈ x.readable, first ≤ p.sequence → f ≤ p.sequence := by
    intro x
    simp only [List.min?_eq_some_iff, Sector.inWindow, within, List.mem_filter, List.mem_map, Bool.and_eq_true,
      decide_eq_true_eq, and_imp, forall_exists_index, forall_apply_eq_imp_iff₂]
    constructor
    · rintro ⟨⟨⟨q, hq, rfl⟩, hfirst, hlast⟩, hle⟩
      refine ⟨q, hq, rfl, hfirst, hlast, fun p hp hfp => ?_⟩
      exact (le_total p.sequence last).elim (fun hpl => hle p hp hfp hpl) fun hlp => hlast.trans hlp
    · rintro ⟨q, hq, rfl, hfirst, hlast, hle⟩
      exact ⟨⟨⟨q, hq, rfl⟩, hfirst, hlast⟩, fun p hp hfp _ => hle p hp hfp⟩
  simp only [History.laterFirsts, if_true, List.mem_append, List.mem_filterMap, List.mem_singleton, Table.mem_toList_iff,
    exists_exists_eq_and, hmin, or_comm]

/-! The window of a claim opened now, by what fits (R115). -/

theorem openWindow_fits (hf : fits h pins (h.needs first h.newest true) = true) (cut : Bool) :
    openWindow h pins first cut =
      { first := first, frontCut := cut, emptied := false, pins := pins ||| h.needs first h.newest true } := if_pos hf

theorem openWindow_moved (hn : ¬ fits h pins (h.needs first h.newest true) = true)
    (hm : f ∈ h.laterFirsts first h.newest true) (hf : fits h pins (h.needs f h.newest true) = true)
    (hle : ∀ g ∈ h.laterFirsts first h.newest true, fits h pins (h.needs g h.newest true) = true → f ≤ g) (cut : Bool) :
    openWindow h pins first cut =
      { first := f, frontCut := true, emptied := false, pins := pins ||| h.needs f h.newest true } := by
  have hmin : ((h.laterFirsts first h.newest true).filter fun g => fits h pins (h.needs g h.newest true)).min? = some f :=
    List.min?_eq_some_iff.mpr ⟨List.mem_filter.mpr ⟨hm, hf⟩, fun g hg =>
      have ⟨hg, hfg⟩ := List.mem_filter.mp hg
      hle g hg hfg⟩
  rw [openWindow, fitWindow, if_neg hn, hmin]

theorem openWindow_emptied (hn : ¬ fits h pins (h.needs first h.newest true) = true)
    (he : ¬ fits h pins (h.needs (h.newest + 1) h.newest true) = true) (cut : Bool) :
    openWindow h pins first cut = { first := h.newest + 1, frontCut := true, emptied := true, pins := pins } := by
  have hnil : ((h.laterFirsts first h.newest true).filter fun g => fits h pins (h.needs g h.newest true)) = [] :=
    List.filter_eq_nil_iff.mpr fun g _ hg => he (fits_of_more (needs_past h g h.newest) hg)
  rw [openWindow, fitWindow, if_neg hn, hnil]
  rfl

end windows

/-! The first of a window before the budget test (R112). -/

section first

variable {h : History} {x : Consignment}

theorem windowFirst_started {q : Nat} (hq : x.startSequence = some q) :
    windowFirst h x = (max q h.coveredFrom, decide (q < h.coveredFrom)) := by rw [windowFirst, hq]

theorem windowFirst_outstanding (hq : x.startSequence = none) (ho : x.loadMarkOutstanding = true) :
    windowFirst h x = (h.newest + 1, false) := by rw [windowFirst, hq]; exact if_pos ho

/-- Whether a record is covered back and of the custody's time (R112). -/
def custodyRecord (h : History) (x : Consignment) (q : Record) : Prop :=
  q ∈ h.readable ∧ h.coveredFrom ≤ q.sequence ∧ x.custodyStart.getD 0 ≤ q.time

theorem windowFirst_lost {first : Nat} (hq : x.startSequence = none) (ho : x.loadMarkOutstanding = false)
    (hf : (∃ q, custodyRecord h x q ∧ q.sequence = first ∧ ∀ p, custodyRecord h x p → first ≤ p.sequence) ∨
      (∀ q, ¬ custodyRecord h x q) ∧ first = h.newest + 1) : windowFirst h x = (first, true) := by
  have hmem : ∀ q, q ∈ h.readable.filter (fun r => decide (h.coveredFrom ≤ r.sequence) &&
      decide (x.custodyStart.getD 0 ≤ r.time)) ↔ custodyRecord h x q := fun q => by
    simp [custodyRecord]
  rw [windowFirst, hq]
  dsimp only
  rw [if_neg (by simp [ho])]
  generalize h.readable.filter _ = timed at hmem ⊢
  rcases hf with ⟨q, hc, rfl, hle⟩ | ⟨hnone, rfl⟩
  · have hmin : (timed.map fun r => r.sequence).min? = some q.sequence := by
      refine List.min?_eq_some_iff.mpr ⟨List.mem_map.mpr ⟨q, (hmem q).mpr hc, rfl⟩, fun n hn => ?_⟩
      obtain ⟨p, hp, rfl⟩ := List.mem_map.mp hn
      exact hle p ((hmem p).mp hp)
    rw [hmin]
    rfl
  · rw [List.eq_nil_iff_forall_not_mem.mpr fun q hc => hnone q ((hmem q).mp hc)]
    rfl

end first

namespace State

variable {s : State} {x : Consignment} {i : Fin 16} {j : Fin 32} {k : Claim}

/-! ### Claims opened and extended (R106, R108, R109) -/

theorem requestRewrite_frame (s : State) :
    s.requestRewrite = { s with bank := { s.bank with queue := s.requestRewrite.bank.queue } } := by
  unfold requestRewrite; split <;> rfl

theorem requestRewrite_of_bank {t : State} (h : s.bank = t.bank) :
    s.requestRewrite = { s with bank := { t.bank with queue := t.requestRewrite.bank.queue } } := by
  cases s
  cases t
  subst h
  unfold requestRewrite
  split <;> rfl

theorem mem_requestRewrite (s : State) : BankOp.counterRewrite ∈ s.requestRewrite.bank.queue := by
  unfold requestRewrite
  split
  · next h => exact List.contains_iff_mem.mp h
  · exact List.mem_append_right _ (List.mem_singleton.mpr rfl)

/-- The window of a claim opened now on a consignment. -/
def windowOf (s : State) (x : Consignment) : Window :=
  openWindow s.hist s.claims.pins (windowFirst s.hist x).1 (windowFirst s.hist x).2

/-- The claim opened now on the consignment `x` in slot `j` (R106, R109). -/
def openedClaim (s : State) (j : Fin 32) (x : Consignment) (led : BitVec 5) (reason : Option Nat) : Claim where
  number := nextNumber s.claims.counter
  cons := some (j, x.id)
  comp := x.comp
  causes := led ||| x.unclaimed
  state := .gathering
  first := (s.windowOf x).first
  last := if (s.windowOf x).emptied then some s.hist.newest else none
  frontCut := (s.windowOf x).frontCut
  endCut := (s.windowOf x).emptied
  opened := s.now
  snapshot := none
  receipt := none
  reason := reason

theorem modCons_some (hx : s.cons.read j = some x) (f : Consignment → Consignment) :
    s.modCons j f = s.putCons j (some (f x)) := by
  rw [modCons, Table.modify, hx]; rfl

theorem openClaim_eq (hx : s.cons.read j = some x) (led : BitVec 5) (reason : Option Nat) {k : Claim}
    (hk : k = s.openedClaim j x led reason) : s.openClaim i j x led reason = { s with
      claims := { s.claims with
        table := s.claims.table.write i (some k), counter := k.number, pins := (s.windowOf x).pins }
      cons := s.cons.write j (some { x with claim := some k.number, claimed := x.claimed ||| k.causes })
      bank := { s.bank with queue := s.requestRewrite.bank.queue }
      marks := s.marks ++ [.claimOpen k.number j x.id x.comp k.causes k.first k.frontCut k.endCut reason]
      ports := (s.raise .claim).ports } := by
  have htail : ∀ (u : State) (m : Mark), u.bank = s.bank → (u.requestRewrite.request m).raise .claim = { u with
      bank := { s.bank with queue := s.requestRewrite.bank.queue }, marks := u.marks ++ [m]
      ports := (u.raise .claim).ports } := fun u m hu => by rw [requestRewrite_of_bank hu]; rfl
  rw [openClaim, modCons_some (by exact hx), hk]
  exact htail _ _ rfl

theorem addCause_eq (hx : s.cons.read j = some x) (c : BitVec 5) (reason : Option Nat) :
    s.addCause i k j c reason = { s with
      claims := { s.claims with
        table := s.claims.table.write i (some { k with causes := k.causes ||| c, reason := reason.or k.reason }) }
      cons := s.cons.write j (some { x with claimed := x.claimed ||| c })
      marks := s.marks ++ [.claimCause k.number c reason]
      ports := (s.raise .claim).ports } := by
  rw [addCause, modCons_some (by exact hx)]
  rfl

/-! ### A claim request decided (R108) -/

/-- The claim requests that are left once the first has been taken. -/
def requestsLeft (s : State) (rest : List ClaimRequest) : State := { s with claims := { s.claims with requests := rest } }

section request

variable {c : BitVec 5}

theorem exec_claimRequest {r : ClaimRequest} {rest : List ClaimRequest} (hp : s.powered = true)
    (hr : s.claims.requests = r :: rest) (hx : s.cons.read r.slot = some x) (hid : x.id = r.id) (hc : x.inCustody = true) :
    exec .claimRequest s = .next ((s.requestsLeft rest).decideRequest r.slot x r.cause) := by
  change execClaimRequest s = _
  rw [execClaimRequest, if_pos hp, requestTake, hr]
  dsimp only
  rw [takeRequest]
  dsimp only
  rw [hx]
  dsimp only
  rw [if_pos (by simp [hid, hc])]
  rfl

theorem decideRequest_claimed (hx : x.claim = none) (hc : x.claimed &&& c = c) : s.decideRequest j x c = s := by
  rw [decideRequest, claimOf_none hx]; exact if_pos hc

theorem decideRequest_opens (hx : x.claim = none) (hc : x.claimed &&& c ≠ c) (hi : s.freeClaimSlot = some i) :
    s.decideRequest j x c = s.openClaim i j x c none := by
  rw [decideRequest, claimOf_none hx]
  dsimp only
  rw [if_neg hc, hi]

theorem decideRequest_overflows (hx : x.claim = none) (hc : x.claimed &&& c ≠ c) (hi : s.freeClaimSlot = none)
    (hj : s.cons.read j = some x) :
    s.decideRequest j x c = (s.putCons j (some { x with claimOverflow := true })).raise .claim := by
  rw [decideRequest, claimOf_none hx]
  dsimp only
  rw [if_neg hc, hi, ← modCons_some hj fun y => { y with claimOverflow := true }]

theorem decideRequest_settled (hx : s.claimOf x = some (i, k)) (hk : k.state ≠ .gathering) : s.decideRequest j x c = s := by
  rw [decideRequest, hx]; exact if_neg hk

theorem decideRequest_gathering (hx : s.claimOf x = some (i, k)) (hk : k.state = .gathering) :
    s.decideRequest j x c = if k.causes &&& c = c then s else s.addCause i k j c none := by
  rw [decideRequest, hx]; exact if_pos hk

end request

end State

/-- The window of a claim opened now, in the terms of R112 and R115. -/
theorem window_spec {s : State} {x : Consignment} {first : Nat} {cut : Bool} (hw : windowFirst s.hist x = (first, cut))
    {j : Fin 32} {led : BitVec 5} {reason : Option Nat} {k : Claim} (hk : k = s.openedClaim j x led reason)
    {w : Window} (he : openWindow s.hist s.claims.pins first cut = w) :
    k.first = w.first ∧ k.frontCut = w.frontCut ∧ k.last = (if w.emptied then some s.hist.newest else none) ∧
      k.endCut = w.emptied ∧ (s.windowOf x).pins = w.pins := by
  have hof : s.windowOf x = w := by rw [State.windowOf, hw, he]
  subst hk
  rw [← hof]
  exact ⟨rfl, rfl, rfl, rfl, rfl⟩

/-- The window of the claim opened, for every first, sets and places that meet R112's and R115's words. -/
theorem openedClaim_window {s : State} {x : Consignment} {j : Fin 32} {led : BitVec 5} {reason : Option Nat} {k : Claim}
    (hk : k = s.openedClaim j x led reason) {first : Nat} {cut : Bool} (hw : windowFirst s.hist x = (first, cut)) :
    (fits s.hist s.claims.pins (s.hist.needs first s.hist.newest true) = true →
      k.first = first ∧ k.frontCut = cut ∧ k.last = none ∧ k.endCut = false ∧
        (s.windowOf x).pins = s.claims.pins ||| s.hist.needs first s.hist.newest true) ∧
    (¬ fits s.hist s.claims.pins (s.hist.needs first s.hist.newest true) = true → ∀ f,
      f ∈ s.hist.laterFirsts first s.hist.newest true →
      fits s.hist s.claims.pins (s.hist.needs f s.hist.newest true) = true →
      (∀ g ∈ s.hist.laterFirsts first s.hist.newest true,
        fits s.hist s.claims.pins (s.hist.needs g s.hist.newest true) = true → f ≤ g) →
      k.first = f ∧ k.frontCut = true ∧ k.last = none ∧ k.endCut = false ∧
        (s.windowOf x).pins = s.claims.pins ||| s.hist.needs f s.hist.newest true) ∧
    (¬ fits s.hist s.claims.pins (s.hist.needs first s.hist.newest true) = true →
      ¬ fits s.hist s.claims.pins (s.hist.needs (s.hist.newest + 1) s.hist.newest true) = true →
      k.first = s.hist.newest + 1 ∧ k.frontCut = true ∧ k.last = some s.hist.newest ∧ k.endCut = true ∧
        (s.windowOf x).pins = s.claims.pins) :=
  ⟨fun hf => window_spec hw hk (openWindow_fits hf cut),
    fun hn _ hm hf hle => window_spec hw hk (openWindow_moved hn hm hf hle cut),
    fun hn he => window_spec hw hk (openWindow_emptied hn he cut)⟩

/-- Settles O33. -/
theorem claimRequestsOpenOrExtendAClaim : Obligations.ClaimRequestsOpenOrExtendAClaim := by
  unfold Obligations.ClaimRequestsOpenOrExtendAClaim
  intro s r rest x hp hr hx hid hc
  rw [State.exec_claimRequest hp hr hx hid hc]
  have hx' : (s.requestsLeft rest).cons.read r.slot = some x := hx
  refine ⟨fun hn hcl => ?_, fun i hn hcl hi hlow => ?_, fun i k hk hg => ?_,
    fun i k hk hg => ⟨fun hcl => ?_, fun hcl => ?_⟩, fun hn hcl hall => ?_⟩
  · rw [State.decideRequest_claimed hn hcl]; rfl
  · obtain ⟨k, hk⟩ : ∃ k, k = (s.requestsLeft rest).openedClaim r.slot x r.cause none := ⟨_, rfl⟩
    rw [State.decideRequest_opens hn hcl (State.freeClaimSlot_lowest (s := s.requestsLeft rest) hi hlow)]
    have ht := State.openClaim_eq (i := i) hx' r.cause none hk
    generalize (s.requestsLeft rest).openClaim i r.slot x r.cause none = t at ht ⊢
    have hpins : t.claims.pins = (s.windowOf x).pins := by rw [ht]; rfl
    refine ⟨t, k, rfl, by rw [hpins, ht]; rfl, by rw [hk]; rfl, by rw [ht]; exact State.mem_requestRewrite _,
      fun first cut pinned fit starts hstart hout hlost hpinned hfit hstarts => ?_⟩
    have hw : windowFirst s.hist x = (first, cut) := by
      rcases hq : x.startSequence with _ | q
      · rcases ho : x.loadMarkOutstanding with _ | _
        · obtain ⟨rfl, htimed⟩ := hlost hq ho
          exact windowFirst_lost hq ho (htimed _ rfl)
        · obtain ⟨rfl, rfl⟩ := hout hq ho
          exact windowFirst_outstanding hq ho
      · obtain ⟨rfl, hcut⟩ := hstart q hq
        rw [windowFirst_started hq, Bool.eq_iff_iff.mpr (hcut.trans decide_eq_true_iff.symm)]
    have hfits : ∀ f, fit f ↔ fits s.hist s.claims.pins (s.hist.needs f s.hist.newest true) = true := fun f => by
      rw [hfit, hpinned, fits_iff]; rfl
    have hplaces : ∀ f, starts f ↔ f ∈ s.hist.laterFirsts first s.hist.newest true := fun f => by
      rw [hstarts, mem_laterFirsts]
    simp only [hfits, hplaces, hpins, hpinned]
    exact openedClaim_window hk hw
  · rw [State.decideRequest_settled (s := s.requestsLeft rest) hk hg]; rfl
  · rw [State.decideRequest_gathering (s := s.requestsLeft rest) hk hg, if_pos hcl]; rfl
  · rw [State.decideRequest_gathering (s := s.requestsLeft rest) hk hg, if_neg hcl, State.addCause_eq hx']; rfl
  · rw [State.decideRequest_overflows hn hcl (State.freeClaimSlot_none (s := s.requestsLeft rest) hall) hx']; rfl

namespace State

variable {s t u : State} {x : Consignment} {i : Fin 16} {j : Fin 32}

/-! ### Late allocation (R110) -/

theorem owed_iff : owed x = true ↔
    x.inCustody = true ∧ x.claim = none ∧ x.exposure.triggered &&& ~~~ x.claimed ≠ 0#5 := by
  simp [owed, Consignment.unclaimed, without, and_assoc]

theorem allocateTo_unowed (hx : ∀ y, s.cons.read j = some y → owed y = false) : s.allocateTo j = s := by
  unfold allocateTo
  split
  · next y _ hy _ => exact if_neg (by simp [hx y hy])
  · rfl

theorem allocateTo_owed (hx : s.cons.read j = some x) (ho : owed x = true) (hi : s.freeClaimSlot = some i) :
    s.allocateTo j = s.openClaim i j x 0#5 none := by rw [allocateTo, hx, hi]; exact if_pos ho

/-- Every allocation leaves its slot as it was or opens a claim there. -/
theorem allocateTo_cases (s : State) (j : Fin 32) : s.allocateTo j = s ∨
    ∃ x i, s.cons.read j = some x ∧ s.freeClaimSlot = some i ∧ s.allocateTo j = s.openClaim i j x 0#5 none := by
  unfold allocateTo
  split
  · next x i hx hi =>
    by_cases h : owed x = true
    · exact .inr ⟨x, i, hx, hi, if_pos h⟩
    · exact .inl (if_neg h)
  · exact .inl rfl

/-- What late allocations keep: all but claims, consignments, the bank's queue, marks and ports; the claims there are; and a
CLAIM event that is pending. -/
structure Allocated (s t : State) : Prop where
  frame : t = { s with claims := t.claims, cons := t.cons, bank := { s.bank with queue := t.bank.queue }, marks := t.marks,
                       ports := t.ports }
  kept : ∀ {i k}, s.claims.table.read i = some k → t.claims.table.read i = some k
  claim : ∀ {q}, hasKind (s.ports.at q).pending .claim = true → hasKind (t.ports.at q).pending .claim = true

theorem Allocated.refl (s : State) : Allocated s s := ⟨rfl, id, id⟩

theorem Allocated.trans (h : Allocated s t) (h' : Allocated t u) : Allocated s u :=
  ⟨by rw [h'.frame, h.frame], fun hi => h'.kept (h.kept hi), fun hq => h'.claim (h.claim hq)⟩

theorem allocated_openClaim (hx : s.cons.read j = some x) (hi : s.freeClaimSlot = some i) (led : BitVec 5)
    (reason : Option Nat) : Allocated s (s.openClaim i j x led reason) := by
  have ho := openClaim_eq (i := i) hx led reason rfl
  generalize s.openClaim i j x led reason = t at ho ⊢
  refine ⟨by rw [ho], fun {a k} ha => ?_, fun hq => ?_⟩
  · rw [ho]
    refine (Table.read_write_other _ _ fun h => ?_).trans ha
    simp [h, read_of_freeClaimSlot hi] at ha
  · rw [ho]; exact hasKind_raise_of _ _ _ _ hq

theorem allocated_allocateTo (s : State) (j : Fin 32) : Allocated s (s.allocateTo j) := by
  rcases s.allocateTo_cases j with h | ⟨x, i, hx, hi, h⟩ <;> rw [h]
  · exact .refl s
  · exact allocated_openClaim hx hi _ _

theorem allocated_fold (s : State) (l : List (Fin 32)) : Allocated s (l.foldl allocateTo s) :=
  List.foldlRecOn l allocateTo (.refl s) fun t h j _ => h.trans (t.allocated_allocateTo j)

theorem allocateTo_cons_other {a : Fin 32} (ha : a ≠ j) (s : State) : (s.allocateTo j).cons.read a = s.cons.read a := by
  rcases s.allocateTo_cases j with h | ⟨x, i, hx, hi, h⟩ <;> rw [h]
  rw [openClaim_eq hx _ _ rfl]
  exact Table.read_write_other _ _ ha

theorem fold_allocateTo_cons {l : List (Fin 32)} (hj : j ∉ l) (s : State) :
    (l.foldl allocateTo s).cons.read j = s.cons.read j :=
  List.foldlRecOn (motive := fun t => t.cons.read j = s.cons.read j) l allocateTo rfl fun t h _ ha =>
    (allocateTo_cons_other (ne_of_mem_of_not_mem ha hj).symm t).trans h

theorem fold_allocateTo_unowed {l : List (Fin 32)} (hl : ∀ j ∈ l, ∀ y, s.cons.read j = some y → owed y = false) :
    l.foldl allocateTo s = s := by
  induction l with
  | nil => rfl
  | cons j l ih =>
    obtain ⟨hj, hl⟩ := List.forall_mem_cons.mp hl
    rw [List.foldl_cons, allocateTo_unowed hj, ih hl]

theorem exec_lateAllocation {p : Publication} {rest : List Publication} (hp : s.pubs.claims = p :: rest) :
    exec .lateAllocation s =
      .next ((List.finRange 32).foldl allocateTo { s with pubs := { s.pubs with claims := rest } }) := by
  change Host.Outcome.next s.allocate = _
  rw [allocate, hp]

/-- The slots below and above one, in the order in which they are served. -/
theorem slots_around (j : Fin 32) :
    ∃ below above, List.finRange 32 = below ++ j :: above ∧ (∀ a ∈ below, a < j) ∧ j ∉ above := by
  obtain ⟨below, above, h⟩ := List.append_of_mem (List.mem_finRange j)
  have hlt := List.pairwise_lt_finRange 32
  rw [h, List.pairwise_append, List.pairwise_cons] at hlt
  obtain ⟨_, ⟨habove, _⟩, hbelow⟩ := hlt
  exact ⟨below, above, h, fun a ha => hbelow a ha j List.mem_cons_self, fun hj => (habove j hj).false⟩

end State

/-- Settles O34. -/
theorem lateAllocationServesTheLowestSlotFirst : Obligations.LateAllocationServesTheLowestSlotFirst := by
  unfold Obligations.LateAllocationServesTheLowestSlotFirst
  intro s p rest hp
  have hunowed : ∀ y : Consignment,
      (y.inCustody = false ∨ y.claim ≠ none ∨ y.exposure.triggered &&& ~~~ y.claimed = 0#5) → State.owed y = false :=
    fun y h => by
      rw [Bool.eq_false_iff, ne_eq, State.owed_iff]
      rintro ⟨hc, hn, hu⟩
      rcases h with h | h | h
      · rw [hc] at h; exact absurd h nofun
      · exact h hn
      · exact hu h
  rw [State.exec_lateAllocation hp]
  generalize hs' : ({ s with pubs := { s.pubs with claims := rest } } : State) = s'
  have hcons' : s'.cons = s.cons := by rw [← hs']
  refine ⟨fun hall => ?_, fun i j x hx hc hn hu hbelow hi hlow => ?_⟩
  · rw [State.fold_allocateTo_unowed fun j _ y hy => hunowed y (hall j y (hcons' ▸ hy))]
  · obtain ⟨below, above, hslots, hlt, habove⟩ := State.slots_around j
    have hx' : s'.cons.read j = some x := hcons' ▸ hx
    have hfree : s'.freeClaimSlot = some i := State.freeClaimSlot_lowest (by rw [← hs']; exact hi) (by rw [← hs']; exact hlow)
    rw [hslots, List.foldl_append, List.foldl_cons,
      State.fold_allocateTo_unowed fun a ha y hy => hunowed y (hbelow a y (hlt a ha) (hcons' ▸ hy)),
      State.allocateTo_owed hx' (State.owed_iff.mpr ⟨hc, hn, hu⟩) hfree]
    have hopened := State.allocated_openClaim hx' hfree 0#5 none
    have ho := State.openClaim_eq (i := i) hx' 0#5 none rfl
    generalize s'.openClaim i j x 0#5 none = u at hopened ho ⊢
    have hlate := u.allocated_fold above
    have hcons := State.fold_allocateTo_cons habove u
    generalize above.foldl State.allocateTo u = t at hlate hcons ⊢
    refine ⟨t, s'.openedClaim j x 0#5 none, rfl, ?_, hlate.kept ?_, ?_, rfl, ?_, rfl, hcons.trans ?_, fun q => hlate.claim ?_⟩
    · rw [(hopened.trans hlate).frame, ← hs']
    · rw [ho]; exact Table.read_write_same _ _ _
    · rw [← hs']; rfl
    · exact BitVec.zero_or
    · rw [ho]; exact Table.read_write_same _ _ _
    · rw [ho]; exact hasKind_raise _ _ _

end Sys2Proof.Machine

namespace Sys2Proof

theorem Table.findIdx?_congr {α : Type} {n : Nat} {t u : Table α n} {p q : α → Bool}
    (h : ∀ i, p (t.read i) = q (u.read i)) : t.findIdx? p = u.findIdx? q :=
  congrArg (List.find? · (List.finRange n)) (funext h)

end Sys2Proof

namespace Sys2Proof.Machine

/-! ## The hand-over (file 07) -/

namespace State

variable {s t u : State} {x y z : Consignment} {i : Fin 16} {j : Fin 32} {k : Claim}

/-! ### The claims table after a write (R106) -/

/-- A claim rewritten in its slot is found under its number as before. -/
theorem claimByNumber_rewritten {n : Nat} (hk : s.claimByNumber n = some (i, k)) {k' : Claim} (hn : k'.number = k.number)
    (ht : t.claims.table = s.claims.table.write i (some k')) : t.claimByNumber n = some (i, k') := by
  obtain ⟨hread, rfl⟩ := claimByNumber_spec hk
  have hslot : t.claimSlot k.number = s.claimSlot k.number := by
    refine Table.findIdx?_congr fun a => ?_
    rw [ht, Table.read_write]
    by_cases ha : a = i
    · rw [if_pos ha, ha, hread]; simp [hn]
    · rw [if_neg ha]
  obtain ⟨a, ha, h⟩ := Option.bind_eq_some_iff.mp hk
  obtain ⟨m, hm, h⟩ := Option.bind_eq_some_iff.mp h
  obtain ⟨rfl, rfl⟩ := Prod.mk.inj (Option.some.inj h)
  rw [claimByNumber, hslot, ha, ht]
  simp

/-- A claim opened under a number that no other bears is found under it. -/
theorem claimByNumber_opened (hn : ∀ a q, s.claims.table.read a = some q → q.number ≠ k.number)
    (ht : t.claims.table = s.claims.table.write i (some k)) : t.claimByNumber k.number = some (i, k) := by
  have hslot : t.claimSlot k.number = some i := by
    refine findIdx?_of_first (by simp [ht]) fun a ha => ?_
    rw [ht, Table.read_write_other _ _ ha.ne]
    split
    · next q hq => simpa using hn a q hq
    · rfl
  rw [claimByNumber, hslot, ht]
  simp

/-! ### The claims unit's part of a DECIDE (R111) -/

section decideClaim

variable {v : Verdict} {reason : Nat}

theorem decideClaim_accept : s.decideClaim j x .accept reason = (s, false) := if_pos rfl

theorem decideClaim_gathering (hv : v ≠ .accept) (hk : s.claimOf x = some (i, k)) (hg : k.state = .gathering) :
    s.decideClaim j x v reason = (s.addCause i k j causeCustomer (some reason), false) := by
  rw [decideClaim, if_neg hv, hk]; exact if_pos hg

theorem decideClaim_settled (hv : v ≠ .accept) (hk : s.claimOf x = some (i, k)) (hg : k.state ≠ .gathering) :
    s.decideClaim j x v reason = (s, false) := by
  rw [decideClaim, if_neg hv, hk]; exact if_neg hg

theorem decideClaim_opens (hv : v ≠ .accept) (hx : s.claimOf x = none) (hi : s.freeClaimSlot = some i) :
    s.decideClaim j x v reason = (s.openClaim i j x causeCustomer (some reason), false) := by
  rw [decideClaim, if_neg hv, hx]
  dsimp only
  rw [hi]

theorem decideClaim_refused (hv : v ≠ .accept) (hx : s.claimOf x = none) (hi : s.freeClaimSlot = none) :
    s.decideClaim j x v reason = (s, true) := by
  rw [decideClaim, if_neg hv, hx]
  dsimp only
  rw [hi]

/-- What the claims unit may do at a DECIDE: nothing, add a cause to the claim, or open one. -/
theorem decideClaim_cases (s : State) (j : Fin 32) (x : Consignment) (v : Verdict) (reason : Nat) :
    (s.decideClaim j x v reason).1 = s ∨
    (∃ i k, (s.decideClaim j x v reason).1 = s.addCause i k j causeCustomer (some reason)) ∨
    ∃ i, (s.decideClaim j x v reason).1 = s.openClaim i j x causeCustomer (some reason) := by
  by_cases hv : v = .accept
  · rw [hv, decideClaim_accept]; exact .inl rfl
  rcases hk : s.claimOf x with _ | ⟨i, k⟩
  · rcases hi : s.freeClaimSlot with _ | i
    · rw [decideClaim_refused hv hk hi]; exact .inl rfl
    · rw [decideClaim_opens hv hk hi]; exact .inr (.inr ⟨i, rfl⟩)
  · by_cases hg : k.state = .gathering
    · rw [decideClaim_gathering hv hk hg]; exact .inr (.inl ⟨i, k, rfl⟩)
    · rw [decideClaim_settled hv hk hg]; exact .inl rfl

end decideClaim

section named

variable {v : Verdict} {reason : Nat} {no : Bool}

/-- The claim that a decision finds is named by it, with the flags of its window (R111). -/
theorem decideClaim_held (hy : s.cons.read j = some y) (hk : s.claimOf y = some (i, k))
    (hd : s.decideClaim j y v reason = (u, no)) (hz : u.cons.read j = some z) :
    no = false ∧ z.claim = some k.number ∧
      ∃ k', u.claimOf z = some (i, k') ∧ k'.frontCut = k.frontCut ∧ k'.endCut = k.endCut := by
  obtain ⟨-, hname⟩ := claimOf_spec hk
  have hkept (h : (s, false) = (u, no)) : no = false ∧ z.claim = some k.number ∧
      ∃ k', u.claimOf z = some (i, k') ∧ k'.frontCut = k.frontCut ∧ k'.endCut = k.endCut := by
    obtain ⟨rfl, rfl⟩ := Prod.mk.inj h
    obtain rfl := Option.some.inj (hy.symm.trans hz)
    exact ⟨rfl, hname, k, hk, rfl, rfl⟩
  by_cases hv : v = .accept
  · rw [hv, decideClaim_accept] at hd
    exact hkept hd
  by_cases hg : k.state = .gathering
  · rw [decideClaim_gathering hv hk hg, addCause_eq hy] at hd
    obtain ⟨rfl, rfl⟩ := Prod.mk.inj hd
    obtain rfl := Option.some.inj ((Table.read_write_same _ _ _).symm.trans hz)
    rw [claimOf, hname] at hk ⊢
    exact ⟨rfl, rfl, { k with causes := k.causes ||| causeCustomer, reason := (some reason).or k.reason },
      claimByNumber_rewritten hk rfl rfl, rfl, rfl⟩
  · rw [decideClaim_settled hv hk hg] at hd
    exact hkept hd

/-- The claim that a decision opens is named by it, with the flags of its window (R109, R111). -/
theorem decideClaim_opened (hy : s.cons.read j = some y) (hv : v ≠ .accept) (hx : y.claim = none)
    (hi : s.claims.table.read i = none) (hlow : ∀ a, a < i → s.claims.table.read a ≠ none)
    (hfresh : ∀ a q, s.claims.table.read a = some q → q.number ≠ nextNumber s.claims.counter)
    (hd : s.decideClaim j y v reason = (u, no)) (hz : u.cons.read j = some z)
    (hk : k = s.openedClaim j y causeCustomer (some reason)) :
    no = false ∧ u = s.openClaim i j y causeCustomer (some reason) ∧ z.claim = some k.number ∧
      u.claimOf z = some (i, k) := by
  rw [decideClaim_opens hv (claimOf_none hx) (freeClaimSlot_lowest hi hlow)] at hd
  obtain ⟨rfl, rfl⟩ := Prod.mk.inj hd
  have ho := openClaim_eq (i := i) hy causeCustomer (some reason) hk
  have hname : z.claim = some k.number := by
    rw [ho] at hz
    obtain rfl := Option.some.inj ((Table.read_write_same _ _ _).symm.trans hz)
    rfl
  have hnumber : k.number = nextNumber s.claims.counter := by rw [hk]; rfl
  refine ⟨rfl, rfl, hname, ?_⟩
  rw [claimOf, hname, Option.bind_some]
  exact claimByNumber_opened (s := s) (fun a q hq => hnumber ▸ hfresh a q hq) (by rw [ho])

end named

/-- What a decision keeps before its receipt is fixed, for the consignment `y` closed off in slot `j`: all but claims,
consignments, the bank's queue, marks and ports, and of the consignment all but its claims. -/
structure Closed (s : State) (j : Fin 32) (y : Consignment) (u : State) (z : Consignment) : Prop where
  frame : u = { s with cons := u.cons, claims := u.claims, bank := { s.bank with queue := u.bank.queue }, marks := u.marks,
                       ports := u.ports }
  read : u.cons.read j = some z
  same : z = { y with claimed := z.claimed, claim := z.claim }

theorem closed_decideClaim (s : State) (j : Fin 32) (y : Consignment) (v : Verdict) (reason : Nat) :
    ∃ z, Closed s j y ((s.putCons j (some y)).decideClaim j y v reason).1 z := by
  have hy : (s.putCons j (some y)).cons.read j = some y := Table.read_write_same _ _ _
  rcases (s.putCons j (some y)).decideClaim_cases j y v reason with h | ⟨i, k, h⟩ | ⟨i, h⟩ <;> rw [h]
  · exact ⟨y, rfl, hy, rfl⟩
  · rw [addCause_eq hy]
    exact ⟨_, rfl, Table.read_write_same _ _ _, rfl⟩
  · have ho := openClaim_eq (i := i) hy causeCustomer (some reason) rfl
    generalize (s.putCons j (some y)).openClaim i j y causeCustomer (some reason) = u at ho ⊢
    exact ⟨_, by rw [ho]; rfl, by rw [ho]; exact Table.read_write_same _ _ _, rfl⟩

end State

/-! ### The receipt (R133, R137, R138) -/

theorem getLsbD_flagBit (n i : Nat) (b : Bool) : (flagBit n b).getLsbD i = (b && (decide (n < 16) && decide (n = i))) := by
  unfold flagBit
  cases b
  · simp
  · exact BitVec.getLsbD_twoPow n i

/-- The receipt flags, bit by bit (R202). -/
theorem getLsbD_receiptFlags (x : Consignment) (named : Option Claim) (notOpened outOfOrder wallUnset markAbsent : Bool) :
    let f := receiptFlags x named notOpened outOfOrder wallUnset markAbsent
    f.getLsbD 0 = x.exposure.saturated ∧ f.getLsbD 1 = x.outageSeen ∧ f.getLsbD 2 = x.conflictSeen ∧
      f.getLsbD 3 = x.exposure.lostSeen ∧ f.getLsbD 4 = notOpened ∧ f.getLsbD 5 = outOfOrder ∧ f.getLsbD 6 = wallUnset ∧
      f.getLsbD 7 = markAbsent ∧ f.getLsbD 8 = (named.map fun k => k.frontCut).getD false ∧
      f.getLsbD 9 = (named.map fun k => k.endCut).getD false := by
  simp only [receiptFlags, BitVec.getLsbD_or, getLsbD_flagBit]
  simp

section decision

variable {s u : State} {h : Header} {j : Fin 32} {x y z : Consignment} {c : Context} {v : Verdict} {reason e n start : Nat}
  {due no : Bool} {b : BitVec 32} {mark : Option (List Byte)}

/-- The receipt fixed by a decision, with the consignment closed off (R133). -/
def State.decidedReceipt (s u : State) (x z : Consignment) (n start : Nat) (outOfOrder no : Bool) (v : Verdict) (reason : Nat)
    (mark : Option (List Byte)) : Receipt where
  number := nextNumber s.hand.newest
  time := s.now
  wall := s.ctl.wallOffset
  id := x.id
  source := x.source
  stop := x.stop
  comp := x.comp
  verdict := v
  reason := reason
  flags := receiptFlags x ((u.claimOf z).map Prod.snd) no outOfOrder s.ctl.wallOffset.isNone mark.isNone
  shocks := x.totalShocks
  episodes := x.episodes
  carriedDose := x.carriedDose.getD 0
  buckets := x.exposure.buckets
  doorSeconds := min n 65535
  peak := x.exposure.peak
  e := x.exposure.e
  custodySeconds := s.now - start
  startSequence := x.startSequence
  claim := z.claim.getD 0
  mark := mark.getD []
  previous := s.hand.chain
  check := 0#32

/-- What stands when the receipt is fixed: door seconds just closed off are live as they are (R92, R93). -/
theorem receiptBody_closed (hx : x.inCustody = true) (hstart : x.custodyStart = some start) (hend : x.custodyEnd = none)
    (hn : n ≤ 4294967295) (hy : y = { x with doorSeconds := n, doorBase := some (s.lines.counters.read x.comp) })
    (hc : State.Closed s j y u z) (oo : Bool) :
    u.receiptBody z oo no v reason (mark.getD []) mark.isNone = s.decidedReceipt u x z n start oo no v reason mark := by
  obtain ⟨hframe, -, hsame⟩ := hc
  have hlive : u.liveDoor z = n := by
    rw [liveDoor_custody (b := s.lines.counters.read x.comp) (by rw [hsame, hy]; exact hx) (by rw [hsame, hy]), hsame, hy, hframe]
    simp [hn]
  have hcustody : u.custodySeconds z = some (s.now - start) := by
    rw [State.custodySeconds, hsame, hy, hframe]
    simp only [hstart, hend]
    rfl
  rw [State.receiptBody, hlive, hcustody, State.decidedReceipt]
  generalize (u.claimOf z).map Prod.snd = named
  rw [hsame, hy, hframe]
  rfl

/-- The state after a decision that leaves the claims unit's part `u` and fixes the receipt `r` (R133). -/
def State.decided (u : State) (h : Header) (j : Fin 32) (left : Nat) (r : Receipt) : State :=
  ((u.setContext j (.deciding left { receipt := r, secondAttempt := false, tag := h.tag })).ask .receiptWrite).modPort h.port
    fun p => { p with inFlight := some { command := .decide, tag := h.tag } }

section decided

variable (u : State) (h : Header) (j : Fin 32) (left : Nat) (r : Receipt)

theorem State.decided_cons : (u.decided h j left r).cons = u.cons := rfl
theorem State.decided_claims : (u.decided h j left r).claims = u.claims := rfl
theorem State.decided_marks : (u.decided h j left r).marks = u.marks := rfl
theorem State.decided_queue : (u.decided h j left r).bank.queue = u.bank.queue ++ [.receiptWrite] := rfl

theorem State.decided_pending (q : Port) :
    ((u.decided h j left r).ports.at q).pending = (u.ports.at q).pending := by
  rw [State.decided, State.modPort_ports, PerPort.at_put]
  split <;> [subst_vars; skip] <;> rfl

theorem State.decided_inFlight :
    ((u.decided h j left r).ports.at h.port).inFlight = some { command := .decide, tag := h.tag } := by
  rw [State.decided, State.modPort_ports, PerPort.at_put_same]

end decided

/-- A decision taken, in the terms of the claims unit's part in it (R133). -/
theorem takeDecision_eq (hst : c.state = .waiting e due) (hx : x.inCustody = true) (hb : x.doorBase = some b)
    (hstart : x.custodyStart = some start) (hend : x.custodyEnd = none)
    (hn : n = min (x.doorSeconds + (s.lines.counters.read x.comp - b).toNat) 4294967295)
    (hy : y = { x with doorSeconds := n, doorBase := some (s.lines.counters.read x.comp) })
    (hd : (s.putCons j (some y)).decideClaim j y v reason = (u, no)) (hc : State.Closed s j y u z) :
    s.takeDecision h j x c v reason mark =
      u.decided h j (e - s.now) (s.decidedReceipt u x z n start c.outOfOrder no v reason mark).sealed := by
  have hclosed : s.closeOff x = y := by rw [State.closeOff, liveDoor_custody hx hb, hy, hn]
  rw [State.takeDecision, hclosed]
  simp only [hd, hst, hc.read, Option.getD_some]
  rw [receiptBody_closed hx hstart hend (hn.trans_le (Nat.min_le_right _ _)) hy hc]
  rfl

/-! ### DECIDE (R132) -/

theorem reasonFits_iff {r : Nat} : reasonFits v r = true ↔ (v = .accept ↔ r = 0) ∧ r ≤ 15 := by
  unfold reasonFits
  split
  · next hv => simp only [hv, beq_iff_eq, true_iff]; omega
  · next hv => simp only [hv, Bool.and_eq_true, decide_eq_true_eq, false_iff]; omega

variable {id : BitVec 32} {outcome reason' : Byte}

theorem decideForm_some (hv : verdict outcome = some v) (hr : (v = .accept ↔ reason' = 0#8) ∧ reason'.toNat ≤ 15)
    (hm : ∀ m, mark = some m → m.length = 16) : decideForm outcome reason' mark = some v := by
  rw [decideForm, hv, Option.filter_some, if_pos]
  have hzero : reason'.toNat = 0 ↔ reason' = 0#8 := by rw [← BitVec.toNat_inj]; rfl
  have hlen : (mark.map List.length).getD 16 = 16 := by
    cases mark
    · rfl
    · exact hm _ rfl
  simp [reasonFits_iff, hzero, hr.1, hr.2, hlen]

theorem decideForm_none (hv : verdict outcome = some v)
    (hr : ¬ ((v = .accept ↔ reason' = 0#8) ∧ reason'.toNat ≤ 15) ∨ ∃ m, mark = some m ∧ m.length ≠ 16) :
    decideForm outcome reason' mark = none := by
  have hzero : reason'.toNat = 0 ↔ reason' = 0#8 := by rw [← BitVec.toNat_inj]; rfl
  rw [decideForm, hv, Option.filter_some, if_neg]
  rw [Bool.and_eq_true, reasonFits_iff, hzero, beq_iff_eq]
  rcases hr with hr | ⟨m, rfl, hm⟩
  · exact fun h => hr h.1
  · exact fun h => hm h.2

theorem decide_malformed (hs : Taken .handoverDecide h s) (hf : decideForm outcome reason' mark = none) :
    exec (.decide h id outcome reason' mark) s = .next (s.respond h .badArgument []) := by
  refine (next_take_taken hs _).trans ?_
  simp only [hf]

theorem decide_unknown (hs : Taken .handoverDecide h s) (hf : decideForm outcome reason' mark = some v)
    (hx : s.byId id = none) : exec (.decide h id outcome reason' mark) s = .next (s.respond h .notFound []) := by
  refine (next_take_taken hs _).trans ?_
  simp only [hf, hx]

theorem decide_uncontexted (hs : Taken .handoverDecide h s) (hf : decideForm outcome reason' mark = some v)
    (hx : s.byId id = some (j, x)) (hc : s.contextOf j = none) : exec (.decide h id outcome reason' mark) s =
      .next (s.respond h (if x.lastContextExpired then .expired else .notFound) []) := by
  refine (next_take_taken hs _).trans ?_
  simp only [hf, hx, hc]

theorem decide_contexted (hs : Taken .handoverDecide h s) (hf : decideForm outcome reason' mark = some v)
    (hx : s.byId id = some (j, x)) (hc : s.contextOf j = some c) : exec (.decide h id outcome reason' mark) s = .next (
      if s.deciding.isSome then s.respond h .busy []
      else if !s.hand.writable then s.respond h .receiptsFull []
      else s.takeDecision h j x c v reason'.toNat mark) := by
  refine (next_take_taken hs _).trans ?_
  simp only [hf, hx, hc]

end decision

/-- Settles O38. -/
theorem decideFixesTheReceipt : Obligations.DecideFixesTheReceipt := by
  unfold Obligations.DecideFixesTheReceipt
  intro h id outcome reason mark s hs
  refine ⟨fun hv => decide_malformed hs (by rw [decideForm, hv]; rfl), fun v hv => ⟨fun hbad => ?_, fun hr hle hm => ?_⟩⟩
  · refine decide_malformed hs (decideForm_none hv ?_)
    rcases hbad with ⟨ha, hr⟩ | ⟨ha, hr⟩ | hm
    · exact .inl fun hfit => hr (hfit.1.mp ha)
    · exact .inl fun hfit => hr.elim (fun h0 => ha (hfit.1.mpr h0)) fun hlt => absurd hfit.2 (Nat.not_le.mpr hlt)
    · exact .inr hm
  have hf := decideForm_some hv ⟨hr, hle⟩ hm
  refine ⟨fun hx => decide_unknown hs hf hx, fun j x hx => ⟨fun hc => decide_uncontexted hs hf hx hc, fun c hc => ?_⟩⟩
  rw [decide_contexted hs hf hx hc]
  refine ⟨fun hd => congrArg _ (if_pos (Option.isSome_iff_ne_none.mpr hd)), fun hd hw => ?_,
    fun e due b start n y hd hw hst hcust hb hstart hend hn hy => ?_⟩
  · rw [if_neg (by simp [hd]), if_pos (by simp [hw])]
  rw [if_neg (by simp [hd]), if_neg (by simp [hw])]
  obtain ⟨z, hz⟩ := s.closed_decideClaim j y v reason.toNat
  rcases hdec : (s.putCons j (some y)).decideClaim j y v reason.toNat with ⟨u, no⟩
  rw [hdec] at hz
  rw [takeDecision_eq hst hcust hb hstart hend hn hy hdec hz]
  obtain ⟨hframe, hread, hsame⟩ := hz
  dsimp only at hframe hread
  generalize hr : (s.decidedReceipt u x z n start c.outOfOrder no v reason.toNat mark).sealed = r
  obtain ⟨hsat, hout, hconf, hlost, hno, horder, hwall, hmark, hfront, hcut⟩ := getLsbD_receiptFlags x
    ((u.claimOf z).map Prod.snd) no c.outOfOrder s.ctl.wallOffset.isNone mark.isNone
  have hflags : receiptFlags x ((u.claimOf z).map Prod.snd) no c.outOfOrder s.ctl.wallOffset.isNone mark.isNone = r.flags := by
    rw [← hr]; rfl
  have hclaim : r.claim = z.claim.getD 0 := by rw [← hr]; rfl
  rw [hflags] at hsat hout hconf hlost hno horder hwall hmark hfront hcut
  have hy' : (s.putCons j (some y)).cons.read j = some y := Table.read_write_same _ _ _
  have hname : y.claim = x.claim := by rw [hy]
  have hof : (s.putCons j (some y)).claimOf y = s.claimOf x := State.claimOf_agree rfl hname
  refine ⟨u.decided h j (e - s.now) r, r, rfl, ?_, ?_, State.decided_inFlight _ _ _ _ _,
    List.mem_append_right _ (List.mem_singleton.mpr rfl), by rw [← hr]; rfl, hsat, hout, hconf, hlost, horder, hwall, hmark,
    fun hv => ?_, fun i k hk => ?_, fun hv hx hall => ?_, fun i hv hx hi hlow hfresh => ?_⟩
  · rw [hframe]; rfl
  · rw [hframe]; rfl
  · rw [hv, State.decideClaim_accept] at hdec
    obtain ⟨rfl, rfl⟩ := Prod.mk.inj hdec
    obtain rfl := Option.some.inj (hy'.symm.trans hread)
    exact ⟨rfl, rfl, rfl, hclaim.trans (by rw [hname]), hno⟩
  · rw [← hof] at hk
    obtain ⟨rfl, hzc, k', hk', hfk, hek⟩ := State.decideClaim_held hy' hk hdec hread
    rw [hk'] at hfront hcut
    refine ⟨by rw [hclaim, hzc]; rfl, hno, hfront.trans hfk, hcut.trans hek, fun hv hg => ?_, fun hv hg => ?_⟩
    · rw [State.decideClaim_gathering hv hk hg, State.addCause_eq hy'] at hdec
      obtain ⟨rfl, -⟩ := Prod.mk.inj hdec
      refine ⟨?_, rfl, rfl, fun q => ?_⟩
      · rw [hy]; exact Table.write_write _ _ _ _
      · rw [State.decided_pending]; exact hasKind_raise _ _ _
    · rw [State.decideClaim_settled hv hk hg] at hdec
      obtain ⟨rfl, -⟩ := Prod.mk.inj hdec
      exact ⟨rfl, rfl, rfl⟩
  · rw [State.decideClaim_refused hv (State.claimOf_none (hname.trans hx))
      (State.freeClaimSlot_none (s := s.putCons j (some y)) hall)] at hdec
    obtain ⟨rfl, rfl⟩ := Prod.mk.inj hdec
    obtain rfl := Option.some.inj (hy'.symm.trans hread)
    exact ⟨rfl, rfl, rfl, by rw [hclaim, hname, hx]; rfl, hno⟩
  · obtain ⟨k, hk⟩ : ∃ k, k = (s.putCons j (some y)).openedClaim j y causeCustomer (some reason.toNat) := ⟨_, rfl⟩
    obtain ⟨rfl, hu, hzc, hfound⟩ := State.decideClaim_opened hy' hv (hname.trans hx) hi hlow hfresh hdec hread hk
    have ho := hu.trans (State.openClaim_eq hy' causeCustomer (some reason.toNat) hk)
    rw [hfound] at hfront hcut
    refine ⟨k, ?_, ?_, ?_, ?_, fun q => ?_, by rw [hk, hy]; rfl, by rw [hk, hy]; rfl, by rw [hk]; rfl, by rw [hk]; rfl,
      by rw [hk]; rfl, by rw [hk]; rfl, by rw [hk, hy]; rfl, by rw [hk]; rfl, by rw [hk]; rfl, by rw [hclaim, hzc]; rfl, hno,
      hfront, hcut⟩
    · rw [State.decided_claims, ho]; rfl
    · rw [State.decided_cons, ho, hy]; exact Table.write_write _ _ _ _
    · rw [State.decided_marks, ho, hy]; rfl
    · rw [State.decided_queue, ho]; exact List.mem_append_left _ (State.mem_requestRewrite _)
    · rw [State.decided_pending, ho]; exact hasKind_raise _ _ _

end Sys2Proof.Machine

namespace Sys2Proof.Machine

/-! ### The receipt store (section 7.5) -/

namespace HandOver

variable (h : HandOver)

theorem advance_slot_lt (hl : h.slot.val + 1 < 16) : h.advance = { h with slot := ⟨h.slot.val + 1, hl⟩ } := dif_pos hl

theorem advance_slot_last (hl : h.slot.val = 15) : h.advance = { h with slot := 0, block := h.nextBlock.getD h.block } :=
  dif_neg (by omega)

/-- Moving the write position on changes the position alone. -/
theorem advance_frame : h.advance = { h with slot := h.advance.slot, block := h.advance.block } := by
  unfold advance
  split <;> rfl

/-- The store with a receipt programmed at the write position, before the position moves on (R135 step 3). -/
def programmed (r : Receipt) : HandOver :=
  ({ h with newest := r.number, chain := r.check } : HandOver).putSlot h.block h.slot (.receipt r)

theorem programmed_read (r : Receipt) : ((h.programmed r).blocks.read h.block).read h.slot = .receipt r := by
  simp [programmed, putSlot]

end HandOver

namespace State

variable {s t : State} {x y : Consignment} {r : Receipt}

theorem storeReceipt_eq (s : State) (r : Receipt) :
    s.storeReceipt r = { s with hand := (s.hand.programmed r).advance } := rfl

/-! ### The receipt write at the bank (R134, R139) -/

theorem positionSlot_writable (hr : s.hand.isRetired s.hand.block = false)
    (he : (s.hand.blocks.read s.hand.block).read s.hand.slot = .empty) : s.hand.writable = true := by
  simp [HandOver.writable, HandOver.positionSlot, hr, he]

theorem writeWaits_blank (hr : s.hand.isRetired s.hand.block = false)
    (he : (s.hand.blocks.read s.hand.block).read s.hand.slot = .empty) : s.writeWaits = s.hand.due s.hand.block := by
  rw [writeWaits, positionSlot_writable hr he, HandOver.positionSlot, he]
  simp

theorem nextOp_write {rest : List BankOp} (hp : s.powered = true) (hb : s.bank.busy = none)
    (hq : s.bank.queue = .receiptWrite :: rest) (hw : s.writeWaits = false) : s.nextOp = some .receiptWrite := by
  simp [nextOp, hp, hb, hq, hw]

theorem nextOp_of_waits (hw : s.writeWaits = true) : s.nextOp ≠ some .receiptWrite := by
  unfold nextOp
  split
  · simp
  · intro h
    simpa [hw] using List.find?_some h

theorem testBlocks_frame (s : State) :
    s.testBlocks = { s with bank := { s.bank with queue := s.testBlocks.bank.queue } } := by
  unfold testBlocks
  split
  · rfl
  · split <;> rfl

theorem settleWrite_none (h : s.deciding = none) : s.settleWrite = s := by
  rw [settleWrite, h]

theorem retest_none (h : s.deciding = none) : ∃ queue, s.retest = { s with bank := { s.bank with queue := queue } } := by
  have hd : s.testBlocks.deciding = none := by rw [testBlocks_frame]; exact h
  exact ⟨_, (settleWrite_none hd).trans (testBlocks_frame s)⟩

/-! ### The completed receipt write (R119, R135) -/

/-- The consignment of a completed receipt, by its fields (R93, R135). -/
theorem receipted_eq {b : BitVec 32} {n : Nat} (hx : x.inCustody = true) (hb : x.doorBase = some b)
    (hn : n = min (x.doorSeconds + (s.lines.counters.read x.comp - b).toNat) 4294967295) :
    s.receipted x r = if r.verdict = .refuse then
        { x with state := .returned, receipt := some r.number, doorSeconds := n
                 doorBase := some (s.lines.counters.read x.comp) }
      else
        { x with state := .delivered, receipt := some r.number, doorSeconds := n, doorBase := none
                 custodyEnd := some s.now } := by
  rw [receipted, closeOff, liveDoor_custody hx hb, hn]

theorem receipted_claim (s : State) (x : Consignment) (r : Receipt) : (s.receipted x r).claim = x.claim := by
  unfold receipted
  split <;> rfl

theorem presentClaim_settled (hk : ∀ i k, s.claimOf x = some (i, k) → k.state ≠ .gathering) : s.presentClaim x r = s := by
  unfold presentClaim
  split
  · next i k hx => rw [if_neg (hk i k hx)]
  · rfl

theorem presentClaim_gathering {i : Fin 16} {k : Claim} (hx : s.claimOf x = some (i, k)) (hk : k.state = .gathering) :
    s.presentClaim x r = s.freeze i k .presented { buckets := r.buckets, shocks := r.shocks, peak := r.peak, e := r.e }
      (some r.number) := by
  simp only [presentClaim, hx, hk, if_true]

theorem presentClaim_frame (s : State) (x : Consignment) (r : Receipt) :
    s.presentClaim x r = { s with claims := (s.presentClaim x r).claims, marks := (s.presentClaim x r).marks } := by
  unfold presentClaim
  split
  · split <;> rfl
  · rfl

/-- The marks that end a hand-over with a receipt (R135). -/
def receiptEnds (c : Context) (r : Receipt) : List Mark :=
  [.receipt r.number r.id r.verdict r.reason r.claim r.check, .handoverEnd c.slot r.id .receipt r.number]

/-- The answer to a DECIDE whose receipt has been written (R135). -/
def receiptAnswer (y : Consignment) (r : Receipt) : List Byte :=
  u32 r.number ++ word32 r.check ++ u8 y.state.code ++ u32 r.claim

/-- Both events raised and the DECIDE answered (R135). -/
def receiptAnswered (s : State) (y : Consignment) (d : Decision) : State :=
  ((s.raise .receipt).raise .handover).answerDecide d .ok (receiptAnswer y d.receipt)

section completed

variable {c : Context} {d : Decision}

theorem receiptAnswered_frame {u : State} (hu : u.ports = s.ports) (y : Consignment) (d : Decision) :
    u.receiptAnswered y d = { u with ports := (s.receiptAnswered y d).ports } := by
  cases u
  cases s
  subst hu
  rfl

/-- The receipt stored, the context removed and the marks requested (R135). -/
def receiptEnded (s : State) (c : Context) (r : Receipt) : State :=
  (((s.storeReceipt r).dropContext c.slot).request (.receipt r.number r.id r.verdict r.reason r.claim r.check)).request
    (.handoverEnd c.slot r.id .receipt r.number)

theorem receiptEnded_eq (s : State) (c : Context) (r : Receipt) : s.receiptEnded c r = { s with
    hand := { (s.hand.programmed r).advance with contexts := s.hand.contexts.filter fun q => q.slot != c.slot }
    marks := s.marks ++ receiptEnds c r } := by
  have hcontexts : (s.hand.programmed r).advance.contexts = s.hand.contexts := contexts_advance _
  rw [← hcontexts]
  simp only [receiptEnded, request, List.append_assoc, storeReceipt_eq]
  rfl

/-- Once the context of the one decision is removed, none is DECIDING (R127). -/
theorem deciding_dropped {l : List Context} (hd : ∀ q ∈ l, q.isDeciding = true → q = c)
    (hs : s.hand.contexts = l.filter fun q => q.slot != c.slot) : s.deciding = none := by
  refine List.find?_eq_none.mpr fun q hq hdq => ?_
  rw [hs] at hq
  obtain ⟨hq, hslot⟩ := List.mem_filter.mp hq
  simp [hd q hq hdq] at hslot

/-- A completed receipt write, up to the bank's queue (R135). -/
theorem completeReceipt_eq (hy : y = s.receipted x d.receipt)
    (ht : t = (s.putCons c.slot (some y)).presentClaim y d.receipt)
    (hd : ∀ q ∈ s.hand.contexts, q.isDeciding = true → q = c) : ∃ queue, s.completeReceipt c x d = { s with
      cons := s.cons.write c.slot (some y)
      claims := t.claims
      hand := { (s.hand.programmed d.receipt).advance with
        contexts := s.hand.contexts.filter fun q => q.slot != c.slot }
      bank := { s.bank with busy := none, queue := queue }
      marks := t.marks ++ receiptEnds c d.receipt
      ports := (s.receiptAnswered y d).ports } := by
  have hframe := presentClaim_frame (s.putCons c.slot (some y)) y d.receipt
  have hended := receiptEnded_eq t c d.receipt
  rw [← ht] at hframe
  have hdone : s.completeReceipt c x d = ((t.receiptEnded c d.receipt).receiptAnswered y d).endOp.retest := by
    rw [ht, hy]; rfl
  have hanswered : (t.receiptEnded c d.receipt).receiptAnswered y d = { t.receiptEnded c d.receipt with
      ports := (s.receiptAnswered y d).ports } := receiptAnswered_frame (by rw [hended, hframe]; rfl) y d
  generalize (t.receiptEnded c d.receipt).receiptAnswered y d = u at hanswered hdone
  rw [hended, hframe] at hanswered
  obtain ⟨queue, hq⟩ := retest_none (s := u.endOp) (deciding_dropped hd (by rw [hanswered]; rfl))
  refine ⟨queue, ?_⟩
  rw [hdone, hq, hanswered]
  rfl

theorem receiptAnswered_pending (s : State) (y : Consignment) (d : Decision) (q : Port) :
    ((s.receiptAnswered y d).ports.at q).pending = (((s.raise .receipt).raise .handover).ports.at q).pending := by
  rw [receiptAnswered, answerDecide]
  generalize (s.raise .receipt).raise .handover = u
  simp only [landed, PerPort.at_map, reply_ports, PerPort.at_put]
  split <;> [subst_vars; skip] <;> rfl

theorem receiptAnswered_responses (s : State) (y : Consignment) (d : Decision) : (s.receiptAnswered y d).ports.h.responses =
    s.ports.h.responses ++ [{ status := .ok, tag := d.tag, data := receiptAnswer y d.receipt }] := rfl

end completed

end State

theorem receiptWriteCompletion_completes {s : State} {c : Context} {n : Nat} {d : Decision} {x : Consignment}
    (hb : s.bank.busy = some .receiptWrite) (hr : s.claims.requests = []) (hc : s.deciding = some c)
    (hst : c.state = .deciding n d) (hx : s.cons.read c.slot = some x) :
    exec .receiptWriteCompletion s = .next (s.completeReceipt c x d) := by
  have hdec : c.decision = some (n, d) := by rw [Context.decision, hst]
  change Host.Outcome.next s.writeCompletion = _
  rw [State.writeCompletion, if_pos hb, State.drainRequests_nil hr]
  simp only [hc, hdec, hx]

/-- Settles O39. -/
theorem receiptWritesEndTheHandOver : Obligations.ReceiptWritesEndTheHandOver := by
  unfold Obligations.ReceiptWritesEndTheHandOver
  refine ⟨fun s rest hp hb hq hr he => ?_, fun s c n d x b ds hb hr hc hst hd hx hin hbase hds => ?_⟩
  · have hw := State.writeWaits_blank hr he
    change (_ → Host.Outcome.next (if s.nextOp = some .receiptWrite then _ else s) = _) ∧
      (_ → Host.Outcome.next (if s.nextOp = some .receiptWrite then _ else s) = _)
    refine ⟨fun hdue => ?_, fun hdue => ?_⟩
    · rw [if_pos (State.nextOp_write hp hb hq (hw.trans hdue)), if_pos (State.positionSlot_writable hr he), State.startOp,
        State.modBank, hq, List.erase_cons_head]
    · rw [if_neg (State.nextOp_of_waits (hw.trans hdue))]
  · rw [receiptWriteCompletion_completes hb hr hc hst hx]
    obtain ⟨y, hy⟩ : ∃ y, y = s.receipted x d.receipt := ⟨_, rfl⟩
    obtain ⟨u, hu⟩ : ∃ u, u = (s.putCons c.slot (some y)).presentClaim y d.receipt := ⟨_, rfl⟩
    obtain ⟨queue, ht⟩ := State.completeReceipt_eq hy hu hd
    have hy' := hy.trans (State.receipted_eq hin hbase hds)
    have hof : (s.putCons c.slot (some y)).claimOf y = s.claimOf x :=
      State.claimOf_agree rfl (hy ▸ State.receipted_claim s x d.receipt)
    have hcode : y.state.code = if d.receipt.verdict = .refuse then 4 else 3 := by
      rw [hy']
      split <;> rfl
    generalize s.completeReceipt c x d = t at ht ⊢
    have hhand : t.hand = { (s.hand.programmed d.receipt).advance with
        contexts := s.hand.contexts.filter fun q => q.slot != c.slot } := by rw [ht]
    have hports : t.ports = (s.receiptAnswered y d).ports := by rw [ht]
    refine ⟨t, rfl, by rw [ht], by rw [ht, hy'], ?_, ?_, ?_, ?_, fun hl => ?_, fun hl => ?_, by rw [hhand], fun q => ?_, ?_,
      fun f hf => ?_, fun ends hends => ⟨fun hk => ?_, fun i k hk hg => ?_⟩⟩
    · rw [hhand, HandOver.advance_frame]; exact s.hand.programmed_read d.receipt
    · rw [hhand, HandOver.advance_frame]; rfl
    · rw [hhand, HandOver.advance_frame]; rfl
    · rw [hhand, HandOver.advance_frame]; rfl
    · rw [hhand, (s.hand.programmed d.receipt).advance_slot_lt hl]; exact ⟨rfl, rfl⟩
    · rw [hhand, (s.hand.programmed d.receipt).advance_slot_last hl]; exact ⟨rfl, rfl⟩
    · rw [hports, State.receiptAnswered_pending]
      exact ⟨hasKind_raise_of _ _ _ _ (hasKind_raise _ _ _), hasKind_raise _ _ _⟩
    · rw [hports, State.receiptAnswered_responses, State.receiptAnswer, hcode]
    · rw [hports] at hf
      exact State.landed_inFlight (q := .h) hf
    · rw [State.presentClaim_settled (by rw [hof]; exact hk)] at hu
      rw [ht, hu, hends]
      exact ⟨rfl, rfl⟩
    · rw [State.presentClaim_gathering (hof.trans hk) hg] at hu
      rw [ht, hu, hends, State.freeze]
      refine ⟨?_, rfl⟩
      simp only [State.request, List.append_assoc]
      rfl

end Sys2Proof.Machine

namespace Sys2Proof.Machine

/-! ## Sectors (file 08) -/

namespace State

variable {s t u : State} {n i j : Fin 16}

/-! ### Upload-wanted and unsent records lost (R149, R159) -/

theorem store_judgeUpload {q : Port} (h : hasKind (s.ports.at q).pending .store = true) :
    hasKind (s.judgeUpload.ports.at q).pending .store = true := by
  unfold judgeUpload
  split
  · exact hasKind_raise_of _ _ _ _ h
  · split <;> exact h

/-- The effects of the store that retirements, erases and choices share: the sequences that are lost, events raised, the
counter block's rewrite. -/
structure Moved (s t : State) : Prop where
  frame : t = { s with
    hist := { s.hist with
      sectors := t.hist.sectors, next := t.hist.next, eraseQueue := t.hist.eraseQueue, secondErase := t.hist.secondErase
      acked := t.hist.acked, lostUnsent := t.hist.lostUnsent, uploadWanted := t.hist.uploadWanted
      degraded := t.hist.degraded, stalled := t.hist.stalled }
    bank := { s.bank with queue := t.bank.queue }
    ports := t.ports }
  bank : ∀ op ∈ s.bank.queue, op ∈ t.bank.queue
  store : ∀ q, hasKind (s.ports.at q).pending .store = true → hasKind (t.ports.at q).pending .store = true
  responses : ∀ q, (t.ports.at q).responses = (s.ports.at q).responses

namespace Moved

theorem refl (s : State) : Moved s s := ⟨rfl, fun _ h => h, fun _ h => h, fun _ => rfl⟩

theorem trans (h : Moved s t) (g : Moved t u) : Moved s u where
  frame := by rw [g.frame, h.frame]
  bank := fun op hop => g.bank op (h.bank op hop)
  store := fun q hq => g.store q (h.store q hq)
  responses := fun q => (g.responses q).trans (h.responses q)

theorem modHist (s : State) (f : History → History) (hf : f s.hist = { s.hist with
      sectors := (f s.hist).sectors, next := (f s.hist).next, eraseQueue := (f s.hist).eraseQueue
      secondErase := (f s.hist).secondErase, acked := (f s.hist).acked, lostUnsent := (f s.hist).lostUnsent
      uploadWanted := (f s.hist).uploadWanted, degraded := (f s.hist).degraded, stalled := (f s.hist).stalled } := by rfl) :
    Moved s (s.modHist f) :=
  ⟨congrArg (fun h : History => { s with hist := h }) hf, fun _ h => h, fun _ h => h, fun _ => rfl⟩

theorem raise (s : State) (e : EventKind) : Moved s (s.raise e) :=
  ⟨rfl, fun _ h => h, fun _ h => hasKind_raise_of _ _ _ _ h, fun q => responses_raise s e q⟩

theorem ite {p : Prop} [Decidable p] (h : Moved s t) (g : Moved s u) : Moved s (if p then t else u) := by
  split <;> assumption

theorem judgeUpload (s : State) : Moved s s.judgeUpload := by
  unfold State.judgeUpload
  exact .ite ((modHist s _).trans (raise _ _)) (.ite (modHist s _) (.refl s))

theorem requestRewrite (s : State) : Moved s s.requestRewrite := by
  unfold State.requestRewrite
  split
  · exact .refl s
  · exact ⟨rfl, fun _ h => List.mem_append_left _ h, fun _ h => h, fun _ => rfl⟩

theorem loseUnsent (s : State) (n : Fin 16) : Moved s (s.loseUnsent n) := by
  unfold State.loseUnsent
  exact .ite (.refl s) (((modHist s _).trans (raise _ _)).trans (judgeUpload _))

theorem startErase (s : State) (n : Fin 16) : Moved s (s.startErase n) := (loseUnsent s n).trans (modHist _ _)

theorem takeNext (s : State) (n : Fin 16) : Moved s (s.takeNext n) := modHist s _

end Moved

/-- Losing unsent records moves the sequences and upload-wanted alone. -/
theorem loseUnsent_hist (s : State) (n : Fin 16) : (s.loseUnsent n).hist = { s.hist with
    acked := (s.loseUnsent n).hist.acked, lostUnsent := (s.loseUnsent n).hist.lostUnsent
    uploadWanted := (s.loseUnsent n).hist.uploadWanted } := by
  unfold loseUnsent
  dsimp only
  split
  · rfl
  · rw [judgeUpload_frame]; rfl

/-- Unsent records lost: the sequences and the STORE event, before upload-wanted is judged (R149). -/
theorem loseUnsent_some
    (hne : ((s.hist.sectors.read n).records.filter fun r => s.hist.acked < r.sequence).length ≠ 0) :
    ∃ u : State, s.loseUnsent n = u.judgeUpload ∧
      u.hist.acked = ((s.hist.sectors.read n).records.map fun r => r.sequence).foldl max s.hist.acked ∧
      u.hist.lostUnsent = min (s.hist.lostUnsent +
        ((s.hist.sectors.read n).records.filter fun r => s.hist.acked < r.sequence).length) 4294967295 ∧
      ∀ q, hasKind (u.ports.at q).pending .store = true :=
  ⟨_, if_neg hne, rfl, rfl, fun q => hasKind_raise _ _ q⟩

theorem unsentLost_loseUnsent (s : State) (n : Fin 16) : s.UnsentLost n (s.loseUnsent n) := by
  rintro seqs lost rfl hlost
  have hcount : lost = ((s.hist.sectors.read n).records.filter fun r => s.hist.acked < r.sequence).length := by
    rw [hlost, List.filter_map, List.length_map]; rfl
  refine ⟨fun h0 => ?_, fun hpos => ?_⟩
  · rw [loseUnsent, ← hcount, if_pos h0]
    exact ⟨rfl, rfl⟩
  obtain ⟨q₀, hq₀⟩ := List.exists_mem_of_length_pos (hlost ▸ hpos)
  obtain ⟨hq, hnew⟩ := List.mem_filter.mp hq₀
  obtain ⟨u, hu, hacked, hlost', hstore⟩ := loseUnsent_some (s := s) (n := n) (hcount ▸ hpos.ne')
  obtain ⟨hmem, hle⟩ := List.max?_eq_some_iff.mp (List.max?_cons'.trans (congrArg some hacked.symm))
  have hge := hle q₀ (List.mem_cons_of_mem _ hq)
  have hnot : u.hist.acked ≠ s.hist.acked := fun h => absurd (of_decide_eq_true hnew) (by omega)
  rw [hu, judgeUpload_frame, hcount]
  exact ⟨hlost', (List.mem_cons.mp hmem).resolve_left hnot, fun q hq => hle q (List.mem_cons_of_mem _ hq),
    fun q => by rw [← judgeUpload_frame]; exact store_judgeUpload (hstore q)⟩

/-- The loss stands as long as the sequences and the STORE event do. -/
theorem UnsentLost.of_agree (h : u.UnsentLost n t) {s' t' : State}
    (hr : (s'.hist.sectors.read n).slots = (u.hist.sectors.read n).slots) (ha : s'.hist.acked = u.hist.acked)
    (hl : s'.hist.lostUnsent = u.hist.lostUnsent) (hl' : t'.hist.lostUnsent = t.hist.lostUnsent)
    (ha' : t'.hist.acked = t.hist.acked)
    (hs : ∀ q, hasKind (t.ports.at q).pending .store = true → hasKind (t'.ports.at q).pending .store = true) :
    s'.UnsentLost n t' := by
  intro seqs lost hseqs hlost
  have hrecords : (s'.hist.sectors.read n).records = (u.hist.sectors.read n).records := by rw [Sector.records, hr]; rfl
  obtain ⟨hnone, hsome⟩ := h seqs lost (by rw [hseqs, hrecords]) (by rw [hlost, ha])
  rw [hl, hl', ha, ha']
  exact ⟨hnone, fun hpos => (hsome hpos).imp id fun ⟨hm, hle, hp⟩ => ⟨hm, hle, fun q => hs q (hp q)⟩⟩

/-! ### Retirement (R150) -/

/-- DEGRADED is judged when a sector has been retired (R150). -/
def judgeDegraded (s : State) : State :=
  if s.hist.usable < 8 ∧ s.hist.degraded = false then (s.modHist fun h => { h with degraded := true }).raise .store else s

/-- The retirement of a sector before DEGRADED and upload-wanted are judged (R150). -/
def retiring (s : State) (n : Fin 16) (touched : Bool) : State :=
  (((if touched then s else s.loseUnsent n).modHist fun h =>
    h.modSector n fun x => { x with state := .retired, touched := x.touched || touched }).requestRewrite).raise .store

theorem retireSector_eq (s : State) (n : Fin 16) (touched : Bool) :
    s.retireSector n touched = ((s.retiring n touched).judgeDegraded).judgeUpload := rfl

namespace Moved

theorem judgeDegraded (s : State) : Moved s s.judgeDegraded := by
  unfold State.judgeDegraded
  exact .ite ((modHist s _).trans (raise _ _)) (.refl s)

theorem retiring (s : State) (n : Fin 16) (touched : Bool) : Moved s (s.retiring n touched) := by
  unfold State.retiring
  have hlost : Moved s (if touched then s else s.loseUnsent n) := .ite (.refl s) (loseUnsent s n)
  exact ((hlost.trans (modHist _ _)).trans (requestRewrite _)).trans (raise _ _)

theorem retireSector (s : State) (n : Fin 16) (touched : Bool) : Moved s (s.retireSector n touched) :=
  ((retiring s n touched).trans (judgeDegraded _)).trans (judgeUpload _)

end Moved

theorem judgeDegraded_hist (s : State) : s.judgeDegraded.hist = { s.hist with degraded := s.judgeDegraded.hist.degraded } := by
  unfold judgeDegraded
  split <;> rfl

theorem judgeDegraded_degraded (s : State) (h : s.judgeDegraded.hist.usable < 8) : s.judgeDegraded.hist.degraded = true := by
  rw [judgeDegraded_hist] at h
  unfold judgeDegraded
  split
  · rfl
  · next hn => exact Bool.eq_true_of_not_eq_false fun hd => hn ⟨h, hd⟩

theorem retiring_hist (s : State) (n : Fin 16) (touched : Bool) : (s.retiring n touched).hist =
    { (if touched then s else s.loseUnsent n).hist with
      sectors := s.hist.sectors.modify n fun x => { x with state := .retired, touched := x.touched || touched } } := by
  have hsectors : (if touched then s else s.loseUnsent n).hist.sectors = s.hist.sectors := by
    split
    · rfl
    · rw [loseUnsent_hist]
  rw [← hsectors, retiring]
  generalize (if touched then s else s.loseUnsent n) = u
  rw [raise_hist, requestRewrite_frame]
  rfl

/-- What a retirement does to the store (R150). -/
theorem retireSector_hist (s : State) (n : Fin 16) (touched : Bool) : (s.retireSector n touched).hist =
    { (if touched then s else s.loseUnsent n).hist with
      sectors := s.hist.sectors.modify n fun x => { x with state := .retired, touched := x.touched || touched }
      degraded := (s.retireSector n touched).hist.degraded
      uploadWanted := (s.retireSector n touched).hist.uploadWanted } := by
  rw [retireSector_eq, judgeUpload_frame, judgeDegraded_hist, retiring_hist]

theorem retireSector_read (s : State) (n a : Fin 16) (touched : Bool) : (s.retireSector n touched).hist.sectors.read a =
    if a = n then { s.hist.sectors.read a with state := .retired, touched := (s.hist.sectors.read a).touched || touched }
    else s.hist.sectors.read a := by
  rw [retireSector_hist]; exact Table.read_modify _ _ _ _

theorem retireSector_degraded (s : State) (n : Fin 16) (touched : Bool) (h : (s.retireSector n touched).hist.usable < 8) :
    (s.retireSector n touched).hist.degraded = true := by
  rw [retireSector_eq, judgeUpload_frame] at h ⊢
  exact judgeDegraded_degraded _ h

theorem retireSector_store (s : State) (n : Fin 16) (touched : Bool) (q : Port) :
    hasKind ((s.retireSector n touched).ports.at q).pending .store = true :=
  store_judgeUpload ((Moved.judgeDegraded _).store q (hasKind_raise _ _ _))

theorem retireSector_rewrite (s : State) (n : Fin 16) (touched : Bool) :
    BankOp.counterRewrite ∈ (s.retireSector n touched).bank.queue :=
  ((Moved.judgeDegraded (s.retiring n touched)).trans (.judgeUpload _)).bank _ (mem_requestRewrite _)

theorem unsentLost_retireSector (s : State) (n : Fin 16) : s.UnsentLost n (s.retireSector n false) :=
  (s.unsentLost_loseUnsent n).of_agree rfl rfl rfl (by rw [retireSector_hist]; rfl) (by rw [retireSector_hist]; rfl)
    fun q _ => retireSector_store s n false q

/-! ### A choice that finds no sector (R151) -/

theorem pending_answerRead (s : State) (r : HeldRead) (q : Port) :
    ((s.answerRead r).ports.at q).pending = (s.ports.at q).pending := by
  simp only [answerRead, reply_ports, PerPort.at_put]
  split <;> [subst_vars; skip] <;> rfl

theorem pending_answerReads (s : State) (q : Port) : (s.answerReads.ports.at q).pending = (s.ports.at q).pending := by
  have hfold : ((s.heldReads.foldl answerRead s).ports.at q).pending = (s.ports.at q).pending :=
    List.foldlRecOn (motive := fun t : State => (t.ports.at q).pending = (s.ports.at q).pending) s.heldReads answerRead rfl
      fun t h r _ => (t.pending_answerRead r q).trans h
  unfold answerReads
  split
  · rfl
  · simpa [landed] using hfold

/-- A STALL mark touches the queue and its counts, or the marks that wait in START (R154, R166). -/
theorem ownMark_stall_frame (s : State) (a b : Nat) : s.ownMark (.stall a b) = { s with
    hist := { s.hist with
      queue := (s.ownMark (.stall a b)).hist.queue
      queuedSamples := (s.ownMark (.stall a b)).hist.queuedSamples
      queuedMarks := (s.ownMark (.stall a b)).hist.queuedMarks
      droppedSamples := (s.ownMark (.stall a b)).hist.droppedSamples
      droppedMarks := (s.ownMark (.stall a b)).hist.droppedMarks
      program := (s.ownMark (.stall a b)).hist.program }
    marks := (s.ownMark (.stall a b)).marks } := by
  have hd : ∀ t : State, t.markDropped (.stall a b) = t := fun _ => rfl
  unfold ownMark createMark
  rw [hd]
  split
  · rfl
  · split
    · rfl
    · split <;> rfl

theorem ownMark_stall_marks (hm : s.ctl.mode ≠ .start) (a b : Nat) : (s.ownMark (.stall a b)).marks = s.marks := by
  have hd : ∀ t : State, t.markDropped (.stall a b) = t := fun _ => rfl
  rw [ownMark, if_neg hm, createMark, hd]
  split
  · rfl
  · split <;> rfl

/-- The store without a next sector, before the STALL mark of a choice that finds none (R151). -/
def unchosen (s : State) : State := s.modHist fun h => { h with next := none, stalled := true }

/-- The STALL mark of a choice that finds no sector (R151). -/
def stallMark (s : State) : Mark := .stall s.hist.usable (setSize s.claims.pins)

theorem stall_eq (s : State) : s.stall = { s.unchosen.ownMark s.stallMark with ports := s.stall.ports, heldReads := [] } :=
  answerReads_frame _

/-- What a choice without a sector changes (R151). -/
theorem stall_frame (s : State) : s.stall = { s with
    hist := { s.hist with
      queue := s.stall.hist.queue, queuedSamples := s.stall.hist.queuedSamples, queuedMarks := s.stall.hist.queuedMarks
      droppedSamples := s.stall.hist.droppedSamples, droppedMarks := s.stall.hist.droppedMarks
      program := s.stall.hist.program, next := none, stalled := true }
    marks := s.stall.marks
    ports := s.stall.ports
    heldReads := [] } := by
  have hown : s.unchosen.ownMark s.stallMark = _ := ownMark_stall_frame _ _ _
  have heq := s.stall_eq
  generalize s.stall = t at heq ⊢
  generalize s.unchosen.ownMark s.stallMark = w at hown heq
  rw [heq, hown]
  rfl

theorem stall_marks (hm : s.ctl.mode ≠ .start) : s.stall.marks = s.marks := by
  rw [stall_eq]; exact ownMark_stall_marks (s := s.unchosen) hm _ _

theorem stall_queue_start (hm : s.ctl.mode = .start) : s.stall.hist.queue = s.hist.queue := by
  have hown : s.unchosen.ownMark s.stallMark = s.unchosen.request s.stallMark := if_pos hm
  rw [stall_eq, hown]; rfl

theorem stall_queue_room (hm : s.ctl.mode ≠ .start) (hq : s.hist.queue.length < 8) :
    s.stall.hist.queuedMarks = s.hist.queuedMarks + 1 ∧
      s.stall.hist.queue = s.hist.queue ++ [{ time := s.now, body := .mark s.stallMark }] := by
  have hown : s.unchosen.ownMark s.stallMark = s.unchosen.createMark s.stallMark := if_neg hm
  rw [stall_eq, hown, createMark_room (s := s.unchosen) hq]
  exact ⟨rfl, rfl⟩

theorem store_stall (s : State) (q : Port) : hasKind (s.stall.ports.at q).pending .store = true := by
  unfold stall
  rw [pending_answerReads]
  exact hasKind_raise _ _ _

theorem readsAnswered_stall (s : State) : s.ReadsAnswered s.stall := by
  refine (readsAnswered_answerReads _).of_agree ?_ fun q => ?_
  · rw [raise_heldReads, ownMark_stall_frame]; rfl
  · rw [responses_raise, ownMark_stall_frame]; rfl

/-! ### The choice of the next sector (R149) -/

theorem firstChoice_spec (h : s.firstChoice = some n) : (s.hist.sectors.read n).state ≠ .retired ∧
    s.claims.pins.getLsbD n.val = false ∧ ∀ i, s.hist.current = some i → n ≠ i := by
  have hn := List.find?_some h
  simp only [Bool.and_eq_true, bne_iff_ne, Bool.not_eq_true'] at hn
  refine ⟨hn.1, hn.2, fun i hi => ?_⟩
  have hmem := List.mem_of_find?_eq_some h
  rw [hi, ringAfter, List.mem_map] at hmem
  obtain ⟨k, -, rfl⟩ := hmem
  rw [ne_eq, Fin.ext_iff]
  dsimp only
  omega

/-- FULL sectors that are marked for retirement, retired one after another as a choice falls on them (R149). -/
inductive Retirements (s : State) : State → Prop
  | none : Retirements s s
  | retired {u : State} {n : Fin 16} (h : Retirements s u) (hn : u.firstChoice = some n)
      (hf : (u.hist.sectors.read n).state = .full) (hm : (u.hist.sectors.read n).marked = true) :
      Retirements s (u.retireSector n false)

/-- How a choice ends, its retirements made: with no sector, with one that is erased, or with one that is not FULL (R149). -/
inductive Choice (u : State) : State → Prop
  | none : Choice u u.stall
  | erased {n : Fin 16} (hn : u.firstChoice = some n) (hf : (u.hist.sectors.read n).state = .full)
      (hm : (u.hist.sectors.read n).marked = false) : Choice u ((u.startErase n).takeNext n)
  | taken {n : Fin 16} (hn : u.firstChoice = some n) (hf : (u.hist.sectors.read n).state ≠ .full) : Choice u (u.takeNext n)

theorem chooseFuel_cases (fuel : Nat) (h : Retirements s u) : ∃ v, Retirements s v ∧ Choice v (chooseFuel fuel u) := by
  induction fuel generalizing u with
  | zero => exact ⟨u, h, .none⟩
  | succ fuel ih =>
    unfold chooseFuel
    split
    · exact ⟨u, h, .none⟩
    · next n hn =>
      dsimp only
      split
      · next hf =>
        split
        · next hm => exact ih (h.retired hn hf hm)
        · next hm => exact ⟨u, h, .erased hn hf (Bool.eq_false_iff.mpr hm)⟩
      · next hf => exact ⟨u, h, .taken hn hf⟩

theorem chooseNext_cases (s : State) : ∃ u, Retirements s u ∧ Choice u s.chooseNext := chooseFuel_cases 16 .none

namespace Retirements

theorem moved (h : Retirements s u) : Moved s u := by
  induction h with
  | none => exact .refl s
  | retired _ _ _ _ ih => exact ih.trans (.retireSector _ _ _)

/-- Each sector stays as it is, or was FULL and marked and is retired. -/
theorem sector (h : Retirements s u) (a : Fin 16) : u.hist.sectors.read a = s.hist.sectors.read a ∨
    (s.hist.sectors.read a).state = .full ∧ (s.hist.sectors.read a).marked = true ∧
      (u.hist.sectors.read a).state = .retired := by
  induction h with
  | none => exact .inl rfl
  | retired _ _ hf hm ih =>
    rw [retireSector_read]
    split
    · next ha =>
      subst ha
      rcases ih with ih | ⟨hsf, hsm, -⟩
      · exact .inr ⟨ih ▸ hf, ih ▸ hm, rfl⟩
      · exact .inr ⟨hsf, hsm, rfl⟩
    · exact ih

/-- Where no FULL sector is marked there is nothing to retire. -/
theorem eq_of_unmarked (h : Retirements s u)
    (hs : ∀ a, (s.hist.sectors.read a).state = .full → (s.hist.sectors.read a).marked = false) : u = s := by
  induction h with
  | none => rfl
  | retired _ _ hf hm ih =>
    subst ih
    rw [hs _ hf] at hm
    exact absurd hm Bool.false_ne_true

theorem degraded (h : Retirements s u) (hs : s.hist.usable < 8 → s.hist.degraded = true) :
    u.hist.usable < 8 → u.hist.degraded = true := by
  induction h with
  | none => exact hs
  | retired => exact retireSector_degraded _ _ _

theorem hist (h : Retirements s u) : u.hist = { s.hist with
    sectors := u.hist.sectors, acked := u.hist.acked, lostUnsent := u.hist.lostUnsent
    uploadWanted := u.hist.uploadWanted, degraded := u.hist.degraded } := by
  induction h with
  | none => rfl
  | retired _ _ _ _ ih =>
    rw [retireSector_hist, if_neg Bool.false_ne_true, loseUnsent_hist, ih]

end Retirements

/-- What a choice does once its retirements are made (R149, R151). -/
structure Chosen (u t : State) : Prop where
  frame : t = { u with
    hist := { u.hist with
      sectors := t.hist.sectors, next := t.hist.next, eraseQueue := t.hist.eraseQueue, secondErase := t.hist.secondErase
      acked := t.hist.acked, lostUnsent := t.hist.lostUnsent, uploadWanted := t.hist.uploadWanted
      stalled := t.hist.stalled, queue := t.hist.queue, queuedSamples := t.hist.queuedSamples
      queuedMarks := t.hist.queuedMarks, droppedSamples := t.hist.droppedSamples, droppedMarks := t.hist.droppedMarks
      program := t.hist.program }
    marks := t.marks, ports := t.ports, heldReads := t.heldReads }
  stalled : t.hist.stalled = true ↔ t.hist.next = none
  stall : t.hist.next = none → t = u.stall
  choice : ∀ n, t.hist.next = some n → u.firstChoice = some n
  sector : ∀ a, t.hist.sectors.read a = u.hist.sectors.read a ∨ (u.hist.sectors.read a).state = .full ∧
    t.hist.next = some a ∧ t.hist.sectors.read a = { u.hist.sectors.read a with state := .erasing }
  queue : t.hist.next ≠ none ∨ u.ctl.mode = .start → t.hist.queue = u.hist.queue
  marks : u.ctl.mode ≠ .start → t.marks = u.marks
  store : ∀ q, hasKind (u.ports.at q).pending .store = true → hasKind (t.ports.at q).pending .store = true
  erases : u.hist.eraseQueue <+: t.hist.eraseQueue
  taken : ∀ n, t.hist.next = some n → (u.hist.sectors.read n).state ≠ .full →
    t.hist.lostUnsent = u.hist.lostUnsent ∧ t.hist.acked = u.hist.acked
  erased : ∀ n, t.hist.next = some n → (u.hist.sectors.read n).state = .full →
    (t.hist.sectors.read n).state = .erasing ∧ n ∈ t.hist.eraseQueue ∧ u.UnsentLost n t

theorem chosen_stall (u : State) : Chosen u u.stall where
  frame := by
    have h := u.stall_frame
    generalize u.stall = t at h ⊢
    rw [h]
  stalled := by rw [stall_frame]; exact ⟨fun _ => rfl, fun _ => rfl⟩
  stall := fun _ => rfl
  choice := fun n hn => by rw [stall_frame] at hn; exact absurd hn nofun
  sector := fun a => by rw [stall_frame]; exact .inl rfl
  queue := fun h => stall_queue_start (h.resolve_left fun hn => hn (by rw [stall_frame]))
  marks := stall_marks
  store := fun q _ => u.store_stall q
  erases := by rw [stall_frame]
  taken := fun n hn => by rw [stall_frame] at hn; exact absurd hn nofun
  erased := fun n hn => by rw [stall_frame] at hn; exact absurd hn nofun

theorem chosen_takeNext (hn : u.firstChoice = some n) (hf : (u.hist.sectors.read n).state ≠ .full) :
    Chosen u (u.takeNext n) where
  frame := rfl
  stalled := ⟨nofun, nofun⟩
  stall := nofun
  choice := fun m hm => hn.trans hm
  sector := fun _ => .inl rfl
  queue := fun _ => rfl
  marks := fun _ => rfl
  store := fun _ h => h
  erases := ⟨[], List.append_nil _⟩
  taken := fun _ _ _ => ⟨rfl, rfl⟩
  erased := fun m hm hfull => by
    obtain rfl := Option.some.inj hm
    exact absurd hfull hf

/-- A sector whose erase starts (R149). -/
theorem startErase_frame (u : State) (n : Fin 16) : u.startErase n = { u with
    hist := { u.hist with
      sectors := u.hist.sectors.modify n fun x => { x with state := .erasing }
      eraseQueue := u.hist.eraseQueue ++ [n]
      secondErase := (u.startErase n).hist.secondErase
      acked := (u.loseUnsent n).hist.acked, lostUnsent := (u.loseUnsent n).hist.lostUnsent
      uploadWanted := (u.loseUnsent n).hist.uploadWanted }
    ports := (u.loseUnsent n).ports } := by
  have hlost : u.loseUnsent n = { u with hist := (u.loseUnsent n).hist, ports := (u.loseUnsent n).ports } := by
    unfold loseUnsent
    dsimp only
    split
    · rfl
    · rw [judgeUpload_frame]; rfl
  rw [loseUnsent_hist] at hlost
  unfold startErase
  generalize u.loseUnsent n = v at hlost ⊢
  rw [hlost]
  rfl

theorem chosen_startErase (hn : u.firstChoice = some n) (hf : (u.hist.sectors.read n).state = .full) :
    Chosen u ((u.startErase n).takeNext n) where
  frame := by rw [startErase_frame]; rfl
  stalled := ⟨nofun, nofun⟩
  stall := nofun
  choice := fun m hm => hn.trans hm
  sector := fun a => by
    rw [takeNext, startErase_frame]
    change Table.read (u.hist.sectors.modify n _) a = _ ∨ _ ∧ _ ∧ Table.read (u.hist.sectors.modify n _) a = _
    rw [Table.read_modify]
    split
    · next ha => exact .inr ⟨ha ▸ hf, congrArg some ha.symm, rfl⟩
    · exact .inl rfl
  queue := fun _ => by rw [takeNext, startErase_frame]; rfl
  marks := fun _ => by rw [takeNext, startErase_frame]; rfl
  store := (Moved.startErase u n).store
  erases := by rw [takeNext, startErase_frame]; exact ⟨[n], rfl⟩
  taken := fun m hm hfull => by
    obtain rfl := Option.some.inj hm
    exact absurd hf hfull
  erased := fun m hm _ => by
    obtain rfl := Option.some.inj hm
    refine ⟨?_, ?_, (u.unsentLost_loseUnsent n).of_agree rfl rfl rfl ?_ ?_ ?_⟩
    all_goals rw [takeNext, startErase_frame]
    · exact congrArg Sector.state (Table.read_modify_same _ _ _)
    · exact List.mem_append_right _ (List.mem_singleton.mpr rfl)
    · rfl
    · rfl
    · exact fun _ h => h

theorem Choice.chosen (h : Choice u t) : Chosen u t := by
  cases h with
  | none => exact chosen_stall u
  | erased hn hf _ => exact chosen_startErase hn hf
  | taken hn hf => exact chosen_takeNext hn hf

end State

end Sys2Proof.Machine

namespace Sys2Proof.Machine

namespace State

variable {s t u v : State} {n i j : Fin 16}

theorem usable_agree (h : ∀ a, (t.hist.sectors.read a).state = .retired ↔ (s.hist.sectors.read a).state = .retired) :
    t.hist.usable = s.hist.usable := by
  have hf : (fun a => (t.hist.sectors.read a).state != SectorState.retired) =
      fun a => (s.hist.sectors.read a).state != SectorState.retired :=
    funext fun a => by rw [Bool.eq_iff_iff, bne_iff_ne, bne_iff_ne, ne_eq, ne_eq, h a]
  rw [History.usable, History.usable, Table.indices, Table.indices, hf]

/-- What the store's choice of the next sector does (R149, R150, R151). -/
structure NextChosen (s t : State) : Prop where
  current : t.hist.current = s.hist.current
  newest : t.hist.newest = s.hist.newest
  cons : t.cons = s.cons
  claims : t.claims = s.claims
  marks : s.ctl.mode ≠ .start → t.marks = s.marks
  bank : ∀ op ∈ s.bank.queue, op ∈ t.bank.queue
  store : ∀ q, hasKind (s.ports.at q).pending .store = true → hasKind (t.ports.at q).pending .store = true
  erases : s.hist.eraseQueue <+: t.hist.eraseQueue
  degraded : (s.hist.usable < 8 → s.hist.degraded = true) → t.hist.usable < 8 → t.hist.degraded = true
  stalled : t.hist.stalled = true ↔ t.hist.next = none
  queue : t.hist.next ≠ none ∨ s.ctl.mode = .start → t.hist.queue = s.hist.queue
  answered : t.hist.next = none → s.ReadsAnswered t ∧ ∀ q, hasKind (t.ports.at q).pending .store = true
  stallMark : t.hist.next = none → s.ctl.mode ≠ .start → s.hist.queue.length < 8 →
    t.hist.queuedMarks = s.hist.queuedMarks + 1 ∧ t.hist.queue = s.hist.queue ++ [{ time := s.now, body := .mark t.stallMark }]
  sector : ∀ a, t.hist.sectors.read a = s.hist.sectors.read a ∨ (s.hist.sectors.read a).state = .full ∧
    ((s.hist.sectors.read a).marked = true ∧ (t.hist.sectors.read a).state = .retired ∨
      t.hist.next = some a ∧ (t.hist.sectors.read a).state = .erasing)
  choice : ∀ n, t.hist.next = some n → s.claims.pins.getLsbD n.val = false ∧
    (∀ i, s.hist.current = some i → n ≠ i) ∧
    (t.hist.sectors.read n).state ≠ .retired ∧ (t.hist.sectors.read n).state ≠ .full
  taken : (∀ a, (s.hist.sectors.read a).marked = false) → ∀ n, t.hist.next = some n →
    (s.hist.sectors.read n).state ≠ .full → t.hist.lostUnsent = s.hist.lostUnsent ∧ t.hist.acked = s.hist.acked
  erased : (∀ a, (s.hist.sectors.read a).marked = false) → ∀ n, t.hist.next = some n →
    (s.hist.sectors.read n).state = .full →
    (t.hist.sectors.read n).state = .erasing ∧ n ∈ t.hist.eraseQueue ∧ s.UnsentLost n t

theorem Retirements.nextChosen (h : Retirements s u) (g : Chosen u t) : NextChosen s t := by
  have hmoved := h.moved
  have hhist := h.hist
  have hmode : u.ctl.mode = s.ctl.mode := by rw [hmoved.frame]
  have hclaims : u.claims = s.claims := by rw [hmoved.frame]
  have hclaims' : t.claims = s.claims := by rw [g.frame, hclaims]
  have hqueue : u.hist.queue = s.hist.queue := by rw [hhist]
  have husable : t.hist.usable = u.hist.usable := usable_agree fun a => by
    rcases g.sector a with ha | ⟨hf, -, ha⟩
    · rw [ha]
    · simp [ha, hf]
  have hunmarked : (∀ a, (s.hist.sectors.read a).marked = false) → u = s := fun hs => h.eq_of_unmarked fun a _ => hs a
  refine ⟨?_, ?_, ?_, hclaims', fun hm => ?_, fun op hop => ?_, fun q hq => g.store q (hmoved.store q hq), ?_,
    fun hs hlt => ?_, g.stalled, fun hn => ?_, fun hn => ⟨?_, fun q => ?_⟩, fun hn hm hq => ?_, fun a => ?_,
    fun n hn => ?_, fun hs n hn hf => ?_, fun hs n hn hf => ?_⟩
  · rw [g.frame, hhist]
  · rw [g.frame, hhist]
  · rw [g.frame, hmoved.frame]
  · rw [g.marks (hmode ▸ hm), hmoved.frame]
  · rw [g.frame]; exact hmoved.bank op hop
  · have := g.erases; rwa [hhist] at this
  · have := h.degraded hs (husable ▸ hlt)
    rwa [g.frame]
  · rw [g.queue (hmode ▸ hn), hqueue]
  · rw [g.stall hn]
    exact u.readsAnswered_stall.of_agree (by rw [hmoved.frame]) hmoved.responses
  · rw [g.stall hn]; exact u.store_stall q
  · obtain ⟨hm', hq'⟩ := stall_queue_room (hmode ▸ hm) (hqueue ▸ hq)
    have hstall : t.stallMark = u.stallMark := by rw [stallMark, husable, hclaims', ← hclaims]; rfl
    have hnow : u.now = s.now := by rw [hmoved.frame]; rfl
    rw [hstall, g.stall hn, hm', hq', hnow, hqueue, hhist]
    exact ⟨rfl, rfl⟩
  · rcases g.sector a with ha | ⟨hf, hn, ha⟩
    · rw [ha]
      exact (h.sector a).imp id fun ⟨hf, hm, hr⟩ => ⟨hf, .inl ⟨hm, hr⟩⟩
    · rcases h.sector a with hsa | ⟨-, -, hr⟩
      · exact .inr ⟨hsa ▸ hf, .inr ⟨hn, by rw [ha]⟩⟩
      · rw [hr] at hf; exact absurd hf nofun
  · obtain ⟨hr, hp, hi⟩ := firstChoice_spec (g.choice n hn)
    refine ⟨hclaims ▸ hp, fun i hcur => hi i (by rw [hhist]; exact hcur), ?_⟩
    rcases g.sector n with ha | ⟨-, -, ha⟩
    · refine ⟨ha ▸ hr, fun hf => ?_⟩
      have her := (g.erased n hn (ha ▸ hf)).1
      rw [hf] at her; exact absurd her nofun
    · rw [ha]; exact ⟨nofun, nofun⟩
  · obtain rfl := hunmarked hs
    exact g.taken n hn hf
  · obtain rfl := hunmarked hs
    exact g.erased n hn hf

theorem nextChosen_chooseNext (s : State) : NextChosen s s.chooseNext := by
  obtain ⟨u, hret, hchoice⟩ := s.chooseNext_cases
  exact hret.nextChosen hchoice.chosen

end State

/-! ### A new sector handed to the claims unit (R113, R116) -/

/-- A claim after a sector was left at which growing windows are cut (R116). -/
def Claim.cutAt (last : Nat) (k : Claim) : Claim := if k.growing then { k with endCut := true, last := some last } else k

theorem Claim.growing_iff {k : Claim} : k.growing = true ↔ k.state = .gathering ∧ k.endCut = false := by
  simp [Claim.growing]

theorem Claim.cutAt_cutAt (last : Nat) (k : Claim) : (k.cutAt last).cutAt last = k.cutAt last := by
  by_cases h : k.growing = true
  · have hcut : k.cutAt last = { k with endCut := true, last := some last } := if_pos h
    rw [hcut, Claim.cutAt, if_neg (by simp [Claim.growing])]
  · have hcut : k.cutAt last = k := if_neg h
    rw [hcut, hcut]

namespace State

variable {s t : State} {i j : Fin 16} {last : Nat}

/-- What cutting the claims in the slots listed does (R116). -/
structure ClaimsCut (last : Nat) (l : List (Fin 16)) (s t : State) : Prop where
  frame : t = { s with claims := { s.claims with table := t.claims.table }, marks := t.marks }
  cut : ∀ a ∈ l, t.claims.table.read a = (s.claims.table.read a).map (Claim.cutAt last)
  other : ∀ a, a ∉ l → t.claims.table.read a = s.claims.table.read a
  kept : ∀ m ∈ s.marks, m ∈ t.marks
  mark : ∀ a ∈ l, ∀ k, s.claims.table.read a = some k → k.growing = true → Mark.claimCut k.number last ∈ t.marks

theorem cutClaim_growing {a : Fin 16} {k : Claim} (hk : s.claims.table.read a = some k) (hg : k.growing = true) :
    s.cutClaim last a = { s with
      claims := { s.claims with table := s.claims.table.write a (some (k.cutAt last)) }
      marks := s.marks ++ [.claimCut k.number last] } := by
  rw [cutClaim, hk, Claim.cutAt, if_pos hg]; exact if_pos hg

theorem cutClaim_still {a : Fin 16} (h : ∀ k, s.claims.table.read a = some k → k.growing = false) :
    s.cutClaim last a = s := by
  unfold cutClaim
  split
  · next k hk => exact if_neg (by simp [h k hk])
  · rfl

theorem claimsCut_cutClaim (last : Nat) (s : State) (a : Fin 16) : ClaimsCut last [a] s (s.cutClaim last a) := by
  by_cases h : ∃ k, s.claims.table.read a = some k ∧ k.growing = true
  · obtain ⟨k, hk, hg⟩ := h
    rw [cutClaim_growing hk hg]
    refine ⟨rfl, fun b hb => ?_, fun b hb => Table.read_write_other _ _ (by simpa using hb),
      fun m hm => List.mem_append_left _ hm, fun b hb m hm _ => List.mem_append_right _ ?_⟩
    · obtain rfl := List.mem_singleton.mp hb
      rw [hk]; exact Table.read_write_same _ _ _
    · obtain rfl := List.mem_singleton.mp hb
      obtain rfl := Option.some.inj (hk.symm.trans hm)
      exact List.mem_singleton.mpr rfl
  · have hstill : ∀ k, s.claims.table.read a = some k → k.growing = false := fun k hk =>
      Bool.eq_false_iff.mpr fun hg => h ⟨k, hk, hg⟩
    rw [cutClaim_still hstill]
    refine ⟨rfl, fun b hb => ?_, fun _ _ => rfl, fun _ hm => hm, fun b hb k hk hg => ?_⟩
    · obtain rfl := List.mem_singleton.mp hb
      rcases hk : s.claims.table.read b with _ | k
      · rfl
      · rw [Option.map_some, Claim.cutAt, if_neg (by simp [hstill k hk])]
    · obtain rfl := List.mem_singleton.mp hb
      exact absurd ⟨k, hk, hg⟩ h

theorem ClaimsCut.cons {a : Fin 16} {l : List (Fin 16)} {u : State} (h : ClaimsCut last [a] s t) (g : ClaimsCut last l t u) :
    ClaimsCut last (a :: l) s u where
  frame := by rw [g.frame, h.frame]
  cut := fun b hb => by
    by_cases hba : b = a <;> by_cases hl : b ∈ l
    · rw [g.cut b hl, h.cut b (List.mem_singleton.mpr hba), Option.map_map]
      exact congrArg (Option.map · _) (funext (Claim.cutAt_cutAt last))
    · rw [g.other b hl, h.cut b (List.mem_singleton.mpr hba)]
    · rw [g.cut b hl, h.other b (by simpa using hba)]
    · exact absurd hb (by simp [hba, hl])
  other := fun b hb => by
    obtain ⟨hba, hl⟩ := not_or.mp (mt List.mem_cons.mpr hb)
    rw [g.other b hl, h.other b (by simpa using hba)]
  kept := fun m hm => g.kept m (h.kept m hm)
  mark := fun b hb k hk hg => by
    by_cases hba : b = a
    · exact g.kept _ (h.mark b (List.mem_singleton.mpr hba) k hk hg)
    · refine g.mark b ((List.mem_cons.mp hb).resolve_left hba) k ?_ hg
      rw [h.other b (by simpa using hba), hk]

theorem claimsCut_fold (last : Nat) (l : List (Fin 16)) : ∀ s : State, ClaimsCut last l s (l.foldl (cutClaim last) s) := by
  induction l with
  | nil => exact fun s => ⟨rfl, nofun, fun _ _ => rfl, fun _ h => h, nofun⟩
  | cons a l ih => exact fun s => (claimsCut_cutClaim last s a).cons (ih _)

theorem any_growing_iff :
    s.claimsPresent.any Claim.growing = true ↔ ∃ a k, s.claims.table.read a = some k ∧ k.growing = true := by
  simp only [claimsPresent, List.any_eq_true, List.mem_filterMap, Table.mem_toList_iff, id, exists_eq_right]
  exact ⟨fun ⟨k, ⟨a, ha⟩, hg⟩ => ⟨a, k, ha, hg⟩, fun ⟨a, k, ha, hg⟩ => ⟨k, ⟨a, ha⟩, hg⟩⟩

theorem newSector_none (h : ∀ a k, s.claims.table.read a = some k → k.growing = false) (left : Option (Fin 16)) :
    s.newSector i left = s := by
  refine if_pos ?_
  rw [Bool.not_eq_true', Bool.eq_false_iff, ne_eq, any_growing_iff]
  rintro ⟨a, k, hk, hg⟩
  rw [h a k hk] at hg
  exact absurd hg Bool.false_ne_true

section growing

variable (hg : ∃ a k, s.claims.table.read a = some k ∧ k.growing = true) (left : Option (Fin 16))

include hg

theorem newSector_pinned (hf : fits s.hist s.claims.pins (single i) = true) :
    s.newSector i left = { s with claims := { s.claims with pins := s.claims.pins ||| single i } } := by
  rw [newSector, any_growing_iff.mpr hg]; exact if_pos hf

theorem newSector_cut (hf : ¬ fits s.hist s.claims.pins (single i) = true) :
    ClaimsCut (s.cutLast left) (List.finRange 16) s (s.newSector i left) := by
  rw [newSector, any_growing_iff.mpr hg, if_neg (by simp), if_neg hf]
  exact claimsCut_fold _ _ _

end growing

theorem newSector_frame (s : State) (i : Fin 16) (left : Option (Fin 16)) : s.newSector i left = { s with
    claims := (s.newSector i left).claims, marks := (s.newSector i left).marks } := by
  unfold newSector
  split
  · rfl
  · split
    · rfl
    · have h := (claimsCut_fold (s.cutLast left) (List.finRange 16) s).frame
      generalize (List.finRange 16).foldl (cutClaim (s.cutLast left)) s = t at h ⊢
      rw [h]

/-- Growing windows are cut at the highest sequence of the sector left (R116). -/
theorem cutLast_highest {r : Record} (hr : Slot.record r ∈ (s.hist.sectors.read j).slots)
    (hle : ∀ q, Slot.record q ∈ (s.hist.sectors.read j).slots → q.sequence ≤ r.sequence) :
    s.cutLast (some j) = r.sequence := by
  have hmem : ∀ q, q ∈ (s.hist.sectors.read j).records ↔ Slot.record q ∈ (s.hist.sectors.read j).slots := fun q => by
    rw [Sector.records, List.mem_filterMap]
    constructor
    · rintro ⟨x, hx, h⟩
      split at h
      · obtain rfl := Option.some.inj h; exact hx
      · exact absurd h nofun
    · exact fun h => ⟨_, h, rfl⟩
  have hmax : ((s.hist.sectors.read j).records.map fun r => r.sequence).max? = some r.sequence := by
    refine List.max?_eq_some_iff.mpr ⟨List.mem_map_of_mem ((hmem r).mpr hr), fun n hn => ?_⟩
    obtain ⟨q, hq, rfl⟩ := List.mem_map.mp hn
    exact hle q ((hmem q).mp hq)
  rw [cutLast, Option.bind_some, hmax]; rfl

/-! ### A full sector left for the next one (R148) -/

/-- The store as the sector `j` is left and `i` begun, before the claims unit is handed the beginning (R148). -/
def entered (s : State) (i j : Fin 16) : State :=
  (s.modHist fun h => h.modSector j fun x => { x with state := .full }).modHist fun h =>
    { (h.modSector i fun x => { x with state := .writing }).openStretch i 0 with current := some i, next := none }

theorem beginSector_eq (hj : s.hist.current = some j) :
    s.beginSector i = ((s.entered i j).newSector i (some j)).chooseNext := by rw [beginSector, hj]; rfl

section entered

variable (hij : i ≠ j)

include hij

theorem entered_read_new : (s.entered i j).hist.sectors.read i = { s.hist.sectors.read i with state := .writing } :=
  (Table.read_modify_same _ _ _).trans (congrArg (fun x : Sector => { x with state := .writing })
    (Table.read_modify_other _ _ hij))

theorem entered_read_left : (s.entered i j).hist.sectors.read j = { s.hist.sectors.read j with state := .full } :=
  (Table.read_modify_other _ _ hij.symm).trans (Table.read_modify_same _ _ _)

end entered

theorem entered_read_other {a : Fin 16} (hi : a ≠ i) (hj : a ≠ j) :
    (s.entered i j).hist.sectors.read a = s.hist.sectors.read a :=
  (Table.read_modify_other _ _ hi).trans (Table.read_modify_other _ _ hj)

/-- Voids and slots stay as they are when a sector is left and another begun. -/
theorem entered_slots (hij : i ≠ j) (a : Fin 16) :
    ((s.entered i j).hist.sectors.read a).slots = (s.hist.sectors.read a).slots ∧
      ((s.entered i j).hist.sectors.read a).voids = (s.hist.sectors.read a).voids := by
  by_cases hi : a = i
  · rw [hi, entered_read_new hij]; exact ⟨rfl, rfl⟩
  by_cases hj : a = j
  · rw [hj, entered_read_left hij]; exact ⟨rfl, rfl⟩
  · rw [entered_read_other hi hj]; exact ⟨rfl, rfl⟩

theorem exec_beginNewSector (hp : s.powered = true) (hm : s.ctl.mode ≠ .start) (hj : s.hist.current = some j)
    (hfull : 512 ≤ (s.hist.sectors.read j).slots.length) (hprog : s.hist.program = none) (hw : s.recordWaits = true)
    (hi : s.hist.next = some i) (hr : (s.hist.sectors.read i).state = .ready) :
    exec .beginNewSector s = .next (s.beginSector i) := by
  have hnext : s.readyNext = some i := by rw [readyNext, hi, Option.filter_some, hr]; rfl
  have hslot : s.hist.hasFreeSlot = false := by
    simp only [History.hasFreeSlot, hj, decide_eq_false_iff_not]; omega
  change execBeginNewSector s = _
  rw [execBeginNewSector, hnext]
  simp [hp, hm, hw, hslot, hprog]

end State

end Sys2Proof.Machine

namespace Sys2Proof.Machine

theorem getLsbD_single_self {n : Nat} (i : Fin n) : (single i).getLsbD i.val = true :=
  (BitVec.getLsbD_twoPow i.val i.val).trans (by simp)

namespace State

variable {s t v : State} {i j n : Fin 16}

theorem recordWaits_iff : s.recordWaits = true ↔
    s.hist.queue ≠ [] ∨ s.hist.gapDue = true ∨ s.hist.droppedSamples ≠ 0 ∨ s.hist.droppedMarks ≠ 0 := by
  rw [recordWaits, Bool.or_eq_true, gapWaits_iff, or_comm, Bool.not_eq_true', List.isEmpty_eq_false_iff]

/-- The retired sectors are the same once a WRITING sector has been left for a READY one. -/
theorem entered_usable (hij : i ≠ j) (hi : (s.hist.sectors.read i).state = .ready)
    (hj : (s.hist.sectors.read j).state = .writing) : (s.entered i j).hist.usable = s.hist.usable :=
  usable_agree fun a => by
    by_cases hai : a = i
    · rw [hai, entered_read_new hij, hi]; exact ⟨nofun, nofun⟩
    by_cases haj : a = j
    · rw [haj, entered_read_left hij, hj]; exact ⟨nofun, nofun⟩
    · rw [entered_read_other hai haj]

/-! #### What the claims unit does as a sector is begun (R113, R116) -/

section claims

variable (hv : v = (s.entered i j).newSector i (some j))

include hv

theorem begun_frame : v = { s.entered i j with claims := v.claims, marks := v.marks } := hv ▸ newSector_frame _ _ _

theorem begun_still (h : ∀ a k, s.claims.table.read a = some k → k.state = .gathering → k.endCut = true) :
    v.claims = s.claims ∧ v.marks = s.marks := by
  rw [hv, newSector_none (s := s.entered i j) fun a k hk => ?_]
  · exact ⟨rfl, rfl⟩
  · rw [Bool.eq_false_iff, ne_eq, Claim.growing_iff]
    exact fun ⟨hg, he⟩ => absurd (h a k hk hg) (by simp [he])

variable (hij : i ≠ j) (hi : (s.hist.sectors.read i).state = .ready) (hj : (s.hist.sectors.read j).state = .writing)
  (hgrow : ∃ a k, s.claims.table.read a = some k ∧ k.growing = true)

include hij hi hj hgrow

theorem begun_pinned (hfit : setSize (s.claims.pins ||| single i) ≤ s.hist.usable - 4) :
    v.claims = { s.claims with pins := s.claims.pins ||| single i } ∧ v.marks = s.marks := by
  have hf : fits (s.entered i j).hist s.claims.pins (single i) = true :=
    fits_iff.mpr (.inr (by rw [entered_usable hij hi hj]; exact hfit))
  rw [hv, newSector_pinned (s := s.entered i j) hgrow _ hf]
  exact ⟨rfl, rfl⟩

/-- A sector that is not pinned and does not fit the budget cuts every growing window (R116). -/
theorem begun_cut {r : Record} (hpin : s.claims.pins.getLsbD i.val = false)
    (hfit : s.hist.usable - 4 < setSize (s.claims.pins ||| single i)) (hr : Slot.record r ∈ (s.hist.sectors.read j).slots)
    (hle : ∀ q, Slot.record q ∈ (s.hist.sectors.read j).slots → q.sequence ≤ r.sequence) :
    ClaimsCut r.sequence (List.finRange 16) (s.entered i j) v := by
  have hf : ¬ fits (s.entered i j).hist s.claims.pins (single i) = true := by
    rw [fits_iff, entered_usable hij hi hj]
    rintro (h | h)
    · have hbit : (s.claims.pins ||| single i).getLsbD i.val = true := by
        rw [BitVec.getLsbD_or, getLsbD_single_self, Bool.or_true]
      rw [h, hpin] at hbit
      exact absurd hbit Bool.false_ne_true
    · omega
  have hslots := (entered_slots (s := s) hij j).1
  have hlast : (s.entered i j).cutLast (some j) = r.sequence := cutLast_highest (by rwa [hslots]) (by rwa [hslots])
  rw [hv, ← hlast]
  exact newSector_cut (s := s.entered i j) hgrow _ hf

end claims

/-! #### What the choice of the next sector finds once a sector is begun (R148, R149) -/

section turnOver

variable (hv : v = (s.entered i j).newSector i (some j)) (hij : i ≠ j) (ht : NextChosen v t)

include hv

theorem begun_hist : v.hist = (s.entered i j).hist := by rw [begun_frame hv]

theorem begun_read_other {a : Fin 16} (hai : a ≠ i) (haj : a ≠ j) : v.hist.sectors.read a = s.hist.sectors.read a := by
  rw [begun_hist hv, entered_read_other hai haj]

include hij

theorem begun_left : (v.hist.sectors.read j).state = .full := by rw [begun_hist hv, entered_read_left hij]

theorem begun_slots (a : Fin 16) : (v.hist.sectors.read a).slots = (s.hist.sectors.read a).slots ∧
    (v.hist.sectors.read a).voids = (s.hist.sectors.read a).voids := by
  rw [begun_hist hv]; exact entered_slots hij a

theorem begun_unmarked (hvoids : ∀ a, (s.hist.sectors.read a).voids < 4) (a : Fin 16) :
    (v.hist.sectors.read a).marked = false := by
  rw [Sector.marked, (begun_slots hv hij a).2]
  exact decide_eq_false (Nat.not_le.mpr (hvoids a))

include ht

omit hij in
/-- The sector just begun is not chosen as the next one (R149). -/
theorem next_ne_begun (hn : t.hist.next = some n) : n ≠ i := by
  obtain ⟨-, hcurrent, -⟩ := ht.choice n hn
  exact hcurrent i (by rw [begun_hist hv]; rfl)

theorem turnOver_begun : (t.hist.sectors.read i).state = .writing := by
  have hnew : (v.hist.sectors.read i).state = .writing := by rw [begun_hist hv, entered_read_new hij]
  rcases ht.sector i with h | ⟨hf, -⟩
  · rw [h, hnew]
  · rw [hnew] at hf; exact absurd hf nofun

/-- The sector left stays FULL, or is itself the next one, or is retired (R148, R149). -/
theorem turnOver_left : (t.hist.sectors.read j).state = .full ∨
    ((t.hist.sectors.read j).state = .erasing ∧ t.hist.next = some j) ∨
    ((t.hist.sectors.read j).state = .retired ∧ 4 ≤ (s.hist.sectors.read j).voids) := by
  rcases ht.sector j with h | ⟨-, ⟨hmark, hret⟩ | ⟨hn, her⟩⟩
  · exact .inl (by rw [h, begun_left hv hij])
  · rw [Sector.marked, (begun_slots hv hij j).2] at hmark
    exact .inr (.inr ⟨hret, of_decide_eq_true hmark⟩)
  · exact .inr (.inl ⟨her, hn⟩)

/-- The next sector is READY or ERASING: no third sector was WRITING (R149). -/
theorem turnOver_next (hwriting : ∀ a, (s.hist.sectors.read a).state = .writing → a = j) (hn : t.hist.next = some n) :
    (t.hist.sectors.read n).state = .ready ∨ (t.hist.sectors.read n).state = .erasing := by
  obtain ⟨-, -, hnr, hnf⟩ := ht.choice n hn
  rcases ht.sector n with h | ⟨-, ⟨-, hret⟩ | ⟨-, her⟩⟩
  · have hnw : (v.hist.sectors.read n).state ≠ .writing := fun hst => by
      have hnj : n ≠ j := fun hnj => by rw [hnj, begun_left hv hij] at hst; exact absurd hst nofun
      exact hnj (hwriting n (by rw [← begun_read_other hv (next_ne_begun hv ht hn) hnj, hst]))
    rw [h] at hnr hnf ⊢
    generalize (v.hist.sectors.read n).state = st at hnr hnf hnw
    cases st with
    | ready => exact .inl rfl
    | erasing => exact .inr rfl
    | writing => exact absurd rfl hnw
    | full => exact absurd rfl hnf
    | retired => exact absurd rfl hnr
  · exact absurd hret hnr
  · exact .inr her

variable (hvoids : ∀ a, (s.hist.sectors.read a).voids < 4) (hn : t.hist.next = some n)

include hvoids hn

/-- A next sector that was READY costs no unsent record (R149). -/
theorem turnOver_taken (hnj : n ≠ j) (hready : (s.hist.sectors.read n).state = .ready) :
    t.hist.lostUnsent = s.hist.lostUnsent ∧ t.hist.acked = s.hist.acked := by
  obtain ⟨hlost, hacked⟩ := ht.taken (begun_unmarked hv hij hvoids) n hn
    (by rw [begun_read_other hv (next_ne_begun hv ht hn) hnj, hready]; nofun)
  exact ⟨hlost.trans (by rw [begun_hist hv]; rfl), hacked.trans (by rw [begun_hist hv]; rfl)⟩

/-- A next sector that is FULL is erased, and what it holds unsent is lost (R149). -/
theorem turnOver_erased (hfull : n = j ∨ (s.hist.sectors.read n).state = .full) :
    (t.hist.sectors.read n).state = .erasing ∧ n ∈ t.hist.eraseQueue ∧ s.UnsentLost n t := by
  have hvfull : (v.hist.sectors.read n).state = .full := by
    by_cases hnj : n = j
    · rw [hnj, begun_left hv hij]
    · rw [begun_read_other hv (next_ne_begun hv ht hn) hnj]; exact hfull.resolve_left hnj
  obtain ⟨her, hmem, hlost⟩ := ht.erased (begun_unmarked hv hij hvoids) n hn hvfull
  exact ⟨her, hmem, hlost.of_agree (begun_slots hv hij n).1.symm (by rw [begun_hist hv]; rfl) (by rw [begun_hist hv]; rfl)
    rfl rfl fun _ h => h⟩

end turnOver

/-- A claim in the table after a cut, and one whose window does not grow (R116). -/
theorem ClaimsCut.claim {last : Nat} {a : Fin 16} {k : Claim} (h : ClaimsCut last (List.finRange 16) s t)
    (hk : s.claims.table.read a = some k) : t.claims.table.read a = some (k.cutAt last) := by
  rw [h.cut a (List.mem_finRange a), hk]; rfl

/-! ### Erases (R150) -/

section erase

variable {rest : List (Fin 16)}

theorem exec_sectorEraseComplete (hp : s.powered = true) (he : s.hist.eraseQueue = i :: rest) :
    exec .sectorEraseComplete s = .next { s with hist := { s.hist with
      sectors := s.hist.sectors.write i { state := .ready, slots := [], voids := 0, touched := false }
      eraseQueue := rest
      secondErase := false } } := by
  change Host.Outcome.next (if s.powered then s.eraseDone else s) = _
  rw [if_pos hp, eraseDone, he]
  rfl

/-- The store without the erase that has failed for the second time (R150). -/
def eraseEnded (s : State) (rest : List (Fin 16)) : State :=
  s.modHist fun h => { h with eraseQueue := rest, secondErase := false }

theorem exec_sectorEraseFailure (hp : s.powered = true) (he : s.hist.eraseQueue = i :: rest) :
    exec .sectorEraseFailure s = .next (if s.hist.secondErase
      then ((s.eraseEnded rest).retireSector i true).chooseNext
      else { s with hist := { s.hist with secondErase := true } }) := by
  change Host.Outcome.next (if s.powered then s.eraseFailed else s) = _
  rw [if_pos hp, eraseFailed, he]
  rfl

end erase

/-- The second failure of an erase: the sector is retired and the next one chosen (R150). -/
theorem eraseFailed_twice {rest : List (Fin 16)} (ht : t = ((s.eraseEnded rest).retireSector i true).chooseNext) :
    (t.hist.sectors.read i).state = .retired ∧ (t.hist.usable < 8 → t.hist.degraded = true) ∧
      BankOp.counterRewrite ∈ t.bank.queue ∧ rest <+: t.hist.eraseQueue ∧ t.cons = s.cons ∧
      (s.ctl.mode = .start → t.hist.queue = s.hist.queue) ∧
      (t.hist.next = none → t.hist.stalled = true ∧ s.ReadsAnswered t) ∧
      ∀ q, hasKind (t.ports.at q).pending .store = true := by
  have hmoved := Moved.retireSector (s.eraseEnded rest) i true
  have hhist := retireSector_hist (s.eraseEnded rest) i true
  have hretired : (((s.eraseEnded rest).retireSector i true).hist.sectors.read i).state = .retired := by
    rw [retireSector_read, if_pos rfl]
  have hdegraded := retireSector_degraded (s.eraseEnded rest) i true
  have hrewrite := retireSector_rewrite (s.eraseEnded rest) i true
  have hstore := retireSector_store (s.eraseEnded rest) i true
  generalize (s.eraseEnded rest).retireSector i true = v at hmoved hhist hretired hdegraded hrewrite hstore ht
  have hc := v.nextChosen_chooseNext
  rw [← ht] at hc
  refine ⟨?_, hc.degraded hdegraded, hc.bank _ hrewrite, ?_, ?_, fun hm => ?_,
    fun hn => ⟨hc.stalled.mpr hn, (hc.answered hn).1.of_agree ?_ hmoved.responses⟩, fun q => hc.store q (hstore q)⟩
  · rcases hc.sector i with hi | ⟨hf, -⟩
    · rw [hi, hretired]
    · rw [hretired] at hf; exact absurd hf nofun
  · have herases := hc.erases
    rwa [hhist] at herases
  · rw [hc.cons, hmoved.frame]; rfl
  · rw [hc.queue (.inr (by rw [hmoved.frame]; exact hm)), hhist]; rfl
  · rw [hmoved.frame]; rfl

end State

/-- Settles O45. -/
theorem sectorsTurnOverAndRetire : Obligations.SectorsTurnOverAndRetire := by
  unfold Obligations.SectorsTurnOverAndRetire
  intro s hp
  refine ⟨fun i j hm hj hfull hprog hw hi hij hr hwriting => ?_, fun n t ht => ?_, fun i rest he => ?_⟩
  · rw [State.exec_beginNewSector hp hm hj hfull hprog (State.recordWaits_iff.mpr hw) hi hr, State.beginSector_eq hj]
    obtain ⟨v, hv⟩ : ∃ v, v = (s.entered i j).newSector i (some j) := ⟨_, rfl⟩
    have hframe := State.begun_frame hv
    have hhist := State.begun_hist hv
    have ht := v.nextChosen_chooseNext
    rw [← hv]
    generalize v.chooseNext = t at ht ⊢
    have hmode : v.ctl.mode ≠ .start := by rw [hframe]; exact hm
    refine ⟨t, rfl, ht.current.trans (by rw [hhist]; rfl), State.turnOver_begun hv hij ht, State.turnOver_left hv hij ht,
      ht.newest.trans (by rw [hhist]; rfl), ht.cons.trans (by rw [hframe]; rfl), ht.stalled,
      fun hn => (ht.queue (.inl hn)).trans (by rw [hhist]; rfl),
      fun hn => ⟨(ht.answered hn).1.of_agree (by rw [hframe]; rfl) fun q => by rw [hframe]; rfl, (ht.answered hn).2,
        fun hq => ?_⟩,
      fun n hvoids hn => ⟨State.turnOver_taken hv hij ht hvoids hn, State.turnOver_erased hv hij ht hvoids hn⟩,
      fun n hn => ⟨State.next_ne_begun hv ht hn, ?_, State.turnOver_next hv hij ht hwriting hn⟩,
      fun hcut => ?_, fun a k hw hk hg hc => ⟨fun hfit => ?_, fun r hpin hfit hrec hle => ?_⟩⟩
    · have hmark := ht.stallMark hn hmode (by rw [hhist]; exact hq)
      have hnow : v.now = s.now := by rw [hframe]; rfl
      rw [hnow, hhist] at hmark
      exact hmark
    · obtain ⟨hpin, -⟩ := ht.choice n hn
      rw [ht.claims]; exact hpin
    · obtain ⟨hclaims, hmarks⟩ := State.begun_still hv hcut
      exact ⟨ht.claims.trans hclaims, (ht.marks hmode).trans hmarks⟩
    · obtain ⟨hclaims, hmarks⟩ := State.begun_pinned hv hij hr hw ⟨a, k, hk, Claim.growing_iff.mpr ⟨hg, hc⟩⟩ hfit
      exact ⟨ht.claims.trans hclaims, (ht.marks hmode).trans hmarks⟩
    · have hgrow := Claim.growing_iff.mpr ⟨hg, hc⟩
      have hcut := State.begun_cut hv hij hr hw ⟨a, k, hk, hgrow⟩ hpin hfit hrec hle
      rw [ht.claims, ht.marks hmode]
      refine ⟨congrArg State.claims hcut.frame, (hcut.claim (a := a) hk).trans ?_,
        hcut.mark a (List.mem_finRange a) k hk hgrow, fun b m hm hstill => (hcut.claim (a := b) hm).trans ?_⟩
      · rw [Claim.cutAt, if_pos hgrow]
      · rw [Claim.cutAt, if_neg]
        rw [Claim.growing_iff]
        exact fun ⟨hmg, hme⟩ => hstill.elim (fun h => h hmg) fun h => absurd (hme.symm.trans h) Bool.false_ne_true
  · subst ht
    refine ⟨?_, s.unsentLost_retireSector n⟩
    rw [State.retireSector_read, if_pos rfl]
  · rw [State.exec_sectorEraseComplete hp he, State.exec_sectorEraseFailure hp he]
    exact ⟨rfl, fun h1 => by rw [h1]; rfl, fun h2 => ⟨_, by rw [if_pos h2], State.eraseFailed_twice rfl⟩⟩

end Sys2Proof.Machine

namespace Sys2Proof.Machine

/-! ## Bounds, contexts and the settings bank (files 07 to 09) -/

/-! ### The queue and the contexts stay bounded (R127, R155) -/

/-- The ledger that claims of a step the two bounds, each where it stands before the step. -/
def Ledger.ofBounds (s : State) (rest : List Instr) : Ledger where
  commands := rest
  settings := s.ctl.working
  queue := s.queueBounded
  ports := False
  contexts := s.contextsBounded
  reference := False
  working := False
  table := s.cons
  doses := False

theorem keeps_ofBounds (s : State) (rest : List Instr) : Keeps (.ofBounds s rest) { s with pending := rest } where
  commands := rfl
  queue := id
  ports := False.elim
  contexts := id
  reference := False.elim
  working := False.elim
  doses := False.elim

/-- Settles O5: an empty queue idles, and every command and event keeps the ledger's two bounds. -/
theorem queueAndContextsStayBounded : Obligations.QueueAndContextsStayBounded := by
  unfold Obligations.QueueAndContextsStayBounded
  intro s t h
  unfold step at h
  split at h
  · cases h; exact ⟨id, id⟩
  · next c rest _ =>
    have hkept := keeps_exec c False.elim False.elim (keeps_ofBounds s rest) h
    exact ⟨hkept.queue, hkept.contexts⟩

/-! ### Contexts begun (R127, R128) -/

section contexts

variable {s : State} {h : Header} {id : BitVec 32} {j : Fin 32} {x : Consignment} {c : Context}

/-- Another consignment ABOARD has a lower stop (R128). -/
theorem State.outOfOrder_iff {stop : Nat} : s.outOfOrder j stop = true ↔
    ∃ i y, i ≠ j ∧ s.cons.read i = some y ∧ y.state = .aboard ∧ y.stop < stop := by
  simp only [outOfOrder, List.any_eq_true, List.mem_finRange, true_and, Bool.and_eq_true, bne_iff_ne]
  refine exists_congr fun i => ?_
  cases s.cons.read i <;> simp

theorem beginHandover_known (hs : Taken .handoverBegin h s)
    (hm : s.ctl.mode = .service ∨ s.ctl.mode = .parked ∨ s.ctl.mode = .waking) (hx : s.byId id = some (j, x)) {oo : Bool}
    (hoo : s.outOfOrder j x.stop = oo) : exec (.beginHandover h id) s = .next (
      if x.state ≠ .aboard ∧ x.state ≠ .returned then s.respond h .badState []
      else if 4 ≤ s.hand.contexts.length then s.respond h .full []
      else ({ s with
        cons := s.cons.write j (some { x with state := .handingOver, lastContextExpired := false })
        hand := { s.hand with contexts := s.hand.contexts ++
          [{ slot := j, begunBy := h.port, begin := s.now, previous := x.state, outOfOrder := oo,
             state := .waiting (min (s.now + 600) 4294967295) false }] }
        marks := s.marks ++ [.handoverBegin j id x.stop h.port x.state oo (min (s.now + 600) 4294967295)]
        ports := (s.raise .handover).ports } : State).respond h .ok
          (u8 j.val ++ u8 x.state.code ++ u32 (min (s.now + 600) 4294967295) ++ flag oo ++
            u8 (s.hand.contexts.length + 1))) := by
  have hmode : ¬ (s.ctl.mode ≠ .service ∧ s.ctl.mode ≠ .parked ∧ s.ctl.mode ≠ .waking) := by
    rintro ⟨hservice, hparked, hwaking⟩
    exact hm.elim hservice fun hm => hm.elim hparked hwaking
  refine (next_take_taken hs _).trans ?_
  simp only [if_neg hmode, hx, hoo, maxTime, State.raise_hand, State.request_hand, State.modHand_hand, List.length_append]
  rfl

/-- Settles O36. -/
theorem beginOpensAContext : Obligations.BeginOpensAContext := by
  unfold Obligations.BeginOpensAContext
  intro h id s j x oo hs hm hx hoo
  rw [beginHandover_known hs hm hx (Bool.eq_iff_iff.mpr (State.outOfOrder_iff.trans hoo.symm))]
  refine ⟨fun ha hr => by rw [if_pos ⟨ha, hr⟩], fun hst => ?_⟩
  rw [if_neg fun ⟨ha, hr⟩ => hst.elim ha hr]
  exact ⟨fun hfull => by rw [if_pos hfull], fun hroom => by rw [if_neg (Nat.not_le.mpr hroom)]⟩

/-! ### Contexts cancelled and expired (R129, R130) -/

theorem State.byId_of_slotOf (hj : s.slotOf id = some j) (hx : s.cons.read j = some x) : s.byId id = some (j, x) := by
  simp [byId, hj, hx]

theorem State.slot_of_contextOf (hc : s.contextOf j = some c) : c.slot = j := by
  simpa using List.find?_some hc

theorem State.endContext_eq (hx : s.cons.read c.slot = some x) (cause : EndCause) : s.endContext c cause = { s with
    cons := s.cons.write c.slot (some { x with
      state := c.previous, lastContextExpired := x.lastContextExpired || cause == .expired })
    hand := { s.hand with contexts := s.hand.contexts.filter fun q => q.slot != c.slot }
    marks := s.marks ++ [.handoverEnd c.slot x.id cause 0] } := by
  simp only [endContext, modCons_some hx, hx]
  rfl

theorem cancelHandover_known (hs : Taken .handoverBegin h s) (hx : s.byId id = some (j, x))
    (hc : s.contextOf j = some c) : exec (.cancelHandover h id) s = .next (
      if c.begunBy = .t ∧ h.port ≠ .t then s.respond h .denied []
      else if c.isDeciding then s.respond h .busy []
      else ((s.endContext c .cancelled).raise .handover).respond h .ok (u8 j.val ++ u8 c.previous.code)) := by
  refine (next_take_taken hs _).trans ?_
  simp only [hx, hc]

theorem Context.isDeciding_deciding {n : Nat} {d : Decision} (hst : c.state = .deciding n d) : c.isDeciding = true := by
  rw [isDeciding, decision, hst]; rfl

theorem Context.isDeciding_waiting {e : Nat} {due : Bool} (hst : c.state = .waiting e due) : c.isDeciding = false := by
  rw [isDeciding, decision, hst]; rfl

theorem handoverExpiry_due {e : Nat} (hp : s.powered = true) (hm : s.ctl.mode ≠ .start) (hc : s.contextOf j = some c)
    (hst : c.state = .waiting e true) (he : e ≤ s.now) : exec (.handoverExpiry j) s = .next (s.expire c) := by
  have hdue : s.expiryDue j = some c := by
    rw [State.expiryDue, hc]
    simp [hst, he]
  change Host.Outcome.next (match s.expiryDue j with | some c => _ | none => s) = _
  rw [hdue]
  simp [hp, hm]

/-- Settles O37. -/
theorem waitingContextsEndByCancelOrExpiry : Obligations.WaitingContextsEndByCancelOrExpiry := by
  unfold Obligations.WaitingContextsEndByCancelOrExpiry
  intro s j x c hx hc
  have hslot := State.slot_of_contextOf hc
  have hend := State.endContext_eq (c := c) (by rw [hslot]; exact hx)
  rw [hslot] at hend
  refine ⟨fun h id hs hj => ?_, fun e hp hm hst he => ?_⟩
  · rw [cancelHandover_known hs (State.byId_of_slotOf hj hx) hc]
    refine ⟨fun ht hport => by rw [if_pos ⟨ht, hport⟩], fun hallowed => ?_⟩
    rw [if_neg fun ⟨ht, hport⟩ => hallowed.elim (· ht) hport]
    refine ⟨fun n d hst => by rw [if_pos (Context.isDeciding_deciding hst)], fun e due hst => ?_⟩
    have hcause : (x.lastContextExpired || EndCause.cancelled == .expired) = x.lastContextExpired := Bool.or_false _
    rw [if_neg (by rw [Context.isDeciding_waiting hst]; exact Bool.false_ne_true), hend, hcause]
    rfl
  · have hcause : (x.lastContextExpired || EndCause.expired == .expired) = true := Bool.or_true _
    rw [handoverExpiry_due hp hm hc hst he, State.expire, hend, hcause]
    rfl

end contexts

end Sys2Proof.Machine

namespace Sys2Proof.Machine

/-! ### The receipt blocks tested (R140) -/

namespace HandOver

variable {h : HandOver}

theorem wanted_due (hd : h.due h.block = true) : h.wanted = some h.block := if_pos hd

theorem wanted_next {b : Fin 4} (hd : h.due h.block = false) (hn : h.nextBlock = some b) (hb : h.due b = true) :
    h.wanted = some b := by
  simp [wanted, hd, hn, hb]

/-- The first block after the write position's, in ring order, that is not retired. -/
theorem nextBlock_first {a : Fin 4} {k : Nat} (h0 : 0 < k) (h4 : k < 4) (ha : a.val = (h.block.val + k) % 4)
    (hu : h.isRetired a = false) (hbetween : ∀ m, 0 < m → m < k → h.isRetired (after h.block m) = true) :
    h.nextBlock = some a := by
  obtain rfl : a = after h.block k := Fin.ext ha
  have h1 := hbetween 1
  have h2 := hbetween 2
  obtain rfl | rfl | rfl : k = 1 ∨ k = 2 ∨ k = 3 := by omega
  · simp [nextBlock, hu]
  · simp [nextBlock, hu, h1]
  · simp [nextBlock, hu, h1, h2]

end HandOver

namespace State

variable {s t : State}

/-- The test of the blocks takes and gives erases alone. -/
theorem mem_testBlocks {op : BankOp} (hop : op.isErase = false) :
    op ∈ s.testBlocks.bank.queue ↔ op ∈ s.bank.queue := by
  unfold testBlocks
  split
  · simp [modBank, hop]
  · next w _ =>
    split
    · simp only [modBank, List.mem_map]
      refine ⟨fun ⟨q, hq, he⟩ => ?_, fun hq => ⟨op, hq, by simp [hop]⟩⟩
      split at he
      · subst he; exact absurd hop nofun
      · exact he ▸ hq
    · have hne : op ≠ .blockErase w := fun he => by subst he; exact absurd hop nofun
      simp [ask, modBank, hne]

/-- The erase of the block wanted waits at the bank after the test. -/
theorem blockErase_mem_testBlocks {b : Fin 4} (hw : s.hand.wanted = some b) :
    BankOp.blockErase b ∈ s.testBlocks.bank.queue := by
  rw [testBlocks, hw]
  dsimp only
  split
  · next hany =>
    obtain ⟨q, hq, he⟩ := List.any_eq_true.mp hany
    exact List.mem_map.mpr ⟨q, hq, if_pos he⟩
  · exact List.mem_append_right _ (List.mem_singleton.mpr rfl)

/-- A write that finds a writable slot waits on (R134). -/
theorem settleWrite_writable (h : s.hand.writable = true) : s.settleWrite = s := by
  unfold settleWrite
  split
  · split
    · simp [h]
    · rfl
  · rfl

theorem retest_writable (h : s.hand.writable = true) : s.retest = s.testBlocks := by
  have hw : s.testBlocks.hand.writable = true := by rw [testBlocks_frame]; exact h
  exact settleWrite_writable hw

theorem retest_undecided (h : s.deciding = none) : s.retest = s.testBlocks := by
  have hd : s.testBlocks.deciding = none := by rw [testBlocks_frame]; exact h
  exact settleWrite_none hd

end State

/-! ### A failed receipt write (R134) -/

/-- The store after a failed program: the slot VOID, and the write position moved on. -/
def HandOver.voided (h : HandOver) (left : Remains Receipt) : HandOver := (h.putSlot h.block h.slot (.void left)).advance

section voided

variable {h : HandOver} {left : Remains Receipt} (hl : h.slot.val + 1 < 16)

include hl

theorem HandOver.voided_eq :
    h.voided left = { h.putSlot h.block h.slot (.void left) with slot := ⟨h.slot.val + 1, hl⟩ } :=
  (h.putSlot h.block h.slot (.void left)).advance_slot_lt hl

/-- What a failed program does to the slot and the write position, and leaves as it was (R134). -/
theorem HandOver.voided_position : ((h.voided left).blocks.read h.block).read h.slot = .void left ∧
    (h.voided left).block = h.block ∧ (h.voided left).slot = ⟨h.slot.val + 1, hl⟩ ∧ (h.voided left).newest = h.newest ∧
    (h.voided left).chain = h.chain := by
  rw [voided_eq hl]
  exact ⟨by simp [putSlot], rfl, rfl, rfl, rfl⟩

theorem HandOver.voided_writable (hr : h.isRetired h.block = false)
    (he : (h.blocks.read h.block).read ⟨h.slot.val + 1, hl⟩ = .empty) : (h.voided left).writable = true := by
  have hslot : (h.voided left).positionSlot = .empty := by
    rw [voided_eq hl, positionSlot]
    simp only [putSlot, Table.read_modify_same]
    rwa [Table.read_write_other _ _ fun h => by simpa using congrArg Fin.val h]
  have hblock : (h.voided left).isRetired (h.voided left).block = false := by rw [voided_eq hl]; exact hr
  rw [writable, hslot, hblock]
  rfl

end voided

namespace State

variable {s : State} {c : Context} {n : Nat} {d : Decision}

/-- The state after a failed program, before the write is requested anew or given up. -/
def slotVoided (s : State) (left : Remains Receipt) : State := { s with
  hand := s.hand.voided left, bank := { s.bank with busy := none }, freeCount := s.freeCount + 1 }

theorem exec_receiptProgramFailure (hb : s.bank.busy = some .receiptWrite) (hc : s.deciding = some c)
    (hst : c.state = .deciding n d) : exec .receiptProgramFailure s =
      let u := s.slotVoided (leavesOf s.takeLeaves.1 d.receipt)
      .next (if d.secondAttempt then (u.failDecide c n d .storeFault).retest
        else ((u.setContext c.slot (.deciding n { d with secondAttempt := true })).ask .receiptWrite).retest) := by
  have hdec : c.decision = some (n, d) := by rw [Context.decision, hst]
  change Host.Outcome.next s.programFailure = _
  simp only [programFailure, hb, hc, hdec]
  rfl

/-- The state after a DECIDE is given up, before a context with no seconds left expires. -/
def givenUp (s : State) (c : Context) (n : Nat) (d : Decision) : State := { s with
  hand := (s.setContext c.slot (.waiting (min (s.now + n) 4294967295) false)).hand
  bank := { s.bank with queue := s.bank.queue.filter fun op => op != .receiptWrite }
  ports := ((s.answerDecide d .storeFault (u8 c.slot.val)).raise .store).ports }

theorem failDecide_storeFault (s : State) (c : Context) (n : Nat) (d : Decision) :
    s.failDecide c n d .storeFault = if n = 0 then (s.givenUp c n d).expire c else s.givenUp c n d := rfl

theorem expire_frame (s : State) (c : Context) : s.expire c = { s with
    hand := { s.hand with contexts := (s.expire c).hand.contexts }
    ports := (s.expire c).ports, cons := (s.expire c).cons, marks := (s.expire c).marks } := rfl

/-- A DECIDE given up touches the contexts, the bank's queue and what an expiry touches. -/
theorem failDecide_frame (s : State) (c : Context) (n : Nat) (d : Decision) : ∃ contexts ports cons marks,
    s.failDecide c n d .storeFault = { s with
      hand := { s.hand with contexts := contexts }
      bank := { s.bank with queue := s.bank.queue.filter fun op => op != .receiptWrite }
      ports := ports, cons := cons, marks := marks } := by
  rw [failDecide_storeFault]
  split
  · rw [expire_frame]
    exact ⟨_, _, _, _, rfl⟩
  · exact ⟨_, _, _, _, rfl⟩

theorem givenUp_inFlight {f : InFlight} (hf : (s.givenUp c n d).ports.h.inFlight = some f) : f.command ≠ .decide :=
  landed_inFlight (q := .h) hf

section attempts

variable {left : Remains Receipt} (hw : (s.hand.voided left).writable = true)

include hw

/-- The first failure: the write is requested anew, for the slot that follows (R134). -/
theorem writeFailed_once (st : ContextState) : ∃ queue, BankOp.receiptWrite ∈ queue ∧
    (((s.slotVoided left).setContext c.slot st).ask .receiptWrite).retest = { s with
      hand := { s.hand.voided left with contexts := s.hand.contexts.map fun q =>
        if q.slot = c.slot then { q with state := st } else q }
      bank := { s.bank with busy := none, queue := queue }
      freeCount := s.freeCount + 1 } := by
  obtain ⟨u, hu⟩ : ∃ u, u = ((s.slotVoided left).setContext c.slot st).ask .receiptWrite := ⟨_, rfl⟩
  rw [← hu, retest_writable (by rw [hu]; exact hw)]
  refine ⟨u.testBlocks.bank.queue, (mem_testBlocks rfl).mpr ?_, ?_⟩
  · rw [hu]; exact List.mem_append_right _ (List.mem_singleton.mpr rfl)
  · have hcontexts : (s.hand.voided left).contexts = s.hand.contexts := contexts_advance _
    rw [testBlocks_frame, hu, ← hcontexts]
    rfl

/-- The second failure: the write is given up (R134). -/
theorem writeFailed_twice : ∃ queue contexts ports cons marks, BankOp.receiptWrite ∉ queue ∧
    ((s.slotVoided left).failDecide c n d .storeFault).retest = { s with
      hand := { s.hand.voided left with contexts := contexts }
      bank := { s.bank with busy := none, queue := queue }
      ports := ports, cons := cons, marks := marks, freeCount := s.freeCount + 1 } ∧
    (0 < n → cons = s.cons ∧ marks = s.marks ∧ ports = (s.givenUp c n d).ports ∧
      contexts = (s.givenUp c n d).hand.contexts) := by
  obtain ⟨contexts, ports, cons, marks, hf⟩ := (s.slotVoided left).failDecide_frame c n d
  obtain ⟨u, hu⟩ : ∃ u, u = (s.slotVoided left).failDecide c n d .storeFault := ⟨_, rfl⟩
  rw [← hu, retest_writable (by rw [hu, hf]; exact hw)]
  refine ⟨u.testBlocks.bank.queue, contexts, ports, cons, marks, fun hmem => ?_, ?_, fun hn => ?_⟩
  · have hq := (mem_testBlocks rfl).mp hmem
    rw [hu, hf] at hq
    simpa using (List.mem_filter.mp hq).2
  · rw [testBlocks_frame, hu, hf]
    rfl
  · have hcontexts : (s.hand.voided left).contexts = s.hand.contexts := contexts_advance _
    rw [failDecide_storeFault, if_neg hn.ne'] at hf
    refine ⟨(congrArg State.cons hf).symm, (congrArg State.marks hf).symm, (congrArg State.ports hf).symm, ?_⟩
    refine (congrArg (fun t => t.hand.contexts) hf).symm.trans ?_
    exact congrArg (List.map _) hcontexts

end attempts

end State

/-- Settles O40. -/
theorem failedReceiptWritesAreMadeTwice : Obligations.FailedReceiptWritesAreMadeTwice := by
  unfold Obligations.FailedReceiptWritesAreMadeTwice
  intro s c n d hl hb hc hst _ hr he
  rw [State.exec_receiptProgramFailure hb hc hst]
  generalize leavesOf s.takeLeaves.1 d.receipt = left
  have hw : (s.hand.voided left).writable = true := HandOver.voided_writable hl hr he
  obtain ⟨hvoid, hblock, hslot, hnewest, hchain⟩ := HandOver.voided_position (left := left) hl
  cases hsec : d.secondAttempt with
  | false =>
    obtain ⟨queue, hmem, ht⟩ := State.writeFailed_once (c := c) hw (.deciding n { d with secondAttempt := true })
    dsimp only
    rw [if_neg Bool.false_ne_true, ht]
    exact ⟨_, left, rfl, rfl, hvoid, hblock, hslot, hnewest, hchain, fun _ => ⟨hmem, rfl, rfl, rfl, rfl⟩, nofun⟩
  | true =>
    obtain ⟨queue, contexts, ports, cons, marks, hmem, ht, hleft⟩ := State.writeFailed_twice (c := c) (n := n) (d := d) hw
    dsimp only
    rw [if_pos rfl, ht]
    refine ⟨_, left, rfl, rfl, hvoid, hblock, hslot, hnewest, hchain, nofun, fun _ hn => ?_⟩
    obtain ⟨rfl, rfl, rfl, rfl⟩ := hleft hn
    exact ⟨hmem, rfl, rfl, rfl, rfl, fun q => hasKind_raise _ _ _, fun f => State.givenUp_inFlight (n := n)⟩

end Sys2Proof.Machine

namespace Sys2Proof.Machine

/-! ### Receipt blocks erased and retired (R140, R141, R143, R185) -/

namespace State

variable {s t : State} {b : Fin 4}

/-- An operation that stands first at an idle bank starts, unless it is a receipt write. -/
theorem nextOp_first {op : BankOp} {rest : List BankOp} (hp : s.powered = true) (hb : s.bank.busy = none)
    (hq : s.bank.queue = op :: rest) (hop : op ≠ .receiptWrite) : s.nextOp = some op := by
  simp [nextOp, hp, hb, hq, hop]

theorem startOp_first {op : BankOp} {rest : List BankOp} (hq : s.bank.queue = op :: rest) :
    s.startOp op = { s with bank := { s.bank with queue := rest, busy := some op } } := by
  rw [startOp, modBank, hq, List.erase_cons_head]

theorem exec_receiptBlockEraseStart (hn : s.nextOp = some (.blockErase b)) :
    exec .receiptBlockEraseStart s = .next (s.startBlockErase b) := by
  change Host.Outcome.next (match s.nextOp with | some (.blockErase b) => _ | _ => s) = _
  rw [hn]

theorem exec_receiptBlockEraseComplete (hb : s.bank.busy = some (.blockErase b)) :
    exec .receiptBlockEraseComplete s = .next (s.blockErased b) := by
  change Host.Outcome.next (match s.bank.busy with | some (.blockErase b) => _ | _ => s) = _
  rw [hb]

theorem exec_receiptBlockEraseFailure (hb : s.bank.busy = some (.blockErase b)) :
    exec .receiptBlockEraseFailure s = .next (s.blockEraseFailed b) := by
  change Host.Outcome.next (match s.bank.busy with | some (.blockErase b) => _ | _ => s) = _
  rw [hb]

theorem blockErased_eq (hd : s.deciding = none) : ∃ queue, s.blockErased b = { s with
    bank := { s.bank with busy := none, queue := queue }
    hand := { s.hand with erasing := none, blocks := s.hand.blocks.write b (Table.const 16 .empty) } } := by
  obtain ⟨queue, hq⟩ := retest_none (s := s.endOp.modHand fun h => { h with
    blocks := h.blocks.write b (Table.const 16 .empty), erasing := none }) hd
  exact ⟨queue, hq⟩

end State

/-- The store with a block retired, before a write position in it moves on. -/
def HandOver.retiredBlock (h : HandOver) (k : Nat) (b : Fin 4) : HandOver := { h with
  retired := h.retired ||| single b
  erasing := none
  blocks := h.blocks.modify b fun u => u.mapIdx fun i x => receiptSlotLeft k i.val x }

/-- The write position moved out of a block that is retired. -/
def HandOver.leaving (h : HandOver) (b : Fin 4) : HandOver :=
  if h.block = b then { h with block := h.nextBlock.getD b, slot := 0 } else h

section retired

variable {h : HandOver} {k : Nat} {a b : Fin 4}

theorem HandOver.leaving_here (hb : h.block = b) : h.leaving b = { h with block := h.nextBlock.getD b, slot := 0 } :=
  if_pos hb

theorem HandOver.leaving_other (hb : h.block ≠ b) : h.leaving b = h := if_neg hb

theorem HandOver.leaving_frame : h.leaving b = { h with block := (h.leaving b).block, slot := (h.leaving b).slot } := by
  unfold leaving
  split <;> rfl

theorem HandOver.isRetired_retiredBlock : (h.retiredBlock k b).isRetired a = (h.isRetired a || decide (a = b)) := by
  have hsingle : (single b).getLsbD a.val = decide (a = b) := by revert a b; decide
  rw [isRetired, isRetired, retiredBlock, BitVec.getLsbD_or, hsingle]

/-- A write position in the block retired moves to the following usable block (R141). -/
theorem HandOver.leaving_next {n : Nat} (hb : h.block = b) (h0 : 0 < n) (h4 : n < 4) (ha : a.val = (b.val + n) % 4)
    (hu : h.isRetired a = false)
    (hbetween : ∀ (d : Fin 4) (m : Nat), 0 < m → m < n → d.val = (b.val + m) % 4 → h.isRetired d = true) :
    ((h.retiredBlock k b).leaving b).block = a := by
  subst hb
  have hne : a ≠ h.block := fun he => by rw [he] at ha; omega
  have hnext : (h.retiredBlock k h.block).nextBlock = some a := by
    refine nextBlock_first h0 h4 ha ?_ fun m h0 hm => ?_
    · rw [isRetired_retiredBlock, hu, decide_eq_false hne]; rfl
    · rw [isRetired_retiredBlock, hbetween _ m h0 hm rfl]; rfl
  rw [leaving_here (h := h.retiredBlock k h.block) (b := h.block) rfl, hnext]
  rfl

end retired

namespace State

variable {s t : State} {b : Fin 4}

/-- A block retired, up to the test of the blocks (R141, R185). -/
theorem retireBlock_eq (hd : s.deciding = none) : ∃ queue, BankOp.counterRewrite ∈ queue ∧ s.retireBlock b = { s with
    bank := { s.bank with busy := none, queue := queue }
    hand := (s.hand.retiredBlock s.freeCount b).leaving b
    ports := (s.raise .store).ports
    freeCount := s.freeCount + 1 } := by
  obtain ⟨u, hu⟩ : ∃ u : State, u = { s with
    bank := { s.bank with busy := none }
    hand := (s.hand.retiredBlock s.freeCount b).leaving b
    freeCount := s.freeCount + 1 } := ⟨_, rfl⟩
  have hretire : s.retireBlock b = (u.requestRewrite.raise .store).retest := by rw [hu]; rfl
  have hframe := u.requestRewrite_frame
  have hud : (u.requestRewrite.raise .store).deciding = none := by
    rw [hframe, hu, HandOver.leaving_frame]; exact hd
  rw [hretire, retest_undecided hud]
  refine ⟨_, (mem_testBlocks (s := u.requestRewrite.raise .store) rfl).mpr u.mem_requestRewrite, ?_⟩
  rw [testBlocks_frame, hframe, hu]
  rfl

theorem ackReceipt_taken {h : Header} {through : BitVec 32} (hs : Taken .receiptAck h s) (hd : s.deciding = none) {n : Nat}
    (hn : n = min through.toNat s.hand.newest) {u : State}
    (hu : u = { s with hand := { s.hand with acked := max s.hand.acked n } }) : exec (.ackReceipt h through) s = .next
      (u.testBlocks.respond h (clampedIf (n != through.toNat))
        (u32 u.hand.acked ++ u32 u.hand.newest ++ u8 u.hand.usableSlots)) := by
  have htest : u.retest = u.testBlocks := retest_undecided (by rw [hu]; exact hd)
  have hhand : u.testBlocks.hand = u.hand := by rw [testBlocks_frame]
  refine (next_take_taken hs _).trans ?_
  rw [← hhand, ← htest, hu, hn]
  rfl

end State

/-- Settles O41. -/
theorem blocksAreErasedOnceAcknowledged : Obligations.BlocksAreErasedOnceAcknowledged := by
  unfold Obligations.BlocksAreErasedOnceAcknowledged
  refine ⟨fun s b hd => ⟨fun rest hp hb hq => ?_, fun hb => ⟨?_, fun h1 => ?_, fun h2 => ?_⟩⟩, fun h through s hs hd => ?_⟩
  · rw [State.exec_receiptBlockEraseStart (State.nextOp_first hp hb hq nofun), State.startBlockErase, State.startOp_first hq]
    rfl
  · obtain ⟨queue, ht⟩ := State.blockErased_eq (b := b) hd
    rw [State.exec_receiptBlockEraseComplete hb, ht]
    refine ⟨_, rfl, rfl, fun i => ?_, fun a ha => Table.read_write_other _ _ ha⟩
    dsimp only
    rw [Table.read_write_same, Table.read_const]
  · rw [State.exec_receiptBlockEraseFailure hb, State.blockEraseFailed, if_neg (by simp [h1])]
    rfl
  · obtain ⟨queue, hmem, ht⟩ := State.retireBlock_eq (b := b) hd
    rw [State.exec_receiptBlockEraseFailure hb, State.blockEraseFailed, if_pos h2, ht]
    refine ⟨_, rfl, ?_, fun a ha => ?_, hmem, fun hne => ?_, fun he => ⟨?_, fun a k h0 h4 ha hu hbetween => ?_⟩⟩
    · rw [HandOver.leaving_frame]; rfl
    · rw [HandOver.leaving_frame]; exact Table.read_modify_other _ _ ha
    · rw [HandOver.leaving_other (h := s.hand.retiredBlock s.freeCount b) hne]
      exact ⟨rfl, rfl⟩
    · rw [HandOver.leaving_here (h := s.hand.retiredBlock s.freeCount b) he]
    · exact HandOver.leaving_next he h0 h4 ha hu hbetween
  · obtain ⟨u, hu⟩ : ∃ u : State, u = { s with
      hand := { s.hand with acked := max s.hand.acked (min through.toNat s.hand.newest) } } := ⟨_, rfl⟩
    have hblock : u.hand.block = s.hand.block := by rw [hu]
    have hstatus : clampedIf (min through.toNat s.hand.newest != through.toNat) =
        if through.toNat ≤ s.hand.newest then .ok else .clamped := by
      rw [clampedIf_bne]
      exact if_congr min_eq_left_iff rfl rfl
    rw [State.ackReceipt_taken hs hd rfl hu, hstatus]
    have herase {b : Fin 4} := State.blockErase_mem_testBlocks (s := u) (b := b)
    have hframe := u.testBlocks_frame
    generalize u.testBlocks = v at hframe herase
    have hhand : v.hand = u.hand := by rw [hframe]
    refine ⟨_, rfl, ?_, ?_, fun hdue => ?_, fun b hdue hnext hdb => ?_⟩
    · rw [hframe, hu]; rfl
    · rw [State.answered, responses_respond, State.respond_hand, hhand, hframe, hu]
    · rw [State.respond_hand, hhand, ← hblock] at hdue
      rw [← hblock]
      exact herase (HandOver.wanted_due hdue)
    · rw [State.respond_hand, hhand] at hdue hnext hdb
      rw [← hblock] at hdue
      exact herase (HandOver.wanted_next hdue hnext hdb)

end Sys2Proof.Machine

namespace Sys2Proof.Machine

/-! ### The settings bank (R139, R182, R183, R185) -/

namespace CopyPair

variable {α : Type} (p : CopyPair α)

/-- Spoiling the area to be written keeps the newest image (R183, R185). -/
theorem newest_spoil : p.spoil.newest = p.newest := by
  obtain ⟨a, b⟩ := p
  cases a with
  | none => rfl
  | some a =>
    cases b with
    | none => rfl
    | some b =>
      by_cases h : a.generation < b.generation
      · simp [spoil, targetA, put, newest, h]
      · simp [spoil, targetA, put, newest, h, Nat.le_of_not_lt h]

theorem spoil_spoils : p.spoil.a = none ∨ p.spoil.b = none := by
  rw [spoil, put]
  split
  · exact .inl rfl
  · exact .inr rfl

/-- The image written is the newest (R183, R185). -/
theorem newest_store (x : α) : (p.store x).newest.map (fun i => i.contents) = some x := by
  obtain ⟨a, b⟩ := p
  cases a with
  | none => cases b <;> simp [store, targetA, put, newest]
  | some a =>
    cases b with
    | none => simp [store, targetA, put, newest]
    | some b =>
      by_cases h : a.generation < b.generation
      · simp [store, targetA, put, newest, h, Nat.not_le_of_lt h]
      · simp [store, targetA, put, newest, h, Nat.le_of_not_lt h]

end CopyPair

section bank

variable {s : State} {h : Header} {c : Commit}

theorem commitSetup_known (hs : Editable h s) : exec (.commitSetup h) s = .next (
    if s.ctl.working = s.committed then s.respond h .ok []
    else { s with
      ctl := { s.ctl with commit := some { contents := s.ctl.working, tag := some h.tag } }
      bank := { s.bank with queue := s.bank.queue ++ [.commit] }
      ports := s.ports.put h.port
        { s.ports.at h.port with inFlight := some { command := .commitSetup, tag := h.tag } } }) := by
  have hdiffer : (!s.differ) = true ↔ s.ctl.working = s.committed := by simp [State.differ]
  refine (next_take_taken hs.toTaken _).trans ?_
  rw [if_neg (not_not.mpr hs.setup), if_neg (by simp [hs.free])]
  simp only [hdiffer]
  rfl

theorem exec_commitStart (hn : s.nextOp = some .commit) : exec .commitStart s = .next s.startCommit :=
  congrArg Host.Outcome.next (if_pos hn)

theorem exec_counterBlockRewriteStart (hn : s.nextOp = some .counterRewrite) :
    exec .counterBlockRewriteStart s = .next s.startRewrite :=
  congrArg Host.Outcome.next (if_pos hn)

theorem exec_counterBlockRewriteEnd (hb : s.bank.busy = some .counterRewrite) (ok : Bool) :
    exec (.counterBlockRewriteEnd ok) s = .next (s.endRewrite ok) :=
  congrArg Host.Outcome.next (if_pos hb)

theorem exec_commitEnd (hc : s.ctl.commit = some c) (hb : s.bank.busy = some .commit) (ok : Bool) :
    exec (.commitEnd ok) s = .next (s.endCommit c ok) := by
  change Host.Outcome.next (match s.ctl.commit with | some c => _ | none => s) = _
  rw [hc]
  exact congrArg Host.Outcome.next (if_pos hb)

/-- The state after a commit's end, before the command is answered (R183). -/
def State.commitEnded (s : State) (c : Commit) (ok : Bool) : State := { s with
  ctl := { s.ctl with commit := none }
  bank := { s.bank with busy := none, settings := if ok then s.bank.settings.store c.contents else s.bank.settings } }

theorem State.endCommit_eq (ok : Bool) : s.endCommit c ok = (s.commitEnded c ok).answerCommit c ok := by
  cases ok <;> rfl

theorem State.committed_commitEnded (ok : Bool) :
    (s.commitEnded c ok).committed = if ok then c.contents else s.committed := by
  cases ok with
  | false => rfl
  | true =>
    change (Option.map _ (s.bank.settings.store c.contents).newest).getD _ = _
    rw [CopyPair.newest_store]
    rfl

theorem State.answerCommit_frame (ok : Bool) :
    s.answerCommit c ok = { s with ports := (s.answerCommit c ok).ports } := by
  unfold answerCommit
  split <;> rfl

theorem State.answerCommit_tag {tag : Byte} (ht : c.tag = some tag) (ok : Bool) :
    s.answerCommit c ok = (s.reply .t tag (if ok then .ok else .storeFault) []).landed .commitSetup := by
  rw [answerCommit, ht]

theorem State.answerCommit_none (ht : c.tag = none) (ok : Bool) : s.answerCommit c ok = s := by
  rw [answerCommit, ht]

end bank

/-- Settles O53. -/
theorem commitsAndRewritesKeepOneGoodCopy : Obligations.CommitsAndRewritesKeepOneGoodCopy := by
  unfold Obligations.CommitsAndRewritesKeepOneGoodCopy
  refine ⟨fun h s hs => ?_, fun s => ⟨fun rest hp hb => ⟨fun hq => ?_, fun hq => ?_⟩, fun c ok hc hb => ?_,
    fun hb => ⟨?_, fun h1 => ?_, fun h2 => ?_⟩⟩⟩
  · rw [commitSetup_known hs]
    exact ⟨fun he => by rw [if_pos he], fun hne => by rw [if_neg hne]⟩
  · rw [exec_commitStart (State.nextOp_first hp hb hq nofun), State.startCommit, State.startOp_first hq]
    refine ⟨_, rfl, ?_, rfl, s.bank.settings.spoil_spoils⟩
    change (Option.map _ s.bank.settings.spoil.newest).getD _ = _
    rw [CopyPair.newest_spoil]
    rfl
  · rw [exec_counterBlockRewriteStart (State.nextOp_first hp hb hq nofun), State.startRewrite, State.startOp_first hq]
    exact ⟨_, rfl, rfl, s.bank.counters.newest_spoil⟩
  · have hcommitted := s.committed_commitEnded (c := c) ok
    have hfailed : ok = false → (s.commitEnded c ok).bank.settings = s.bank.settings := fun h => by rw [h]; rfl
    rw [exec_commitEnd hc hb, State.endCommit_eq]
    have hframe := (s.commitEnded c ok).answerCommit_frame (c := c) ok
    refine ⟨_, rfl, ?_, ?_, fun h => ?_, fun tag ht => ?_, fun ht => ?_⟩
    · rw [hframe]; rfl
    · rw [hframe]; exact hcommitted
    · rw [hframe]; exact hfailed h
    · rw [State.answerCommit_tag ht]
      exact ⟨rfl, fun f => State.landed_inFlight (q := .t)⟩
    · rw [State.answerCommit_none ht]; rfl
  · rw [exec_counterBlockRewriteEnd hb]
    exact ⟨_, rfl, rfl, s.bank.counters.newest_store _⟩
  · rw [exec_counterBlockRewriteEnd hb, State.endRewrite, if_neg Bool.false_ne_true, if_neg (by simp [h1])]
    rfl
  · rw [exec_counterBlockRewriteEnd hb, State.endRewrite, if_neg Bool.false_ne_true, if_pos h2]
    rfl

end Sys2Proof.Machine

namespace Sys2Proof.Machine

/-! ## The reset state, and the commands and samples of the history store (file 08) -/

/-! ### The reset state -/

/-- Settles O9: nothing is queued, no context and no consignment stands, and every port is at rest. -/
theorem resetIsSafe : Obligations.ResetIsSafe where
  queue := Nat.zero_le 8
  ports := State.sound_defaultPorts
  contexts := Nat.zero_le 4
  reference := ⟨Nat.zero_le 3, fun _ => rfl, nofun⟩
  doses := fun j _ hx => nomatch (Table.read_const (none : Option Consignment) j).symm.trans hx

namespace State

variable {s : State} {h : Header}

/-! ### Upload-wanted judged (R159) -/

/-- While the store is not DEGRADED the marks in force are the ones set. -/
theorem uploadWanted_judgeUpload (hd : s.hist.degraded = false) : s.judgeUpload.hist.uploadWanted = true ↔
    if s.hist.uploadWanted then s.ctl.working.lower < s.hist.newest - s.hist.acked
    else s.ctl.working.upper ≤ s.hist.newest - s.hist.acked := by
  have hupper : s.upperMark = s.ctl.working.upper := by simp [upperMark, hd]
  have hlower : s.lowerMark = s.ctl.working.lower := by simp [lowerMark, hd]
  unfold judgeUpload
  rw [hupper, hlower, History.unsent]
  cases hw : s.hist.uploadWanted with
  | false => by_cases hle : s.ctl.working.upper ≤ s.hist.newest - s.hist.acked <;> simp [hle, hw]
  | true =>
    rw [if_pos rfl, ← Nat.not_le]
    by_cases hle : s.hist.newest - s.hist.acked ≤ s.ctl.working.lower <;> simp [hle, hw]

/-- UPLOAD is raised where upload-wanted comes to be set. -/
theorem upload_judgeUpload (hw : s.hist.uploadWanted = false) (hj : s.judgeUpload.hist.uploadWanted = true) (q : Port) :
    hasKind (s.judgeUpload.ports.at q).pending .upload = true := by
  revert hj
  unfold judgeUpload
  split
  · exact fun _ => hasKind_raise _ _ q
  · split
    · exact nofun
    · exact fun hj => absurd (hw.symm.trans hj) nofun

/-! ### READ_HISTORY and ACK_HISTORY (R157, R158) -/

theorem exec_readHistory_held (hs : Taken .historyRead h s) {fromSequence : BitVec 32} {count : Byte}
    (hnone : s.recordsFrom fromSequence.toNat (clampNat 1 7 count.toNat) = []) (hq : s.hist.queue ≠ [])
    (hstall : s.hist.stalled = false) : exec (.readHistory h fromSequence count) s = .next { s with
      heldReads := s.heldReads ++
        [{ port := h.port, tag := h.tag, fromSequence := fromSequence.toNat, count := count.toNat }]
      ports := s.ports.put h.port
        { s.ports.at h.port with inFlight := some { command := .readHistory, tag := h.tag } } } := by
  refine (next_take_taken hs _).trans (congrArg Host.Outcome.next (if_pos ?_))
  simp [hnone, hq, hstall]

theorem exec_readHistory_answered (hs : Taken .historyRead h s) {fromSequence : BitVec 32} {count : Byte}
    (hnow : s.recordsFrom fromSequence.toNat (clampNat 1 7 count.toNat) ≠ [] ∨ s.hist.queue = [] ∨
      s.hist.stalled = true) :
    exec (.readHistory h fromSequence count) s =
      .next (s.respond h (clampedIf (clampNat 1 7 count.toNat != count.toNat))
        (s.historyBytes (s.recordsFrom fromSequence.toNat (clampNat 1 7 count.toNat)))) := by
  refine (next_take_taken hs _).trans (congrArg Host.Outcome.next (if_neg ?_))
  rcases hnow with hsome | hq | hstall
  · simp [hsome]
  · simp [hq]
  · simp [hstall]

/-- The state once ACK_HISTORY has raised the acknowledged sequence, before upload-wanted is judged (R158). -/
def acknowledged (s : State) (a : Nat) : State := { s with hist := { s.hist with acked := a } }

theorem exec_ackHistory (hs : Taken .historyAck h s) {through : BitVec 32} {t : State}
    (ht : t = (s.acknowledged (max s.hist.acked (min through.toNat s.hist.newest))).judgeUpload) :
    exec (.ackHistory h through) s = .next (t.respond h (clampedIf (min through.toNat s.hist.newest != through.toNat))
      (u32 t.hist.acked ++ u32 t.hist.newest ++ u32 t.hist.unsent ++ flag t.hist.uploadWanted)) := by
  rw [ht]
  exact next_take_taken hs _

end State

/-- Settles O42: the records found decide between an answer and a held command, and upload-wanted is judged on the sequence
acknowledged. -/
theorem historyIsReadAndAcknowledged : Obligations.HistoryIsReadAndAcknowledged := by
  unfold Obligations.HistoryIsReadAndAcknowledged
  constructor
  · rintro h fromSequence count s n hs rfl
    obtain ⟨hreadable, hcount, hascending, hfirst⟩ :=
      s.firstRecords_recordsFrom fromSequence.toNat (clampNat 1 7 count.toNat)
    refine ⟨_, hreadable, hcount, hascending, hfirst, fun hnow => ?_, State.exec_readHistory_held hs⟩
    rw [State.exec_readHistory_answered hs hnow, clampedIf_bne]
    simp only [eq_comm (b := count.toNat)]
    rfl
  · rintro h through s a hs rfl
    generalize ha : max s.hist.acked (min through.toNat s.hist.newest) = a
    have hframe := State.judgeUpload_frame (s := s.acknowledged a)
    have hresponses := State.responses_judgeUpload (s.acknowledged a) h.port
    have hwanted := State.uploadWanted_judgeUpload (s := s.acknowledged a)
    have hupload := State.upload_judgeUpload (s := s.acknowledged a)
    have hexec := State.exec_ackHistory hs (congrArg (fun a => (s.acknowledged a).judgeUpload) ha).symm
    generalize (s.acknowledged a).judgeUpload = t at hframe hresponses hwanted hupload hexec
    refine ⟨_, t.hist.uploadWanted, hexec, ?_, ?_, fun hd => ⟨hwanted hd, fun hw ht q => ?_⟩⟩
    · rw [hframe]; rfl
    · rw [State.answered, responses_respond, hresponses, clampedIf_bne]
      simp only [min_eq_left_iff]
      rw [hframe]; rfl
    · rw [pending_respond]
      exact hupload hw ht q

namespace State

/-! ### SET_MARKS, SET_INTERVAL and SET_RIGHTS (R160, R161, R191) -/

section settings

variable {s : State} {h : Header}

/-- The state once SET_MARKS has stored its marks, before upload-wanted is judged (R160). -/
def marked (s : State) (u l : Nat) : State :=
  { s with ctl := { s.ctl with working := { s.ctl.working with upper := u, lower := l } } }

theorem exec_setMarks (hs : Editable h s) {upper lower : BitVec 32} {u l : Nat} (hu : u = clampNat 1 8192 upper.toNat)
    (hl : l = clampNat 0 (u - 1) lower.toNat) {t : State} (ht : t = (s.marked u l).judgeUpload) :
    exec (.setMarks h upper lower) s = .next (t.respond h (clampedIf (u != upper.toNat || l != lower.toNat))
      (u32 u ++ u32 l ++ u32 t.hist.unsent ++ flag t.hist.uploadWanted)) := by
  subst ht hl hu
  exact congrArg Host.Outcome.next (take_edit hs _)

theorem exec_setInterval (hs : Editable h s) (rounds : Byte) : exec (.setInterval h rounds) s =
    .next (({ s with ctl := { s.ctl with working := { s.ctl.working with
      interval := nearestInterval rounds.toNat } } } : State).respond h
        (if nearestInterval rounds.toNat = rounds.toNat then .ok else .clamped) (u8 (nearestInterval rounds.toNat))) := by
  rw [← clampedIf_bne]
  exact congrArg Host.Outcome.next (take_edit hs _)

theorem exec_setRights_stored (hs : Editable h s) {a b c d : Byte} {g : Grants} (ha : yesNo a = some g.readings)
    (hb : yesNo b = some g.handoverBegin) (hc : yesNo c = some g.receiptRead) (hd : yesNo d = some g.historyRead) :
    exec (.setRights h a b c d) s =
      .next (({ s with ctl := { s.ctl with working := { s.ctl.working with grants := g } } } : State).respond h .ok
        (flag g.readings ++ flag g.handoverBegin ++ flag g.receiptRead ++ flag g.historyRead)) := by
  refine congrArg Host.Outcome.next ((take_edit hs _).trans ?_)
  simp only [ha, hb, hc, hd]

/-- A grant that is neither 1 nor 0 refuses the whole command (R191). -/
theorem exec_setRights_refused (hs : Editable h s) {a b c d : Byte}
    (hbad : yesNo a = none ∨ yesNo b = none ∨ yesNo c = none ∨ yesNo d = none) :
    exec (.setRights h a b c d) s = .next (s.respond h .badArgument []) := by
  refine congrArg Host.Outcome.next ((take_edit hs _).trans ?_)
  split
  · next ha hb hc hd => simp [ha, hb, hc, hd] at hbad
  · rfl

end settings

end State

theorem yesNo_of_lt {b : Byte} (hb : 1 < b.toNat) : yesNo b = none := by
  have h0 : b ≠ 0#8 := fun h => by simp [h] at hb
  have h1 : b ≠ 1#8 := fun h => by simp [h] at hb
  rw [yesNo, if_neg h0, if_neg h1]

/-- The interval stored is one of the six, none of the others is nearer, and of two as near it is the larger (R161). -/
theorem nearestInterval_spec (n : Nat) : nearestInterval n ∈ [1, 2, 3, 6, 12, 30] ∧ ∀ m ∈ [1, 2, 3, 6, 12, 30],
    ((n : Int) - (nearestInterval n : Nat)).natAbs ≤ ((n : Int) - (m : Nat)).natAbs ∧
      (((n : Int) - (nearestInterval n : Nat)).natAbs = ((n : Int) - (m : Nat)).natAbs → m ≤ nearestInterval n) := by
  unfold nearestInterval
  refine ⟨by split_ifs <;> simp, fun m hm => ?_⟩
  simp only [List.mem_cons, List.not_mem_nil, or_false] at hm
  split_ifs <;> omega

/-- Settles O47: each command by what it stores, upload-wanted judged again by the marks stored. -/
theorem plainSettingsAreStored : Obligations.PlainSettingsAreStored := by
  unfold Obligations.PlainSettingsAreStored
  refine fun h s hs => ⟨fun upper lower u l hu hl => ?_, fun rounds => ?_, fun a b c d => ⟨?_, ?_⟩⟩
  · have hframe := State.judgeUpload_frame (s := s.marked u l)
    have hresponses := State.responses_judgeUpload (s.marked u l) h.port
    have hwanted := State.uploadWanted_judgeUpload (s := s.marked u l)
    have hexec := State.exec_setMarks hs (u := u) (l := l) hu (by rw [hl, clampNat, Nat.zero_max]) rfl
    generalize (s.marked u l).judgeUpload = t at hframe hresponses hwanted hexec
    refine ⟨_, hexec, ?_, hwanted, ?_⟩
    · rw [hframe]; rfl
    · rw [State.answered, responses_respond, hresponses, clampedIf_bne_or, State.respond_hist]
      rw [hframe]; rfl
  · obtain ⟨hmem, hnear⟩ := nearestInterval_spec rounds.toNat
    exact ⟨_, hmem, hnear, State.exec_setInterval hs rounds⟩
  · exact fun g ha hb hc hd => State.exec_setRights_stored hs ha hb hc hd
  · exact fun hbad => State.exec_setRights_refused hs
      (hbad.imp yesNo_of_lt (Or.imp yesNo_of_lt (Or.imp yesNo_of_lt yesNo_of_lt)))

end Sys2Proof.Machine

namespace Sys2Proof.Machine

/-! ### Samples (R152, R153, R155) -/

theorem bump_iterate {k : Nat} (hk : 0 < k) (n : Nat) : bump^[k] n = min (n + k) 65535 := by
  induction k, hk using Nat.le_induction with
  | base => rfl
  | succ k _ ih => rw [Function.iterate_succ_apply', ih, bump]; omega

namespace History

/-- A SAMPLE brought to the queue: it joins, or is dropped and counted where eight records are queued (R155). -/
def offer (h : History) (q : Queued) : History :=
  if h.queue.length < 8 then { h with queue := h.queue ++ [q], queuedSamples := h.queuedSamples + 1 }
  else { h with droppedSamples := bump h.droppedSamples }

theorem degraded_offer (h : History) (q : Queued) : (h.offer q).degraded = h.degraded := by
  unfold offer
  split <;> rfl

theorem intervals_offer (h : History) (q : Queued) : (h.offer q).intervals = h.intervals := by
  unfold offer
  split <;> rfl

/-- SAMPLEs offered one after another. -/
def offers (h : History) (qs : List Queued) : History := qs.foldl offer h

theorem offers_cons (h : History) (q : Queued) (qs : List Queued) : h.offers (q :: qs) = (h.offer q).offers qs := rfl

/-- What a SAMPLE offered neither reads nor changes may be set before it or after it. -/
theorem offers_comm {f : History → History} (hf : ∀ h q, (f h).offer q = f (h.offer q)) (qs : List Queued) (h : History) :
    (f h).offers qs = f (h.offers qs) := by
  unfold offers
  exact List.foldl_hom f hf

theorem offers_frame (h : History) (qs : List Queued) : h.offers qs = { h with
    queue := (h.offers qs).queue, queuedSamples := (h.offers qs).queuedSamples
    droppedSamples := (h.offers qs).droppedSamples } :=
  offers_comm (f := fun y => { h with
      queue := y.queue, queuedSamples := y.queuedSamples, droppedSamples := y.droppedSamples })
    (fun y q => by unfold offer; split <;> rfl) qs h

theorem offers_intervals (h : History) (qs : List Queued) (x : Table (Option Interval) 4) :
    ({ h with intervals := x } : History).offers qs = { h.offers qs with intervals := x } :=
  offers_comm (f := fun y => { y with intervals := x }) (fun y q => by unfold offer; split <;> rfl) qs h

theorem offers_counted (h : History) (qs : List Queued) (n : Nat) (x : Table (Option Interval) 4) :
    ({ h with intervalCount := n, intervals := x } : History).offers qs =
      { h.offers qs with intervalCount := n, intervals := x } :=
  offers_comm (f := fun y => { y with intervalCount := n, intervals := x })
    (fun y q => by unfold offer; split <;> rfl) qs h

theorem queue_prefix_offers (qs : List Queued) : ∀ h : History, h.queue <+: (h.offers qs).queue := by
  induction qs with
  | nil => exact fun h => List.prefix_rfl
  | cons q qs ih =>
    refine fun h => List.IsPrefix.trans ?_ (ih (h.offer q))
    unfold offer
    split
    · exact List.prefix_append _ _
    · exact List.prefix_rfl

/-- In a queue with room for them all, every SAMPLE joins. -/
theorem queue_offers_room {qs : List Queued} : ∀ {h : History}, h.queue.length + qs.length ≤ 8 →
    (h.offers qs).queue = h.queue ++ qs := by
  induction qs with
  | nil => exact fun _ => (List.append_nil _).symm
  | cons q qs ih =>
    intro h hroom
    rw [List.length_cons] at hroom
    have hjoins : h.offer q = { h with queue := h.queue ++ [q], queuedSamples := h.queuedSamples + 1 } :=
      if_pos (by omega)
    rw [offers_cons, ih (by rw [hjoins, List.length_append, List.length_singleton]; omega), hjoins, List.append_assoc]
    rfl

/-- At a full queue every SAMPLE is dropped and counted. -/
theorem offers_full {qs : List Queued} : ∀ {h : History}, 8 ≤ h.queue.length →
    h.offers qs = { h with droppedSamples := bump^[qs.length] h.droppedSamples } := by
  induction qs with
  | nil => exact fun _ => rfl
  | cons q qs ih =>
    intro h hfull
    have hdrops : h.offer q = { h with droppedSamples := bump h.droppedSamples } := if_neg (by omega)
    rw [offers_cons, hdrops]
    exact ih hfull

end History

/-- The interval state after a publication with the air `r` that counts as `n` round-equivalents (R152). -/
def Interval.after (i : Interval) (r : AirRecord) (n : Nat) (x : Excursion) : Interval := { i with
  highest := i.highest.merge max r.a
  equivalents := i.equivalents + n
  excursionEquivalents := i.excursionEquivalents + if x = .active then n else 0 }

namespace State

variable {s : State} {p : Publication} {c : Fin 4} {r : AirRecord} {rest : List Publication}

/-- The SAMPLE that a publication creates for a compartment, where it has air and an interval there (R152, R153). -/
def sampleFor (s : State) (p : Publication) (c : Fin 4) : Option Queued :=
  (s.sampledAir p c).bind fun r => (s.hist.intervals.read c).map fun i =>
    { time := s.now, body := .sample (s.sampleOf p c r i) }

theorem createSample_eq (s : State) (x : Sample) :
    s.createSample x = s.modHist fun h => h.offer { time := s.now, body := .sample x } := by
  unfold createSample History.offer modHist
  dsimp only
  split <;> rfl

theorem sampleComp_none (h : s.sampleFor p c = none) : sampleComp p c s = s := by
  unfold sampleComp
  split
  · next hr hi => simp [sampleFor, hr, hi] at h
  · rfl

theorem sampleComp_some {q : Queued} (h : s.sampleFor p c = some q) : sampleComp p c s =
    s.modHist fun y => { y.offer q with intervals := y.intervals.write c (some (s.freshInterval c)) } := by
  obtain ⟨r, hr, hq⟩ := Option.bind_eq_some_iff.mp h
  obtain ⟨i, hi, rfl⟩ := Option.map_eq_some_iff.mp hq
  simp only [sampleComp, hr, hi, createSample_eq, modHist, History.intervals_offer]

/-- The SAMPLEs of the compartments `cs`, in order. -/
def samplesFor (s : State) (p : Publication) (cs : List (Fin 4)) : List Queued := cs.filterMap (s.sampleFor p)

theorem sampleFor_modHist {f : History → History} (hi : (f s.hist).intervals.read c = s.hist.intervals.read c)
    (hd : (f s.hist).degraded = s.hist.degraded) : (s.modHist f).sampleFor p c = s.sampleFor p c := by
  have hof : (s.modHist f).sampleOf p c = s.sampleOf p c := by
    unfold sampleOf
    rw [modHist_hist, hd]
    rfl
  unfold sampleFor
  rw [hof, modHist_hist, hi]
  rfl

/-- The SAMPLEs of several compartments: each is offered to the queue in its turn, and its compartment's interval starts
afresh. -/
theorem foldl_sampleComp {cs : List (Fin 4)} (hcs : cs.Nodup) : ∀ s : State, ∃ x : Table (Option Interval) 4,
    cs.foldl (fun t c => sampleComp p c t) s = s.modHist (fun y => { y.offers (s.samplesFor p cs) with intervals := x }) ∧
    (∀ c ∈ cs, s.sampleFor p c ≠ none → x.read c = some (s.freshInterval c)) ∧
    ∀ c ∉ cs, x.read c = s.hist.intervals.read c := by
  induction cs with
  | nil => exact fun s => ⟨s.hist.intervals, rfl, by simp, fun _ _ => rfl⟩
  | cons a cs ih =>
    obtain ⟨ha, hcs⟩ := List.nodup_cons.mp hcs
    intro s
    rw [List.foldl_cons, samplesFor, List.filterMap_cons]
    cases hq : s.sampleFor p a with
    | none =>
      obtain ⟨x, hx, hfresh, hkept⟩ := ih hcs s
      rw [sampleComp_none hq]
      refine ⟨x, hx, fun c hc hne => ?_, fun c hc => hkept c (fun h => hc (List.mem_cons_of_mem _ h))⟩
      exact hfresh c ((List.mem_cons.mp hc).resolve_left fun h => hne (h ▸ hq)) hne
    | some q =>
      obtain ⟨x, hx, hfresh, hkept⟩ := ih hcs (sampleComp p a s)
      rw [sampleComp_some hq] at hx hfresh hkept ⊢
      have hother : ∀ c, c ≠ a → (s.modHist fun y => { y.offer q with
          intervals := y.intervals.write a (some (s.freshInterval a)) }).sampleFor p c = s.sampleFor p c := fun c hc =>
        sampleFor_modHist (Table.read_write_other _ _ hc) (s.hist.degraded_offer q)
      have hsame : samplesFor _ p cs = s.samplesFor p cs :=
        List.filterMap_congr fun c hc => hother c fun h => ha (h ▸ hc)
      refine ⟨x, ?_, fun c hc hne => ?_, fun c hc => ?_⟩
      · rw [hx, hsame]
        simp only [modHist, History.offers_intervals]
        rfl
      · by_cases hca : c = a
        · subst hca
          exact (hkept c ha).trans (Table.read_write_same _ _ _)
        · exact hfresh c ((List.mem_cons.mp hc).resolve_left hca) (by rwa [hother c hca])
      · obtain ⟨hca, hc⟩ := not_or.mp (List.mem_cons.not.mp hc)
        exact (hkept c hc).trans (Table.read_write_other _ _ hca)

/-- The publication taken: its round-equivalents are counted, and each compartment's interval follows (R152). -/
def storeCounts (s : State) (p : Publication) (rest : List Publication) : State := { s with
  pubs := { s.pubs with store := rest }
  hist := { s.hist with intervalCount := s.intervalAfter p, intervals := s.hist.intervals.mapIdx (s.stepInterval p) } }

theorem storeTake_cons (hp : s.pubs.store = p :: rest) : s.storeTake =
    if s.ctl.working.interval ≤ s.intervalAfter p then
      ((s.storeCounts p rest).forComps (sampleComp p)).modHist fun h => { h with intervalCount := 0 }
    else s.storeCounts p rest := by
  rw [storeTake, hp]
  rfl

/-- The row SAMPLE is the publication at which the interval counter reaches the setting (log 6). -/
theorem exec_sample (hp : s.pubs.store = p :: rest) (hn : s.ctl.working.interval ≤ s.intervalAfter p) :
    exec .sample s = .next s.storeTake :=
  congrArg Host.Outcome.next (if_pos (by rw [sampleDue, hp]; exact decide_eq_true hn))

theorem sampledAir_eq (hu : ∀ r, p.air.read c = some r → s.inUse c = true) : s.sampledAir p c = p.air.read c := by
  unfold sampledAir
  split
  · rfl
  · next h => exact (Option.eq_none_iff_forall_not_mem.mpr fun r hr => h (hu r hr)).symm

theorem stepInterval_none (h : s.sampledAir p c = none) (old : Option Interval) : s.stepInterval p c old = old := by
  rw [stepInterval, h]

theorem stepInterval_some (h : s.sampledAir p c = some r) (old : Option Interval) : s.stepInterval p c old =
    some ((old.getD (s.freshInterval c)).after r (equivalents p.parked) (s.mon.read c).excursion) := by
  generalize hi : old.getD (s.freshInterval c) = i
  have hhighest : ∀ a, i.highest.merge max (some a) = some (max (i.highest.getD a) a) := by cases i.highest <;> simp
  have hcount : ∀ n x, (if x = Excursion.active then i.excursionEquivalents + n else i.excursionEquivalents) =
    i.excursionEquivalents + if x = .active then n else 0 := fun n x => by split <;> rfl
  rw [stepInterval, h]
  cases ha : r.a with
  | none => simp [Interval.after, ha, hi, hcount]
  | some a => simp [Interval.after, ha, hi, hcount, hhighest]

/-- The SAMPLE of a compartment with air holds the interval that the publication ends (R152, R153). -/
theorem sampleFor_storeCounts (h : s.sampledAir p c = some r) : (s.storeCounts p rest).sampleFor p c = some
    { time := s.now
      body := .sample (s.sampleOf p c r (((s.hist.intervals.read c).getD (s.freshInterval c)).after r
        (equivalents p.parked) (s.mon.read c).excursion)) } := by
  have hair : (s.storeCounts p rest).sampledAir p c = some r := h
  have hstep := (Table.read_mapIdx s.hist.intervals (s.stepInterval p) c).trans (stepInterval_some h _)
  rw [sampleFor, hair, Option.bind_some]
  exact congrArg (Option.map _) hstep

theorem sampleFor_storeCounts_none (h : s.sampledAir p c = none) : (s.storeCounts p rest).sampleFor p c = none :=
  congrArg (Option.bind · _) h

/-- A publication at which the counter comes to the setting, by its SAMPLEs (R152, R155). -/
theorem storeTake_samples (hp : s.pubs.store = p :: rest) (hn : s.ctl.working.interval ≤ s.intervalAfter p) :
    ∃ x : Table (Option Interval) 4, s.storeTake = { s with
        pubs := { s.pubs with store := rest }
        hist := { s.hist.offers ((s.storeCounts p rest).samplesFor p (List.finRange 4)) with
          intervalCount := 0, intervals := x } } ∧
      ∀ c r, s.sampledAir p c = some r → x.read c = some (s.freshInterval c) := by
  obtain ⟨x, hx, hfresh, -⟩ := foldl_sampleComp (p := p) (List.nodup_finRange 4) (s.storeCounts p rest)
  refine ⟨x, ?_, fun c r hr => hfresh c (List.mem_finRange c) fun hnone => ?_⟩
  case refine_2 => exact absurd ((sampleFor_storeCounts hr).symm.trans hnone) nofun
  rw [storeTake_cons hp, if_pos hn, forComps_eq_foldl, hx, modHist, modHist]
  exact congrArg (fun y : History => { s with
    pubs := { s.pubs with store := rest }, hist := { y with intervalCount := 0, intervals := x } })
    (History.offers_counted s.hist _ _ _)

/-- As many SAMPLEs are created as compartments have air. -/
theorem length_samplesFor (hu : ∀ c, s.sampledAir p c = p.air.read c) :
    ((s.storeCounts p rest).samplesFor p (List.finRange 4)).length =
      ((List.finRange 4).filter fun c => (p.air.read c).isSome).length := by
  rw [samplesFor, List.length_filterMap_eq_countP, List.countP_eq_length_filter]
  refine congrArg List.length (List.filter_congr fun c _ => ?_)
  cases hr : p.air.read c with
  | none => rw [sampleFor_storeCounts_none ((hu c).trans hr)]; rfl
  | some r => rw [sampleFor_storeCounts ((hu c).trans hr)]; rfl

end State

/-- Settles O46: below the setting the publication is counted alone; at the setting its SAMPLEs are offered to the queue in the
order of the compartments. -/
theorem samplesAreCreatedEveryIntervals : Obligations.SamplesAreCreatedEveryIntervals := by
  unfold Obligations.SamplesAreCreatedEveryIntervals
  intro s p rest n begun hp hn hu hbegun
  replace hn : n = equivalents p.parked := hn
  subst hn
  have hair : ∀ c, s.sampledAir p c = p.air.read c := fun c => State.sampledAir_eq (hu c)
  have hold : ∀ c, (s.hist.intervals.read c).getD (s.freshInterval c) = begun c := fun c => (hbegun c).symm
  constructor
  · intro hlt
    have htake : s.storeTake = s.storeCounts p rest :=
      (State.storeTake_cons hp).trans (if_neg (Nat.not_le.mpr hlt))
    refine ⟨s.storeCounts p rest, congrArg Host.Outcome.next htake, rfl, fun c hc => ?_, fun c r v hr hv => ?_⟩
    · exact (Table.read_mapIdx _ _ c).trans (State.stepInterval_none ((hair c).trans hc) _)
    · refine (Table.read_mapIdx _ _ c).trans ((State.stepInterval_some ((hair c).trans hr) _).trans ?_)
      rw [hold, ← hv]
      obtain ⟨_ | a, _⟩ := r <;> obtain ⟨_, _ | b, _⟩ := v <;> rfl
  · intro hle
    obtain ⟨x, htake, hfresh⟩ := State.storeTake_samples hp hle
    have hlength := State.length_samplesFor (s := s) (rest := rest) hair
    have hframe := s.hist.offers_frame ((s.storeCounts p rest).samplesFor p (List.finRange 4))
    generalize hqs : (s.storeCounts p rest).samplesFor p (List.finRange 4) = qs at htake hlength hframe
    refine ⟨s.storeTake, State.exec_sample hp hle, rfl, ?_⟩
    rw [htake]
    refine ⟨rfl, rfl, by rw [hframe], by rw [hframe], History.queue_prefix_offers qs s.hist, fun c hc => ?_, ?_, ?_⟩
    · obtain ⟨r, hr⟩ := Option.ne_none_iff_exists'.mp hc
      exact hfresh c r ((hair c).trans hr)
    · intro k hk hpos hfull
      rw [← hlength] at hk
      rw [History.offers_full hfull, ← hk, bump_iterate hpos]
      exact ⟨rfl, rfl, rfl⟩
    · intro c r v hroom hr hv
      have hfew : qs.length ≤ 4 := hlength.trans_le (List.length_filter_le _ _)
      change _ ∈ (s.hist.offers qs).queue
      rw [History.queue_offers_room (by omega)]
      refine List.mem_append_right _ ?_
      rw [← hqs]
      refine List.mem_filterMap.mpr ⟨c, List.mem_finRange c, ?_⟩
      rw [State.sampleFor_storeCounts ((hair c).trans hr), hold, ← hv]
      obtain ⟨_ | a, _⟩ := r <;> obtain ⟨_, _ | b, _⟩ := v <;> rfl

end Sys2Proof.Machine

namespace Sys2Proof.Machine

/-! ## The working settings and the park flag (file 09) -/

/-! ### The working settings outside SETUP (R182) -/

/-- The ledger that claims of a row only that the working settings stay as they are. -/
def Ledger.ofWorking (s : State) : Ledger where
  commands := s.pending
  settings := s.ctl.working
  queue := False
  ports := False
  contexts := False
  reference := False
  working := True
  table := s.cons
  doses := False

theorem keeps_ofWorking (s : State) : Keeps (.ofWorking s) s where
  commands := rfl
  queue := False.elim
  ports := False.elim
  contexts := False.elim
  reference := False.elim
  working := fun _ => rfl
  doses := False.elim

/-- Settles O4: every row keeps the ledger's clause about the working settings, but in SETUP and at the two events that begin
START. -/
theorem settingsChangeOnlyInSetup : Obligations.SettingsChangeOnlyInSetup := by
  unfold Obligations.SettingsChangeOnlyInSetup
  intro i s t hmode hreturn hrelease h
  exact (keeps_exec i (fun _ => ⟨hmode, hreturn, hrelease⟩) False.elim (keeps_ofWorking s) h).working trivial

/-! ### PARK and WAKE (R174) -/

namespace State

variable {s : State}

/-- The mode in which an event that ends parking or sleep leaves the part (R176, R178). -/
def rousedMode (s : State) : Mode :=
  if s.ctl.mode = .parked then .service else if s.ctl.mode = .dormant then .waking else s.ctl.mode

/-- A roused part leaves only PARKED and DORMANT. -/
theorem rousedMode_eq_mode_iff : s.rousedMode = s.ctl.mode ↔ s.ctl.mode ≠ .parked ∧ s.ctl.mode ≠ .dormant := by
  unfold rousedMode
  cases s.ctl.mode <;> decide

theorem rouse_unmoved (hm : s.rousedMode = s.ctl.mode) (k : ModeCause) : s.rouse k = s :=
  rouse_awake s k (rousedMode_eq_mode_iff.mp hm).1 (rousedMode_eq_mode_iff.mp hm).2

theorem rouse_moved (hm : s.rousedMode ≠ s.ctl.mode) (k : ModeCause) : s.rouse k = s.enterMode s.rousedMode k := by
  unfold rousedMode at hm ⊢
  split at hm
  · next hp => simp [rouse, hp]
  · next hp =>
    split at hm
    · next hd => simp [rouse, wakeFrom, hd]
    · exact absurd rfl hm

theorem rouse_parkFlag (s : State) (k : ModeCause) : (s.rouse k).ctl.parkFlag = s.ctl.parkFlag := by
  by_cases hm : s.rousedMode = s.ctl.mode
  · rw [rouse_unmoved hm]
  · rw [rouse_moved hm]; rfl

theorem rouse_parkLine (s : State) (k : ModeCause) : (s.rouse k).parkLine = s.parkLine := by
  by_cases hm : s.rousedMode = s.ctl.mode
  · rw [rouse_unmoved hm]
  · rw [rouse_moved hm]; rfl

theorem rouse_responses (s : State) (k : ModeCause) (q : Port) :
    ((s.rouse k).ports.at q).responses = (s.ports.at q).responses := by
  by_cases hm : s.rousedMode = s.ctl.mode
  · rw [rouse_unmoved hm]
  · rw [rouse_moved hm]; exact responses_raise _ _ q

/-- The answer of PARK and WAKE after parking or sleep has ended. -/
theorem rouse_parkBytes (s : State) (k : ModeCause) : (s.rouse k).parkBytes =
    u8 s.rousedMode.code ++ flag s.ctl.parkFlag ++ flag s.parkLine ++ flag s.parkCondition := by
  rw [parkBytes, rouse_mode, rouse_parkFlag, rouse_parkLine, rouse_parkCondition, rousedMode]

/-- The PARK flag cleared (R174). -/
def flagCleared (s : State) : State := { s with ctl := { s.ctl with parkFlag := false } }

/-- Without the PARK flag the park condition is the line's. -/
theorem flagCleared_parkCondition (s : State) : s.flagCleared.parkCondition = s.parkLine := Bool.or_false _

end State

section park

variable {h : Header} {s : State}

theorem park_taken (hs : Taken .mode h s) :
    exec (.park h) s = .next (({ s with ctl := { s.ctl with parkFlag := true } } : State).respond h .ok
      (u8 s.ctl.mode.code ++ flag true ++ flag s.parkLine ++ flag true)) := by
  have hcondition : ({ s with ctl := { s.ctl with parkFlag := true } } : State).parkCondition = true := Bool.or_true _
  refine (next_take_taken hs _).trans ?_
  simp only [State.parkBytes, hcondition]
  rfl

theorem wake_taken (hs : Taken .mode h s) :
    exec (.wake h) s = .next ((s.flagCleared.rouse .wake).respond h .ok
      (u8 s.rousedMode.code ++ flag false ++ flag s.parkLine ++ flag s.parkLine)) := by
  have hbytes : (s.flagCleared.rouse .wake).parkBytes =
      u8 s.rousedMode.code ++ flag false ++ flag s.parkLine ++ flag s.parkLine := by
    rw [State.rouse_parkBytes, State.flagCleared_parkCondition]; rfl
  rw [← hbytes]
  exact next_take_taken hs _

end park

/-- Settles O49: PARK only sets its flag; WAKE clears it and rouses the part, which moves only where the roused mode is
another. -/
theorem parkAndWakeActOnTheParkFlag : Obligations.ParkAndWakeActOnTheParkFlag := by
  unfold Obligations.ParkAndWakeActOnTheParkFlag
  intro h s hs
  refine ⟨park_taken hs, _, s.rousedMode, wake_taken hs, rfl, ?_, ?_, ?_, ?_, fun hm => ?_, fun hm => ?_⟩
  · rw [State.rouse_frame]; rfl
  · exact s.flagCleared.rouse_mode .wake
  · exact s.flagCleared.rouse_parkFlag .wake
  · rw [State.answered, responses_respond, State.rouse_responses]; rfl
  · rw [State.rouse_unmoved (s := s.flagCleared) hm]
    exact ⟨rfl, rfl, rfl⟩
  · rw [State.rouse_moved (s := s.flagCleared) hm]
    rfl

end Sys2Proof.Machine

namespace Sys2Proof.Machine

/-! ## The port unit (file 10) -/

/-! ### Attention and the link counts (R186, R187, R195) -/

/-- The ledger that claims of a step only that the ports stay sound. -/
def Ledger.ofPorts (s : State) (rest : List Instr) : Ledger where
  commands := rest
  settings := s.ctl.working
  queue := False
  ports := True
  contexts := False
  reference := False
  working := False
  table := s.cons
  doses := False

theorem keeps_ofPorts {s : State} (rest : List Instr) (hs : s.portsSound) :
    Keeps (.ofPorts s rest) { s with pending := rest } where
  commands := rfl
  queue := False.elim
  ports := fun _ => hs
  contexts := False.elim
  reference := False.elim
  working := False.elim
  doses := False.elim

/-- Settles O6: an empty queue idles, and every command and event keeps the ledger's clause about the ports. -/
theorem attentionFollowsTheSets : Obligations.AttentionFollowsTheSets := by
  unfold Obligations.AttentionFollowsTheSets
  intro s t hs h
  unfold step at h
  split at h
  · cases h; exact hs
  · next c rest _ => exact (keeps_exec c False.elim False.elim (keeps_ofPorts rest hs) h).ports trivial

/-! ### The checks before a command's own rule (R188) -/

section checks

variable {i : Instr} {h : Header} {g : Group} {s : State}

theorem State.take_start (hp : s.powered = true) (hm : s.ctl.mode = .start) (body : State → State) :
    s.take g h body = s.respond h .busy [] := by
  simp [take, hp, hm]

theorem State.take_flying (hp : s.powered = true) (hm : s.ctl.mode ≠ .start) (hf : (s.ports.at h.port).inFlight ≠ none)
    (body : State → State) : s.take g h body = s.respond h .busy [] := by
  simp [take, hp, hm, Option.isSome_iff_ne_none.mpr hf]

theorem State.take_denied (hp : s.powered = true) (hm : s.ctl.mode ≠ .start) (hf : (s.ports.at h.port).inFlight = none)
    (hr : holdsGroup s.ctl.working.grants g h.port = false) (body : State → State) :
    s.take g h body = s.respond h .denied [] := by
  simp [take, hp, hm, hf, hr]

/-- RESTART passes the checks of every command, but on the T-port outside START. -/
theorem restart_takes (hr : h.port = .t → s.ctl.mode = .start) :
    ∃ body, cmdRestart h s = s.take .mode h body := by
  unfold cmdRestart
  by_cases ht : h.port = .t
  · exact ⟨id, by simp [hr ht]⟩
  · simp only [if_neg ht]
    split
    · exact ⟨_, rfl⟩
    · exact ⟨id, rfl⟩

/-- Every serial command passes the port's checks for its header and its group before its own rule, but RESTART on the T-port
outside START. -/
theorem exec_takes (hh : header? i = some h) (hg : group? i = some g) (hr : isTerminalRestart i = true → s.ctl.mode = .start) :
    ∃ body, exec i s = .next (s.take g h body) := by
  cases i
  case restart h' =>
    obtain rfl : h' = h := Option.some.inj hh
    obtain rfl : Group.mode = g := Option.some.inj hg
    obtain ⟨body, hbody⟩ := restart_takes (s := s) fun ht => hr (beq_iff_eq.mpr ht)
    exact ⟨body, congrArg Host.Outcome.next hbody⟩
  all_goals cases hh
  all_goals
    cases hg
    exact ⟨_, rfl⟩

/-- Only the T-port holds the mode group, so a command outside its port's rights is not RESTART on the T-port. -/
theorem not_isTerminalRestart_of_denied (hh : header? i = some h) (hg : group? i = some g)
    (hr : holdsGroup s.ctl.working.grants g h.port = false) : isTerminalRestart i = false := by
  cases i
  case restart h' =>
    cases hh; cases hg
    exact hr
  all_goals rfl

end checks

/-- Settles O3: each refusal is that of `State.take`, which every command but RESTART on the T-port runs. -/
theorem portChecksComeFirst : Obligations.PortChecksComeFirst := by
  unfold Obligations.PortChecksComeFirst
  intro i h g s hh hg hp
  refine ⟨fun hm => ?_, fun hm hr hf => ?_, fun hm hf hd => ?_⟩
  · obtain ⟨body, hexec⟩ := exec_takes hh hg fun _ => hm
    rw [hexec, State.take_start hp hm]
  · obtain ⟨body, hexec⟩ := exec_takes (s := s) hh hg fun ht => absurd ht (Bool.eq_false_iff.mp hr)
    rw [hexec, State.take_flying hp hm hf]
  · have hr := not_isTerminalRestart_of_denied hh hg hd
    obtain ⟨body, hexec⟩ := exec_takes (s := s) hh hg fun ht => absurd ht (Bool.eq_false_iff.mp hr)
    rw [hexec, State.take_denied hp hm hf hd]

/-! ### The top reason (R196) -/

/-- The kinds stand in the priority order by their bits (R202). -/
theorem EventKind.bit_all : ∀ (n : Nat) (hn : n < EventKind.all.length), (EventKind.all[n]).bit = n := by decide

theorem hasKind_all (set : BitVec 12) {n : Nat} (hn : n < EventKind.all.length) :
    hasKind set EventKind.all[n] = set.getLsbD n := by
  rw [hasKind, EventKind.bit_all n hn]

/-- Only a set without a kind has no top reason (R196). -/
theorem topReason_eq_none_iff (set : BitVec 12) : topReason set = none ↔ set = 0#12 := by
  refine ⟨fun hnone => BitVec.eq_of_getLsbD_eq fun n hn => ?_, fun h => by subst h; rfl⟩
  have hlen : n < EventKind.all.length := hn
  have hk := List.find?_eq_none.mp hnone _ (List.getElem_mem hlen)
  rw [hasKind_all set hlen] at hk
  simpa using hk

/-- The top reason is the lowest bit of the set (R196). -/
theorem topReason_lowest {set : BitVec 12} {k : EventKind} (htop : topReason set = some k) :
    k.bit < 12 ∧ set.getLsbD k.bit = true ∧ ∀ n, n < k.bit → set.getLsbD n = false := by
  obtain ⟨hk, m, hm, rfl, hfirst⟩ := List.find?_eq_some_iff_getElem.mp htop
  rw [hasKind_all set hm] at hk
  rw [EventKind.bit_all m hm]
  refine ⟨hm, hk, fun n hn => ?_⟩
  have hnot := hfirst n hn
  rw [hasKind_all] at hnot
  simpa using hnot

/-- Settles O58. -/
theorem readEventsGivesTheTopReason : Obligations.ReadEventsGivesTheTopReason := by
  unfold Obligations.ReadEventsGivesTheTopReason
  rintro h s u hs rfl
  refine ⟨((topReason ((s.ports.at h.port).pending &&& (s.ports.at h.port).enable)).map EventKind.bit).getD 255,
    next_take_taken hs _, fun hnone => ?_, fun hsome => ?_⟩
  · rw [(topReason_eq_none_iff _).mpr hnone]; rfl
  · obtain ⟨k, hk⟩ := Option.ne_none_iff_exists'.mp fun hnone => hsome ((topReason_eq_none_iff _).mp hnone)
    rw [hk]
    exact topReason_lowest hk

/-! ### The frame of a command read back (R199 to R201) -/

/-- An optional argument reads back where its presence bit says whether it was given (R201). -/
theorem given_getD {α : Type} {mask : Byte} {bit : Nat} (x : Option α) (d : α) (h : mask.getLsbD bit = x.isSome) :
    given mask bit (x.getD d) = x := by
  cases x <;> simp [given, h]

/-- The presence byte of optional arguments, as one byte (R201). -/
def presenceMask (xs : List Bool) : Byte :=
  BitVec.ofNat 8 (xs.zipIdx.foldl (fun n x => if x.1 then n + 2 ^ x.2 else n) 0)

theorem presenceByte_eq (xs : List Bool) : presenceByte xs = [presenceMask xs] := rfl

theorem presenceMask_one : ∀ a : Bool, presenceOk 1 (presenceMask [a]) = true ∧ (presenceMask [a]).getLsbD 0 = a := by
  decide

theorem presenceMask_three : ∀ a b c : Bool, presenceOk 3 (presenceMask [a, b, c]) = true ∧
    (presenceMask [a, b, c]).getLsbD 0 = a ∧ (presenceMask [a, b, c]).getLsbD 1 = b ∧
    (presenceMask [a, b, c]).getLsbD 2 = c := by
  decide

theorem presenceMask_four : ∀ a b c d : Bool, presenceOk 4 (presenceMask [a, b, c, d]) = true ∧
    (presenceMask [a, b, c, d]).getLsbD 0 = a ∧ (presenceMask [a, b, c, d]).getLsbD 1 = b ∧
    (presenceMask [a, b, c, d]).getLsbD 2 = c ∧ (presenceMask [a, b, c, d]).getLsbD 3 = d := by
  decide

section fields

variable {β : Type}

theorem take8_bind (b : Byte) (rest : List Byte) (f : Byte × List Byte → Option β) :
    (take8 (b :: rest) >>= f) = f (b, rest) := rfl

theorem take16_bind (w : BitVec 16) (rest : List Byte) (f : BitVec 16 × List Byte → Option β) :
    (take16 (word16 w ++ rest) >>= f) = f (w, rest) := by
  rw [take16_word16]; rfl

theorem take16_bind_end (w : BitVec 16) (f : BitVec 16 × List Byte → Option β) :
    (take16 (word16 w) >>= f) = f (w, []) := by
  rw [take16_word16_end]; rfl

theorem take32_bind (w : BitVec 32) (rest : List Byte) (f : BitVec 32 × List Byte → Option β) :
    (take32 (word32 w ++ rest) >>= f) = f (w, rest) := by
  rw [take32_word32]; rfl

theorem take32_bind_end (w : BitVec 32) (f : BitVec 32 × List Byte → Option β) :
    (take32 (word32 w) >>= f) = f (w, []) := by
  rw [take32_word32_end]; rfl

end fields

theorem oneWord_word32 (w : BitVec 32) (f : BitVec 32 → Instr) : oneWord (word32 w) f = some (f w) :=
  take32_bind_end w _

section readBack

variable (h : Header)

theorem parse_setLine (l k v : Byte) (d : BitVec 16) (c : Option Byte) :
    parseCommand h 3 (commandBytes (.setLine h l k v d c)) = some (.setLine h l k v d c) := by
  obtain ⟨hok, hc⟩ := presenceMask_one c.isSome
  simp only [commandBytes, presenceByte_eq, List.append_assoc, List.cons_append, List.nil_append]
  refine (take8_bind _ _ _).trans <| (take8_bind _ _ _).trans <| (take8_bind _ _ _).trans <| (take16_bind _ _ _).trans <|
    (if_pos hok).trans ?_
  rw [given_getD c _ hc]
  rfl

theorem parse_setCompartment (c u : Byte) (z p q : Option Byte) :
    parseCommand h 6 (commandBytes (.setCompartment h c u z p q)) = some (.setCompartment h c u z p q) := by
  obtain ⟨hok, hz, hp, hq⟩ := presenceMask_three z.isSome p.isSome q.isSome
  simp only [commandBytes, presenceByte_eq, List.cons_append, List.nil_append]
  refine (take8_bind _ _ _).trans <| (take8_bind _ _ _).trans <| (take8_bind _ _ _).trans <| (if_pos hok).trans ?_
  rw [given_getD z _ hz, given_getD p _ hp, given_getD q _ hq]
  rfl

theorem parse_setZone (z : Byte) (fields : List (Byte × BitVec 32)) :
    parseCommand h 7 (commandBytes (.setZone h z fields)) = some (.setZone h z fields) := by
  have hlen : fields.length ≤ (fields.flatMap fun x => [x.1] ++ word32 x.2).length := by
    rw [length_zonePairs]; omega
  exact (take8_bind _ _ _).trans
    (congrArg (fun o => o >>= fun fields => some (Instr.setZone h z fields)) (takePairs_zonePairs fields _ hlen))

theorem parse_list (i : BitVec 32) (c p : Byte) (d : Option (BitVec 32)) (k : Option Byte) (r : Option (BitVec 32))
    (e : Option (BitVec 16)) :
    parseCommand h 12 (commandBytes (.list h i c p d k r e)) = some (.list h i c p d k r e) := by
  obtain ⟨hok, hd, hk, hr, he⟩ := presenceMask_four d.isSome k.isSome r.isSome e.isSome
  simp only [commandBytes, presenceByte_eq, List.append_assoc, List.cons_append, List.nil_append]
  refine (take32_bind _ _ _).trans <| (take8_bind _ _ _).trans <| (take8_bind _ _ _).trans <| (take8_bind _ _ _).trans <|
    (take32_bind _ _ _).trans <| (take8_bind _ _ _).trans <| (take32_bind _ _ _).trans <| (take16_bind_end _ _).trans <|
    (if_pos hok).trans ?_
  rw [given_getD d _ hd, given_getD k _ hk, given_getD r _ hr, given_getD e _ he]
  rfl

theorem parse_load (i : BitVec 32) (e : Option (BitVec 16)) :
    parseCommand h 13 (commandBytes (.load h i e)) = some (.load h i e) := by
  obtain ⟨hok, he⟩ := presenceMask_one e.isSome
  simp only [commandBytes, presenceByte_eq, List.append_assoc, List.cons_append, List.nil_append]
  refine (take32_bind _ _ _).trans <| (take8_bind _ _ _).trans <| (take16_bind_end _ _).trans <| (if_pos hok).trans ?_
  rw [given_getD e _ he]
  rfl

theorem parse_decide (i : BitVec 32) (o r : Byte) (m : Option (List Byte))
    (hm : ∀ bytes, m = some bytes → bytes.length = 16) :
    parseCommand h 24 (commandBytes (.decide h i o r m)) = some (.decide h i o r m) := by
  obtain ⟨hok, hbit⟩ := presenceMask_one m.isSome
  have hlen : (m.getD (List.replicate 16 0)).length = 16 := by
    cases m with
    | none => rfl
    | some bytes => exact hm bytes rfl
  simp only [commandBytes, presenceByte_eq, List.append_assoc, List.cons_append, List.nil_append]
  refine (take32_bind _ _ _).trans <| (take8_bind _ _ _).trans <| (take8_bind _ _ _).trans <| (take8_bind _ _ _).trans <|
    (if_pos ⟨hlen, hok⟩).trans ?_
  rw [given_getD m _ hbit]
  rfl

end readBack

/-- Settles O10: the commands with optional arguments, pairs or a customer mark by their own lemmas, the others field by field. -/
theorem commandFramesReadBack : Obligations.CommandFramesReadBack := by
  unfold Obligations.CommandFramesReadBack
  intro i h code hh hc hw
  cases i
  all_goals cases hh
  all_goals cases hc
  case setLine => exact parse_setLine ..
  case setCompartment => exact parse_setCompartment ..
  case setZone => exact parse_setZone ..
  case list => exact parse_list ..
  case load => exact parse_load ..
  case decide =>
    refine parse_decide _ _ _ _ _ fun bytes hm => ?_
    subst hm
    simpa [Instr.wellFormed] using hw
  case setProbe => exact (take8_bind _ _ _).trans <| (take16_bind _ _ _).trans (take16_bind_end _ _)
  case readDoorLog | readHistory | move => exact take32_bind _ _ _
  case reportSetpoint => exact (take8_bind _ _ _).trans (take16_bind_end _ _)
  case setMarks => exact (take32_bind _ _ _).trans (take32_bind_end _ _)
  case enableSet | enableClear | ackEvents => exact take16_bind_end _ _
  case readConsignment which | readClaim which =>
    rcases which with n | slot
    · exact (take8_bind _ _ _).trans (oneWord_word32 n _)
    · rfl
  case unload | drop | settleClaim | withdrawClaim | beginHandover | cancelHandover | getSummary | readReceipt | ackReceipt |
      ackHistory | setTime => exact oneWord_word32 _ _
  all_goals rfl

/-! ### What a frame spells (R199 to R201) -/

/-- A command with the header and the code given, whose argument bytes are `n` (R200, R201). -/
structure Spelled (h : Header) (code n : Nat) (i : Instr) : Prop where
  header : header? i = some h
  code : commandCode i = some code
  length : (commandBytes i).length = n

/-- What is read, if a command is, is one that `Spelled` describes. -/
def Spells (h : Header) (code n : Nat) (o : Option Instr) : Prop := ∀ i, o = some i → Spelled h code n i

section spells

variable {h : Header} {code k : Nat} {i : Instr} {args : List Byte}

theorem spells_none : Spells h code k none := fun _ hi => nomatch hi

theorem spells_some (hi : Spelled h code k i) : Spells h code k (some i) := by
  rintro _ ⟨⟩
  exact hi

theorem spells_ite {p : Prop} [Decidable p] {o o' : Option Instr} (ho : p → Spells h code k o) (ho' : Spells h code k o') :
    Spells h code k (if p then o else o') := by
  split
  · next hp => exact ho hp
  · exact ho'

/-- A one-byte field, and what the rest spells after it. -/
theorem spells_take8 {f : Byte × List Byte → Option Instr}
    (hf : ∀ b rest, Spells h code (k + 1 + rest.length) (f (b, rest))) :
    Spells h code (k + args.length) (take8 args >>= f) := by
  rcases args with - | ⟨b, rest⟩
  · exact spells_none
  · have hn : k + (b :: rest).length = k + 1 + rest.length := by simp only [List.length_cons]; omega
    rw [hn]
    exact hf b rest

/-- A two-byte field, and what the rest spells after it. -/
theorem spells_take16 {f : BitVec 16 × List Byte → Option Instr}
    (hf : ∀ w rest, Spells h code (k + 2 + rest.length) (f (w, rest))) :
    Spells h code (k + args.length) (take16 args >>= f) := by
  rcases args with - | ⟨a, - | ⟨b, rest⟩⟩
  iterate 2 exact spells_none
  have hn : k + (a :: b :: rest).length = k + 2 + rest.length := by simp only [List.length_cons]; omega
  rw [hn]
  exact hf _ rest

/-- A four-byte field, and what the rest spells after it. -/
theorem spells_take32 {f : BitVec 32 × List Byte → Option Instr}
    (hf : ∀ w rest, Spells h code (k + 4 + rest.length) (f (w, rest))) :
    Spells h code (k + args.length) (take32 args >>= f) := by
  rcases args with - | ⟨a, - | ⟨b, - | ⟨c, - | ⟨d, rest⟩⟩⟩⟩
  iterate 4 exact spells_none
  have hn : k + (a :: b :: c :: d :: rest).length = k + 4 + rest.length := by simp only [List.length_cons]; omega
  rw [hn]
  exact hf _ rest

/-- After the last field no byte is left. -/
theorem spells_end {α : Type} (f : α × List Byte → Option Instr) {a : α} {rest : List Byte}
    (hnil : Spells h code k (f (a, []))) (hcons : ∀ b bs, f (a, b :: bs) = none) :
    Spells h code (k + rest.length) (f (a, rest)) := by
  cases rest with
  | nil => exact hnil
  | cons b bs => rw [hcons]; exact spells_none

theorem spells_last8 {f : Byte × List Byte → Option Instr} (hnil : ∀ b, Spells h code (k + 1) (f (b, [])))
    (hcons : ∀ b c cs, f (b, c :: cs) = none) : Spells h code (k + args.length) (take8 args >>= f) :=
  spells_take8 fun b _ => spells_end f (hnil b) (hcons b)

theorem spells_last16 {f : BitVec 16 × List Byte → Option Instr} (hnil : ∀ w, Spells h code (k + 2) (f (w, [])))
    (hcons : ∀ w c cs, f (w, c :: cs) = none) : Spells h code (k + args.length) (take16 args >>= f) :=
  spells_take16 fun w _ => spells_end f (hnil w) (hcons w)

theorem spells_last32 {f : BitVec 32 × List Byte → Option Instr} (hnil : ∀ w, Spells h code (k + 4) (f (w, [])))
    (hcons : ∀ w c cs, f (w, c :: cs) = none) : Spells h code (k + args.length) (take32 args >>= f) :=
  spells_take32 fun w _ => spells_end f (hnil w) (hcons w)

theorem spells_noArgs (hi : Spelled h code k i) : Spells h code (k + args.length) (noArgs args i) := by
  refine spells_ite (fun hargs => ?_) spells_none
  subst hargs
  exact spells_some hi

theorem spells_oneWord {f : BitVec 32 → Instr} (hf : ∀ w, Spelled h code (k + 4) (f w)) :
    Spells h code (k + args.length) (oneWord args f) :=
  spells_last32 (fun w => spells_some (hf w)) fun _ _ _ => rfl

/-- The pairs of SET_ZONE take five bytes each (R201). -/
theorem takePairs_length : ∀ (n : Nat) (bs : List Byte) (fields : List (Byte × BitVec 32)),
    takePairs n bs = some fields → bs.length = 5 * fields.length := by
  intro n
  induction n with
  | zero =>
    intro bs fields hp
    cases bs with
    | nil => cases hp; rfl
    | cons => cases hp
  | succ n ih =>
    intro bs fields hp
    rcases bs with - | ⟨a, - | ⟨b, - | ⟨c, - | ⟨d, - | ⟨e, rest⟩⟩⟩⟩⟩
    · cases hp; rfl
    iterate 4 cases hp
    obtain ⟨more, hmore, hfields⟩ := Option.bind_eq_some_iff.mp hp
    cases hfields
    have hrest := ih rest more hmore
    simp only [List.length_cons]
    omega

theorem spells_setZone (z : Byte) (rest : List Byte) :
    Spells h 7 (1 + rest.length) (takePairs rest.length rest >>= fun fields => some (.setZone h z fields)) := by
  intro i hi
  obtain ⟨fields, hfields, hsome⟩ := Option.bind_eq_some_iff.mp hi
  cases hsome
  exact ⟨rfl, rfl, by rw [length_zoneBytes, takePairs_length _ _ _ hfields]⟩

theorem spells_decide (id : BitVec 32) (o r m : Byte) (mark : List Byte) :
    Spells h 24 (7 + mark.length)
      (if mark.length = 16 ∧ presenceOk 1 m then some (.decide h id o r (given m 0 mark)) else none) := by
  refine spells_ite (fun ⟨hlen, _⟩ => spells_some ⟨rfl, rfl, ?_⟩) spells_none
  have hmark : ((given m 0 mark).getD (List.replicate 16 0)).length = mark.length := by
    unfold given
    split
    · rfl
    · exact hlen.symm
  simp only [commandBytes, List.length_append, length_word32, length_presenceByte, hmark, List.length_cons, List.length_nil]

end spells

/-- The command that a frame spells has the frame's header and code, and as many argument bytes as the frame (R200, R201).
The cases bear the command codes. -/
theorem parseCommand_spells (h : Header) (code : Nat) (args : List Byte) :
    Spells h code (0 + args.length) (parseCommand h code args) := by
  unfold parseCommand
  split
  case h_2 | h_4 | h_11 | h_31 | h_32 | h_33 | h_34 | h_36 | h_37 | h_38 | h_43 | h_44 =>
    exact spells_noArgs ⟨rfl, rfl, rfl⟩
  case h_15 | h_16 | h_18 | h_19 | h_21 | h_22 | h_23 | h_25 | h_26 | h_28 | h_35 =>
    exact spells_oneWord fun _ => ⟨rfl, rfl, rfl⟩
  case h_1 =>
    exact spells_take8 fun _ _ => spells_take16 fun _ _ =>
      spells_last16 (fun _ => spells_some ⟨rfl, rfl, rfl⟩) fun _ _ _ => rfl
  case h_3 =>
    exact spells_take8 fun _ _ => spells_take8 fun _ _ => spells_take8 fun _ _ => spells_take16 fun _ _ =>
      spells_take8 fun _ _ => spells_last8 (fun _ => spells_ite (fun _ => spells_some ⟨rfl, rfl, rfl⟩) spells_none)
        fun _ _ _ => rfl
  case h_5 | h_14 | h_27 =>
    exact spells_take32 fun _ _ => spells_last8 (fun _ => spells_some ⟨rfl, rfl, rfl⟩) fun _ _ _ => rfl
  case h_6 =>
    exact spells_take8 fun _ _ => spells_take8 fun _ _ => spells_take8 fun _ _ => spells_take8 fun _ _ =>
      spells_take8 fun _ _ => spells_last8 (fun _ => spells_ite (fun _ => spells_some ⟨rfl, rfl, rfl⟩) spells_none)
        fun _ _ _ => rfl
  case h_7 => exact spells_take8 spells_setZone
  case h_8 | h_9 =>
    exact spells_take8 fun _ _ => spells_last8 (fun _ => spells_some ⟨rfl, rfl, rfl⟩) fun _ _ _ => rfl
  case h_10 =>
    exact spells_take8 fun _ _ => spells_last16 (fun _ => spells_some ⟨rfl, rfl, rfl⟩) fun _ _ _ => rfl
  case h_12 =>
    exact spells_take32 fun _ _ => spells_take8 fun _ _ => spells_take8 fun _ _ => spells_take8 fun _ _ =>
      spells_take32 fun _ _ => spells_take8 fun _ _ => spells_take32 fun _ _ =>
      spells_last16 (fun _ => spells_ite (fun _ => spells_some ⟨rfl, rfl, rfl⟩) spells_none) fun _ _ _ => rfl
  case h_13 =>
    exact spells_take32 fun _ _ => spells_take8 fun _ _ =>
      spells_last16 (fun _ => spells_ite (fun _ => spells_some ⟨rfl, rfl, rfl⟩) spells_none) fun _ _ _ => rfl
  case h_17 | h_20 =>
    exact spells_take8 fun _ _ => spells_ite (fun _ => spells_oneWord fun _ => ⟨rfl, rfl, rfl⟩)
      (spells_ite (fun _ => spells_last8 (fun _ => spells_some ⟨rfl, rfl, rfl⟩) fun _ _ _ => rfl) spells_none)
  case h_24 =>
    exact spells_take32 fun id _ => spells_take8 fun o _ => spells_take8 fun r _ => spells_take8 (spells_decide id o r)
  case h_29 =>
    exact spells_take32 fun _ _ => spells_last32 (fun _ => spells_some ⟨rfl, rfl, rfl⟩) fun _ _ _ => rfl
  case h_30 => exact spells_last8 (fun _ => spells_some ⟨rfl, rfl, rfl⟩) fun _ _ _ => rfl
  case h_39 =>
    exact spells_take8 fun _ _ => spells_take8 fun _ _ => spells_take8 fun _ _ =>
      spells_last8 (fun _ => spells_some ⟨rfl, rfl, rfl⟩) fun _ _ _ => rfl
  case h_40 | h_41 | h_42 => exact spells_last16 (fun _ => spells_some ⟨rfl, rfl, rfl⟩) fun _ _ _ => rfl
  case h_45 => exact spells_none

theorem parseCommand_eq_some {h : Header} {code : Nat} {args : List Byte} {i : Instr} (hi : parseCommand h code args = some i) :
    Spelled h code args.length i :=
  Nat.zero_add args.length ▸ parseCommand_spells h code args i hi

/-- A number of argument bytes that fits no command of the code spells none (R188). -/
theorem parseCommand_eq_none_of_length {h : Header} {code : Nat} {args : List Byte}
    (hlen : ∀ i, commandCode i = some code → (commandBytes i).length ≠ args.length) : parseCommand h code args = none :=
  Option.eq_none_iff_forall_ne_some.mpr fun i hi => hlen i (parseCommand_eq_some hi).code (parseCommand_eq_some hi).length

/-! ### Framers and links (R186 to R188, R210) -/

theorem PerPort.put_at {α : Type} (x : PerPort α) (p : Port) : x.put p (x.at p) = x := by
  cases p <;> rfl

theorem State.modPort_self {s : State} {p : Port} {f : PortUnit → PortUnit} (hf : f (s.ports.at p) = s.ports.at p) :
    s.modPort p f = s := by
  rw [modPort, hf, PerPort.put_at]

namespace PortUnit

variable {u : PortUnit}

/-- A start character within 2 to 250 opens a frame, and is counted as a break of one under way (R186). -/
theorem startChar_opens {v : Nat} (hv : 2 ≤ v ∧ v ≤ 250) :
    u.startChar v = { u with
      framer := { state := .receiving, expected := v, chars := [] }
      breaks := if u.framer.state = .receiving then min (u.breaks + 1) 65535 else u.breaks } := by
  unfold startChar
  by_cases hr : u.framer.state = .receiving <;> simp only [if_pos hv, hr, if_true, if_false] <;> rfl

/-- Any other start character is answered FRAME_ERROR, and what follows it is discarded (R186). -/
theorem startChar_refused {v : Nat} (hv : ¬ (2 ≤ v ∧ v ≤ 250)) :
    u.startChar v = { u with
      framer := { state := .discarding, expected := 0, chars := [] }
      breaks := if u.framer.state = .receiving then min (u.breaks + 1) 65535 else u.breaks
      errors := min (u.errors + 1) 65535
      responses := u.responses ++ [{ status := .frameError, tag := 0#8, data := [] }] } := by
  unfold startChar
  by_cases hr : u.framer.state = .receiving <;> simp only [if_neg hv, hr, if_true, if_false] <;> rfl

theorem bodyChar_rest (hr : u.framer.state = .rest) (b : Byte) :
    u.bodyChar b = { u with strays := min (u.strays + 1) 65535 } := by
  simp only [bodyChar, hr]
  rfl

theorem bodyChar_discarding (hd : u.framer.state = .discarding) (b : Byte) : u.bodyChar b = u := by
  simp only [bodyChar, hd]

theorem bodyChar_counted (hr : u.framer.state = .receiving) {b : Byte}
    (hn : u.framer.chars.length + 1 < u.framer.expected + 2) :
    u.bodyChar b = { u with framer := { u.framer with chars := u.framer.chars ++ [b] } } := by
  have hlen : ¬ u.framer.expected + 2 ≤ (u.framer.chars ++ [b]).length := by
    rw [List.length_append, List.length_singleton]; omega
  simp only [bodyChar, hr, if_neg hlen]

theorem bodyChar_last (hr : u.framer.state = .receiving) {body : List Byte} {a b : Byte} (hc : u.framer.chars = body ++ [a])
    (hn : body.length = u.framer.expected) :
    u.bodyChar b = u.complete u.framer.expected (body ++ [a, b]) := by
  have hcs : u.framer.chars ++ [b] = body ++ [a, b] := by rw [hc, List.append_assoc]; rfl
  have hlen : u.framer.expected + 2 ≤ (body ++ [a, b]).length := by
    rw [List.length_append, hn]; rfl
  simp only [bodyChar, hr, hcs, if_pos hlen]

/-- A frame verifies when its last two characters spell the CRC-16 over its length and body (R210). -/
theorem frameVerifies_iff {n : Nat} {body : List Byte} (hn : body.length = n) (a b : Byte) :
    frameVerifies n (body ++ [a, b]) = true ↔ a.toNat * 256 + b.toNat = (crc16 (BitVec.ofNat 8 n :: body)).toNat := by
  subst hn
  rw [frameVerifies, List.drop_left, List.take_left, beq_iff_eq]
  simp [unsignedOf]

theorem complete_verified {n : Nat} {body : List Byte} (hn : body.length = n) {a b : Byte}
    (hv : a.toNat * 256 + b.toNat = (crc16 (BitVec.ofNat 8 n :: body)).toNat) :
    u.complete n (body ++ [a, b]) = { u with
      framer := { state := .rest, expected := 0, chars := [] }, received := u.received ++ [body] } := by
  have hbody : (body ++ [a, b]).take n = body := by rw [← hn, List.take_left]
  simp only [complete, (frameVerifies_iff hn a b).mpr hv, if_true, hbody]
  rfl

theorem complete_damaged {n : Nat} {body : List Byte} (hn : body.length = n) {a b : Byte}
    (hv : a.toNat * 256 + b.toNat ≠ (crc16 (BitVec.ofNat 8 n :: body)).toNat) :
    u.complete n (body ++ [a, b]) = { u with
      framer := { state := .rest, expected := 0, chars := [] }
      errors := min (u.errors + 1) 65535
      responses := u.responses ++ [{ status := .frameError, tag := 0#8, data := [] }] } := by
  simp only [complete, if_neg (mt (frameVerifies_iff hn a b).mp hv)]
  rfl

theorem silence_receiving (hr : u.framer.state = .receiving) :
    u.silence = { u with
      framer := { state := .rest, expected := 0, chars := [] }, timeouts := min (u.timeouts + 1) 65535 } :=
  if_pos hr

theorem sendFirst_cons {r : Response} {rest : List Response} (hr : u.responses = r :: rest) :
    u.sendFirst = { u with responses := rest, sent := frameOf r.body } := by
  simp only [sendFirst, hr]

end PortUnit

section links

variable {s : State} {p : Port} {u : PortUnit}

/-- A character at a running part is its framer's (R186). -/
theorem exec_startChar (hp : s.powered = true) {v : Byte} (hu : (s.ports.at p).startChar v.toNat = u) :
    exec (.characterReceived p true v) s = .next { s with ports := s.ports.put p u } := by
  subst hu
  exact congrArg Host.Outcome.next (if_pos hp)

theorem exec_bodyChar (hp : s.powered = true) {b : Byte} (hu : (s.ports.at p).bodyChar b = u) :
    exec (.characterReceived p false b) s = .next { s with ports := s.ports.put p u } := by
  subst hu
  exact congrArg Host.Outcome.next (if_pos hp)

/-- A received frame is taken from its port and checked (R188). -/
theorem exec_frameReceived (hp : s.powered = true) {code tag : Byte} {args : List Byte} {rest : List (List Byte)}
    (hr : (s.ports.at p).received = (code :: tag :: args) :: rest) :
    exec (.frameReceived p) s = .next
      (({ s with ports := s.ports.put p { s.ports.at p with received := rest } } : State).takeFrame
        { port := p, tag := tag } code.toNat args) := by
  have hreceive : exec (.frameReceived p) s = .next (s.receive p) := rfl
  rw [hreceive, State.receive]
  simp only [hr, hp, if_true]
  rfl

end links

/-! ### The checks of a received frame (R188) -/

/-- A serial command's row runs the command as a received frame does. -/
theorem exec_eq_runCommand {i : Instr} {h : Header} (hh : header? i = some h) (s : State) :
    exec i s = .next (runCommand i s) := by
  cases i
  all_goals cases hh
  all_goals rfl

namespace State

variable {s : State} {h : Header} {code : Nat} {args : List Byte}

theorem takeFrame_start (hm : s.ctl.mode = .start) : s.takeFrame h code args = s.respond h .busy [] :=
  if_pos hm

theorem takeFrame_flying (hm : s.ctl.mode ≠ .start) (hf : (s.ports.at h.port).inFlight ≠ none)
    (hr : ¬ (h.port = .t ∧ code = 36)) : s.takeFrame h code args = s.respond h .busy [] := by
  have hbusy : ((s.ports.at h.port).inFlight.isSome && !(h.port == .t && code == restartCode)) = true := by
    simpa [restartCode, Option.isSome_iff_ne_none] using And.intro hf (not_and_or.mp hr)
  exact (if_neg hm).trans (if_pos hbusy)

/-! Past the checks of mode and of a command in flight a frame is judged by its code, its rights and its bytes, in this order. -/

section judged

variable (hm : s.ctl.mode ≠ .start) (hf : (s.ports.at h.port).inFlight = none ∨ (h.port = .t ∧ code = 36))

include hf in
theorem frame_unblocked : ((s.ports.at h.port).inFlight.isSome && !(h.port == .t && code == restartCode)) = false := by
  rcases hf with hf | ⟨hport, hcode⟩
  · simp [hf]
  · simp [hport, hcode, restartCode]

include hm hf

theorem takeFrame_unknown (hg : commandGroup code = none) : s.takeFrame h code args = s.respond h .badArgument [] := by
  simp only [takeFrame, if_neg hm, frame_unblocked hf, Bool.false_eq_true, if_false, hg]

variable {g : Group} (hg : commandGroup code = some g)
include hg

theorem takeFrame_denied (hr : holdsGroup s.ctl.working.grants g h.port = false) :
    s.takeFrame h code args = s.respond h .denied [] := by
  simp only [takeFrame, if_neg hm, frame_unblocked hf, Bool.false_eq_true, if_false, hg, hr, Bool.not_false, if_true]

variable (hr : holdsGroup s.ctl.working.grants g h.port = true)
include hr

theorem takeFrame_misfit (hi : parseCommand h code args = none) : s.takeFrame h code args = s.formFailure h code := by
  simp only [takeFrame, if_neg hm, frame_unblocked hf, Bool.false_eq_true, if_false, hg, hr, Bool.not_true, hi]

theorem takeFrame_taken {i : Instr} (hi : parseCommand h code args = some i) : s.takeFrame h code args = runCommand i s := by
  simp only [takeFrame, if_neg hm, frame_unblocked hf, Bool.false_eq_true, if_false, hg, hr, Bool.not_true, hi]

end judged

theorem formFailure_badArgument (hm : modeTakes s.ctl.mode code = true)
    (hc : commitHolds code = false ∨ s.ctl.commit = none) : s.formFailure h code = s.respond h .badArgument [] := by
  have hfree : (commitHolds code && s.ctl.commit.isSome) = false := by
    rcases hc with hc | hc <;> simp [hc]
  simp [formFailure, hm, hfree]

end State

/-- Settles O60: the framer's characters and silence, then the checks of a received frame in their order, then the answer sent. -/
theorem linksFrameCommandsAndAnswers : Obligations.LinksFrameCommandsAndAnswers := by
  unfold Obligations.LinksFrameCommandsAndAnswers
  rintro s p _ hp rfl
  refine ⟨fun v hlow hhigh => exec_startChar hp (PortUnit.startChar_opens ⟨hlow, hhigh⟩),
    fun v hv => exec_startChar hp (PortUnit.startChar_refused (by omega)), fun b => ⟨?_, ?_, ?_, ?_⟩, ?_, ?_, ?_, ?_, ?_⟩
  · exact fun hr => exec_bodyChar hp (PortUnit.bodyChar_rest hr b)
  · intro hd
    rw [exec_bodyChar hp (PortUnit.bodyChar_discarding hd b), PerPort.put_at]
  · exact fun hr hn => exec_bodyChar hp (PortUnit.bodyChar_counted hr hn)
  · intro body a hr hc hn
    have hlast := PortUnit.bodyChar_last (b := b) hr hc hn
    exact ⟨fun hv => exec_bodyChar hp (hlast.trans (PortUnit.complete_verified hn hv)),
      fun hv => exec_bodyChar hp (hlast.trans (PortUnit.complete_damaged hn hv))⟩
  · intro hr
    rw [← PortUnit.silence_receiving hr]
    rfl
  · exact fun hr => congrArg Host.Outcome.next (State.modPort_self (if_neg hr))
  · intro hr
    have hreceive : s.receive p = s := by simp only [State.receive, hr]
    exact congrArg Host.Outcome.next hreceive
  · rintro code tag args rest h v hr rfl hv
    have hctl : v.ctl = s.ctl := by rw [hv]
    have hin : (v.ports.at p).inFlight = (s.ports.at p).inFlight := by rw [hv, PerPort.at_put_same]
    rw [exec_frameReceived hp hr, ← hv, ← hctl, ← hin]
    refine ⟨fun hm => by rw [State.takeFrame_start hm], fun hm hf hr => by rw [State.takeFrame_flying hm hf hr],
      fun hm hf => ⟨fun hg => by rw [State.takeFrame_unknown hm hf hg], fun g hg =>
        ⟨fun hr => by rw [State.takeFrame_denied hm hf hg hr], fun hr => ⟨fun hlen hmode hcommit => ?_, fun i hi => ?_⟩⟩⟩⟩
    · have hnone := parseCommand_eq_none_of_length (h := { port := p, tag := tag }) hlen
      rw [State.takeFrame_misfit hm hf hg hr hnone, State.formFailure_badArgument hmode hcommit]
    · exact ⟨runCommand i v, by rw [State.takeFrame_taken hm hf hg hr hi],
        exec_eq_runCommand (parseCommand_eq_some hi).header v⟩
  · intro r rest hr
    rw [← PortUnit.sendFirst_cons hr]
    rfl

end Sys2Proof.Machine

namespace Sys2Proof.Machine

/-! ## The step and its queue (log 3) -/

/-- Settles O1, by the two branches of the step. -/
theorem frontOfTheQueueIsTaken : Obligations.FrontOfTheQueueIsTaken := by
  unfold Obligations.FrontOfTheQueueIsTaken
  refine ⟨fun c rest s => ?taken, fun s => ?idle⟩
  case taken => rfl
  case idle => rfl

/-- Every row's meaning ends in a next state: the conditions of a row choose that state, never a fault or a refusal. -/
theorem exec_completes (i : Instr) (s : State) : ∃ t, exec i s = .next t := by
  cases i
  all_goals exact ⟨_, rfl⟩

/-- The queue is the ledger's first clause, which every row keeps, whatever else is claimed. -/
theorem exec_pending {i : Instr} {s t : State} (h : exec i s = .next t) : t.pending = s.pending :=
  (keeps_exec i False.elim False.elim (keeps_ofBounds s s.pending) h).commands

/-- Settles O2: the row completes, and the state it completes in has the queue of the state before. -/
theorem everyRowCompletesAndLeavesTheQueue : Obligations.EveryRowCompletesAndLeavesTheQueue := by
  unfold Obligations.EveryRowCompletesAndLeavesTheQueue
  intro i s
  obtain ⟨t, ht⟩ := exec_completes i s
  exact ⟨t, ht, exec_pending ht⟩

end Sys2Proof.Machine
